-- ==== Sys2Proof/Word.lean ====
section
/-! DEFINITION. The plain number types of the NSC-8: the bytes and half-words of its frames, and the numbered
things of 00_scope.md, "Numbering" (consoles, areas, points, lines, live slots, roster slots, notes, groups). -/

namespace Sys2Proof

/-- One byte of a frame or of a text. -/
abbrev Byte := BitVec 8

/-- A two-byte field of a frame, most significant byte first on the line (chapter 11). -/
abbrev Half := BitVec 16

/-- A badge number: three bytes (R115, R193). -/
abbrev Badge := BitVec 24

/-- Consoles 0 to 7; console 0 is the shift supervisor's desk. -/
abbrev Console := Fin 8

/-- Plant areas 0 to 11. -/
abbrev Area := Fin 12

/-- Alarm points 0 to 255. -/
abbrev Point := Fin 256

/-- Supervised line inputs 0 to 31. -/
abbrev Line := Fin 32

/-- Slots 0 to 63 of the live table (R37). -/
abbrev Slot := Fin 64

/-- Roster slots. The manual numbers them 1 to 48; slot n is the value n - 1 here (see Operator.number). -/
abbrev Operator := Fin 48

/-- Slots 0 to 31 of the notes table. -/
abbrev Note := Fin 32

/-- Blanking groups 0 to 3. -/
abbrev Group := Fin 4

/-- Grant and effective levels 0 to 4 (00_scope.md, "Levels"). -/
abbrev Level := Fin 5

/-- The manual's number of a roster slot, 1 to 48. -/
def Operator.number (o : Operator) : Nat := o.val + 1

/-- Replace one entry of a table by a function of it. -/
def upd {α : Type} {n : Nat} (v : Vector α n) (i : Fin n) (f : α → α) : Vector α n :=
  v.set i.val (f v[i]) i.isLt

/-- All numbers below n whose entry meets a test, in rising order. -/
def numbersWhere {n : Nat} (p : Fin n → Bool) : List (Fin n) :=
  (List.finRange n).filter p

/-- The lowest number below n that meets a test. -/
def lowestWhere {n : Nat} (p : Fin n → Bool) : Option (Fin n) :=
  (List.finRange n).find? p

end Sys2Proof
end

