-- ==== Sys2Proof/Config.lean ====
section
/-! DEFINITION. What the manual leaves to the installation, to the medium or to chance: opaque constants without a
body, so that nothing can be proved from a particular value of them. Each is named in the assumption log. -/

namespace Sys2Proof.Config

/-- Whether the n-th store write reads back as written (R189). Log entry 3. -/
opaque storeReadsBack : Nat → Bool

/-- Whether a copy that was good before the n-th store write, which failed, is still good after it (R189 says only
that the copy reads back otherwise). Log entry 4. -/
opaque failedWriteKeepsCopy : Nat → Bool

/-- Which of two generation numbers exactly 2^31 apart is taken as the higher: true for copy A (R188 leaves both
"neither higher nor lower"). Log entry 5. -/
opaque antipodalPrefersA : BitVec 32 → Bool

/-- The rank of the k-th of the deadlines that fall due together at the n-th tick: the order in which they are taken
is left open ("either may be taken first"). Log entry 6. -/
opaque dueRank : Nat → Nat → Nat

/-- What the four bytes of a part-time value show for a deadline that four bytes cannot hold. Log entry 7. -/
opaque unrepresentableTime : Nat → BitVec 32

/-- What the two bytes of a time "from now" show for a span that is 65,535 tenths or more. Log entry 7. -/
opaque unrepresentableSpan : Nat → BitVec 16

/-- The place session state byte of READ_OPERATOR for a place that is not in charge, by its code (R134 gives a session
state with in charge only). Log entry 20. -/
opaque placeSessionByte : Byte → Byte

/-- Bits 2 to 7 of the flags of a NOTE item, by the code of the note's kind: R158 has the item page carry the kind, and the
layout of 11.3 gives it no place (log entry 32). -/
opaque noteItemBits : Byte → BitVec 6

/-- Whether the cold start at the end of part time cuts off a store write of the request still in hand: R189 says
what the cut does, and no rule says whether a write stands then. Log entry 13. -/
opaque endOfTimeCutsWrite : Nat → Bool

/-- The bytes after the occupied byte in the answer for an empty slot, by request code and place: the manual
states them for READ_RECORD only. Log entry 8. -/
opaque emptyReadByte : Byte → Nat → Byte

end Sys2Proof.Config
end

