-- ==== Sys2Proof/Syntax.lean ====
section
/-! DEFINITION. The commands of the NSC-8: one constructor for each row of spec/opcode_table.json, with the operands the
manual gives the row. Plant link requests carry their coded fields as received (R193), so that a field outside its
coded range is a term of the type and is answered BAD_REQUEST (R194). -/

namespace Sys2Proof

/-- A frame receiver: the plant link's, or that of one console port (R180). -/
inductive Rx where
  | plant
  | port (c : Console)
deriving DecidableEq, Repr

/-- The acting console and the acting roster slot of a request, as coded in bytes 2 and 3 of its body (R193). -/
structure Acting where
  console : Byte
  slot : Byte
deriving DecidableEq, Repr

/-- The steps of spec/opcode_table.json, in the table's order. -/
inductive Instr where
  /-- Power-up, reset pulse or the end of part time; `midWrite` says whether a store write is cut off by it. -/
  | coldStart (midWrite : Bool)
  /-- The loop of a line is now measured at so many ohms. -/
  | bandChange (line : Line) (ohms : Nat)
  | qualificationDeadline (line : Line)
  | blankEnd (group : Group)
  | shelfExpiry (point : Point)
  | reminderDeadline (point : Point)
  | escalationDeadline (point : Point)
  | secondsEnd (console : Console)
  | windowEnd (console : Console)
  | graceEnd (console : Console)
  | offerDeadline (console : Console)
  | reviewDeadline (console : Console)
  /-- The bytes after the sync byte of a frame that does not pass the frame checks at its end gap. -/
  | frameDiscarded (rx : Rx) (bytes : List Byte)
  /-- The receiver's line clock, in microseconds, as the frame time is tested. -/
  | frameTime (rx : Rx) (clock : Nat)
  | busyDiscard
  | undefinedRequest (body : List Byte)
  | telegramSent (console : Console)
  | heartbeat (console : Console) (report : Byte)
  | undefinedTelegram (console : Console) (body : List Byte)
  | ackKey (console : Console)
  | silenceKey (console : Console)
  | resetKey (console : Console)
  | handoverKey (console : Console)
  | seenKey (console : Console)
  | acceptKey (console : Console)
  | signOutKey (console : Console)
  | badge (console : Console) (number : Badge)
  | raise (seq point : Byte)
  | clear (seq point : Byte)
  | ack (seq : Byte) (who : Acting) (point : Byte)
  | resetHeld (seq : Byte) (who : Acting) (point : Byte)
  | shelve (seq : Byte) (who : Acting) (point : Byte) (minutes : Half)
  | unshelve (seq : Byte) (who : Acting) (point : Byte)
  | pointWrite (seq : Byte) (who : Acting) (point use line area priority cls shelvable : Byte) (maxShelf : Half)
  | lineWrite (seq : Byte) (who : Acting) (line sense supervised filter group : Byte)
  | blankGroup (seq : Byte) (who : Acting) (group : Byte)
  | readLine (seq line : Byte)
  | areaWrite (seq : Byte) (who : Acting) (area ackLevel shelveLevel resetLevel : Byte)
  | moveArea (seq : Byte) (who : Acting) (area owner fallback : Byte)
  | readArea (seq area : Byte)
  | readRecord (seq slot : Byte)
  | readPoint (seq point : Byte)
  | setDay (seq : Byte) (day : Half)
  | rosterWrite (seq : Byte) (who : Acting) (slot : Byte) (badge : Badge) (grants : Vector Byte 12) (expiry : Half)
  | rosterSuspend (seq : Byte) (who : Acting) (slot : Byte)
  | rosterRestore (seq : Byte) (who : Acting) (slot : Byte)
  | rosterRetire (seq : Byte) (who : Acting) (slot : Byte)
  | readOperator (seq slot : Byte)
  | signOut (seq : Byte) (who : Acting)
  | forceSignOut (seq : Byte) (who : Acting) (target : Byte)
  | portRestart (seq : Byte) (who : Acting) (console : Byte)
  | portEnable (seq : Byte) (who : Acting) (console setting : Byte)
  | readConsole (seq console : Byte)
  | noteEnter (seq : Byte) (who : Acting) (area kind : Byte) (text : List Byte)
  | noteClear (seq : Byte) (who : Acting) (note : Byte)
  | readNote (seq note : Byte)
  | handoverOffer (seq : Byte) (who : Acting)
  | handoverSeen (seq : Byte) (who : Acting) (kind number : Byte)
  | handoverAccept (seq : Byte) (who : Acting)
  | handoverWithdraw (seq : Byte) (who : Acting)
  | readHandover (seq console page : Byte)
  | readChanges (seq : Byte)
  | readStatus (seq : Byte)
  | paramWrite (seq : Byte) (who : Acting) (parameter : Byte) (first second : Half)
  | readParam (seq parameter : Byte)
  /-- A sync byte at a receiver, with the reading of its line clock in microseconds. -/
  | frameStart (rx : Rx) (clock : Nat)
  | idleEndGap (rx : Rx)
  | answerSent
  /-- The supply is lost; `midWrite` says whether a store write is cut off by it. -/
  | powerLoss (midWrite : Bool)
deriving DecidableEq, Repr

end Sys2Proof
end

