-- ==== Sys2Proof/Decode.lean ====
section
/-! DEFINITION. Decoding. The rows of spec/opcode_table.json give no bits, so no table word spells a command
(decodeTableWord). The byte layouts of chapter 11 are here: multi-byte numbers (most significant byte first), the frame
check of R180, the request bodies of R193 both ways, and the panel telegrams of R195. -/

namespace Sys2Proof

/-- No row of the opcode table gives bits: a word of the table spells no command. -/
def decodeTableWord (_nbits _w : Nat) : Option Instr := none

namespace Bytes

/-- A two-byte number from its bytes, most significant first (chapter 11). -/
def half (hi lo : Byte) : Half := hi ++ lo

/-- A two-byte number as sent. -/
def ofHalf (h : Half) : List Byte := [h.extractLsb' 8 8, h.extractLsb' 0 8]

/-- A three-byte badge number from its bytes. -/
def badge (a b c : Byte) : Badge := a ++ b ++ c

/-- A badge number as sent: three bytes. -/
def ofBadge (n : Badge) : List Byte := [n.extractLsb' 16 8, n.extractLsb' 8 8, n.extractLsb' 0 8]

/-- A four-byte number as sent. -/
def ofWord (w : BitVec 32) : List Byte :=
  [w.extractLsb' 24 8, w.extractLsb' 16 8, w.extractLsb' 8 8, w.extractLsb' 0 8]

end Bytes

namespace Frame

/-- One bit of the cyclic code x^16 + x^12 + x^5 + 1, most significant bit first (R180). -/
def crcShift (r : Half) : Half :=
  if r.msb then (r <<< 1) ^^^ 0x1021#16 else r <<< 1

/-- The check register after one more byte. -/
def crcByte (r : Half) (b : Byte) : Half :=
  let r := r ^^^ (b.setWidth 16 <<< 8)
  crcShift (crcShift (crcShift (crcShift (crcShift (crcShift (crcShift (crcShift r)))))))

/-- The check of R180 over LENGTH and the body: initial value all ones, no final inversion. -/
def check (bytes : List Byte) : Half :=
  bytes.foldl crcByte 0xFFFF#16

/-- The sync byte of 11.1. -/
def sync : Byte := 0x7E#8

/-- A whole frame around a body: sync, LENGTH, body, check high byte first (11.1). -/
def ofBody (body : List Byte) : List Byte :=
  let covered := BitVec.ofNat 8 body.length :: body
  sync :: covered ++ Bytes.ofHalf (check covered)

/-- The judgement at the end gap (R180) of the bytes received after the sync byte: 1 + LENGTH + 2 of them, and the
check over LENGTH and the body matches. -/
def good (bytes : List Byte) : Bool :=
  match bytes with
  | [] => false
  | len :: rest =>
    rest.length == len.toNat + 2 &&
      rest.drop len.toNat == Bytes.ofHalf (check (len :: rest.take len.toNat))

end Frame

/-- The request code and body of a request (R193); none for a step that is no request. -/
def encodeBody : Instr → Option (List Byte)
  | .raise q p => some [0x01, q, p]
  | .clear q p => some [0x02, q, p]
  | .setDay q d => some ([0x03, q] ++ Bytes.ofHalf d)
  | .readStatus q => some [0x04, q]
  | .readChanges q => some [0x05, q]
  | .readParam q p => some [0x06, q, p]
  | .readPoint q p => some [0x10, q, p]
  | .readRecord q r => some [0x11, q, r]
  | .readLine q l => some [0x12, q, l]
  | .readArea q a => some [0x13, q, a]
  | .readConsole q c => some [0x14, q, c]
  | .readOperator q o => some [0x15, q, o]
  | .readNote q n => some [0x16, q, n]
  | .readHandover q c g => some [0x17, q, c, g]
  | .pointWrite q w p u l a pr cl sh mx =>
    some ([0x20, q, w.console, w.slot, p, u, l, a, pr, cl, sh] ++ Bytes.ofHalf mx)
  | .lineWrite q w l se su f g => some [0x21, q, w.console, w.slot, l, se, su, f, g]
  | .areaWrite q w a k h r => some [0x22, q, w.console, w.slot, a, k, h, r]
  | .moveArea q w a o f => some [0x23, q, w.console, w.slot, a, o, f]
  | .blankGroup q w g => some [0x24, q, w.console, w.slot, g]
  | .paramWrite q w p v1 v2 =>
    some ([0x25, q, w.console, w.slot, p] ++ Bytes.ofHalf v1 ++ Bytes.ofHalf v2)
  | .portEnable q w c x => some [0x26, q, w.console, w.slot, c, x]
  | .portRestart q w c => some [0x27, q, w.console, w.slot, c]
  | .rosterWrite q w s b g e =>
    some ([0x28, q, w.console, w.slot, s] ++ Bytes.ofBadge b ++ g.toList ++ Bytes.ofHalf e)
  | .rosterSuspend q w s => some [0x29, q, w.console, w.slot, s]
  | .rosterRestore q w s => some [0x2A, q, w.console, w.slot, s]
  | .rosterRetire q w s => some [0x2B, q, w.console, w.slot, s]
  | .ack q w p => some [0x30, q, w.console, w.slot, p]
  | .resetHeld q w p => some [0x31, q, w.console, w.slot, p]
  | .shelve q w p m => some ([0x32, q, w.console, w.slot, p] ++ Bytes.ofHalf m)
  | .unshelve q w p => some [0x33, q, w.console, w.slot, p]
  | .signOut q w => some [0x34, q, w.console, w.slot]
  | .forceSignOut q w t => some [0x35, q, w.console, w.slot, t]
  | .noteEnter q w a k t => some ([0x36, q, w.console, w.slot, a, k] ++ t)
  | .noteClear q w n => some [0x37, q, w.console, w.slot, n]
  | .handoverOffer q w => some [0x38, q, w.console, w.slot]
  | .handoverSeen q w k n => some [0x39, q, w.console, w.slot, k, n]
  | .handoverAccept q w => some [0x3A, q, w.console, w.slot]
  | .handoverWithdraw q w => some [0x3B, q, w.console, w.slot]
  | .coldStart _ | .bandChange _ _ | .qualificationDeadline _ | .blankEnd _ | .shelfExpiry _
  | .reminderDeadline _ | .escalationDeadline _ | .secondsEnd _ | .windowEnd _ | .graceEnd _
  | .offerDeadline _ | .reviewDeadline _ | .frameDiscarded _ _ | .frameTime _ _ | .busyDiscard
  | .undefinedRequest _ | .telegramSent _ | .heartbeat _ _ | .undefinedTelegram _ _ | .ackKey _
  | .silenceKey _ | .resetKey _ | .handoverKey _ | .seenKey _ | .acceptKey _ | .signOutKey _
  | .badge _ _ | .frameStart _ _ | .idleEndGap _ | .answerSent | .powerLoss _ => none

/-- A request without acting fields from its code and the bytes after the sequence number (R193). -/
def decodePlain (code : Nat) (q : Byte) (rest : List Byte) : Option Instr :=
  match rest with
  | [] => if code = 0x04 then some (.readStatus q) else if code = 0x05 then some (.readChanges q) else none
  | [x] =>
    if code = 0x01 then some (.raise q x) else if code = 0x02 then some (.clear q x)
    else if code = 0x06 then some (.readParam q x) else if code = 0x10 then some (.readPoint q x)
    else if code = 0x11 then some (.readRecord q x) else if code = 0x12 then some (.readLine q x)
    else if code = 0x13 then some (.readArea q x) else if code = 0x14 then some (.readConsole q x)
    else if code = 0x15 then some (.readOperator q x) else if code = 0x16 then some (.readNote q x)
    else none
  | [x, y] =>
    if code = 0x03 then some (.setDay q (Bytes.half x y))
    else if code = 0x17 then some (.readHandover q x y) else none
  | _ => none

/-- A request with acting fields from its code and the bytes after them (R193). -/
def decodeActing (code : Nat) (q : Byte) (w : Acting) (rest : List Byte) : Option Instr :=
  match rest with
  | [] =>
    if code = 0x34 then some (.signOut q w) else if code = 0x38 then some (.handoverOffer q w)
    else if code = 0x3A then some (.handoverAccept q w)
    else if code = 0x3B then some (.handoverWithdraw q w) else none
  | [x] =>
    if code = 0x24 then some (.blankGroup q w x) else if code = 0x27 then some (.portRestart q w x)
    else if code = 0x29 then some (.rosterSuspend q w x) else if code = 0x2A then some (.rosterRestore q w x)
    else if code = 0x2B then some (.rosterRetire q w x) else if code = 0x30 then some (.ack q w x)
    else if code = 0x31 then some (.resetHeld q w x) else if code = 0x33 then some (.unshelve q w x)
    else if code = 0x35 then some (.forceSignOut q w x) else if code = 0x37 then some (.noteClear q w x)
    else none
  | [x, y] =>
    if code = 0x26 then some (.portEnable q w x y)
    else if code = 0x39 then some (.handoverSeen q w x y) else none
  | [x, y, z] =>
    if code = 0x23 then some (.moveArea q w x y z)
    else if code = 0x32 then some (.shelve q w x (Bytes.half y z)) else none
  | [x, y, z, t] => if code = 0x22 then some (.areaWrite q w x y z t) else none
  | [x, y, z, t, u] =>
    if code = 0x21 then some (.lineWrite q w x y z t u)
    else if code = 0x25 then some (.paramWrite q w x (Bytes.half y z) (Bytes.half t u)) else none
  | [x, y, z, t, u, v, r, m, n] =>
    if code = 0x20 then some (.pointWrite q w x y z t u v r (Bytes.half m n)) else none
  | [x, b0, b1, b2, g0, g1, g2, g3, g4, g5, g6, g7, g8, g9, g10, g11, e0, e1] =>
    if code = 0x28 then
      some (.rosterWrite q w x (Bytes.badge b0 b1 b2) #v[g0, g1, g2, g3, g4, g5, g6, g7, g8, g9, g10, g11]
        (Bytes.half e0 e1))
    else none
  | _ => none

/-- The request a good frame's body carries (R182, R193, R194): none where the body is empty, the code is not defined
or the body's length is not the one the code defines. -/
def decodeBody (body : List Byte) : Option Instr :=
  match body with
  | code :: q :: rest =>
    if code.toNat < 0x20 then decodePlain code.toNat q rest
    else match rest with
      | c :: s :: own =>
        if code.toNat = 0x36 then
          match own with
          | a :: k :: text => if text.length ≤ 249 then some (.noteEnter q ⟨c, s⟩ a k text) else none
          | _ => none
        else decodeActing code.toNat q ⟨c, s⟩ own
      | _ => none
  | _ => none

/-- The step that a good panel telegram is (R195), by its kind byte and length. -/
def decodeTelegram (c : Console) (body : List Byte) : Instr :=
  match body with
  | [kind, x] =>
    if kind = 0x01 then .heartbeat c x
    else if kind = 0x02 then
      match x.toNat with
      | 1 => .ackKey c
      | 2 => .silenceKey c
      | 3 => .resetKey c
      | 4 => .handoverKey c
      | 5 => .seenKey c
      | 6 => .acceptKey c
      | 7 => .signOutKey c
      | _ => .undefinedTelegram c body
    else .undefinedTelegram c body
  | [kind, x, y, z] => if kind = 0x03 then .badge c (Bytes.badge x y z) else .undefinedTelegram c body
  | _ => .undefinedTelegram c body

end Sys2Proof
end

