-- ==== Sys2Proof/Machine/State.lean ====
section
/-! DEFINITION. The state of the NSC-8 as plain data: every stored and volatile record the manual names, the pins, the
frame receivers and the exchange on the plant link; the machine's own fields (a counter of free values drawn, the part
time of each console's last second's end, the queue of waiting commands); and the state after reset. -/

namespace Sys2Proof.Machine

/-! ### Lines (chapter 2) -/

/-- The measured condition of a line (R26). -/
inductive Band where
  | short
  | closed
  | opened
  | broken
deriving DecidableEq, Repr

/-- A candidate or qualified state of a line (R28). -/
inductive LineState where
  | normal
  | active
  | fault
deriving DecidableEq, Repr

inductive Sense where
  | closeToAlarm
  | openToAlarm
deriving DecidableEq, Repr

inductive FilterTime where
  | ms100
  | ms500
  | s2
  | s5
deriving DecidableEq, Repr

/-- The stored configuration of a line (R24). -/
structure LineConfig where
  sense : Sense
  supervised : Bool
  filter : FilterTime
  group : Option Group
deriving DecidableEq, Repr

/-- The live fields of a line (R24, R36). -/
structure LineLive where
  band : Band
  candidate : LineState
  appeared : Nat
  qualified : LineState
deriving DecidableEq, Repr

/-! ### Points, records and the waiting queue (chapters 2 and 3) -/

/-- The use of a point, with the line number that is present only for LINE (R18). -/
inductive PointUse where
  | unused
  | line (l : Line)
  | link
deriving DecidableEq, Repr

inductive Priority where
  | p1
  | p2
  | p3
  | p4
deriving DecidableEq, Repr

inductive AlarmClass where
  | selfClearing
  | locking
  | held
deriving DecidableEq, Repr

/-- The stored configuration of a point (R18); maxShelf in minutes. -/
structure PointConfig where
  use : PointUse
  area : Area
  priority : Priority
  cls : AlarmClass
  shelvable : Bool
  maxShelf : Nat
deriving DecidableEq, Repr

inductive Cause where
  | alarm
  | lineFault
deriving DecidableEq, Repr

inductive Condition where
  | active
  | gone
deriving DecidableEq, Repr

/-- The five states of a live record (R39). -/
inductive RecordState where
  | raisedUnack
  | acked
  | clearedUnack
  | resetWait
  | shelved
deriving DecidableEq, Repr

/-- A live record (R38). -/
structure Record where
  point : Point
  state : RecordState
  condition : Condition
  cause : Cause
  priority : Priority
  area : Area
  cls : AlarmClass
  occurrences : Nat
  firstRaised : Nat
  annunciatedAt : Nat
  route : Option Console
  silencedAtRoute : Bool
  silencedAtSupervisor : Bool
  stage : Fin 3
  floodHeld : Bool
  acknowledgedBy : Option Operator
  shelvedBy : Option Operator
  shelfEnd : Option Nat
deriving DecidableEq, Repr

/-- An entry of the waiting queue (R52). -/
structure Entry where
  point : Point
  cause : Cause
  priority : Priority
  condition : Condition
  occurrences : Nat
  arrival : Nat
deriving DecidableEq, Repr

/-! ### Areas, roster, notes, parameters: the rest of the stored contents (R188) -/

/-- The stored record of an area (R1). -/
structure AreaConfig where
  owner : Option Console
  fallback : Option Console
  ackLevel : Level
  shelveLevel : Level
  resetLevel : Level
deriving DecidableEq, Repr

inductive OperatorStatus where
  | active
  | suspended
deriving DecidableEq, Repr

/-- An occupied roster slot (R115). -/
structure OperatorRecord where
  badge : Badge
  status : OperatorStatus
  grants : Vector Level 12
  expiry : Option Nat
deriving DecidableEq, Repr

inductive NoteKind where
  | info
  | caution
deriving DecidableEq, Repr

/-- A standing note (R158). -/
structure NoteRecord where
  area : Area
  kind : NoteKind
  text : List Byte
  author : Option Operator
  entryDay : Nat
deriving DecidableEq, Repr

/-- T1 and T2 of one priority, in seconds (R83). -/
structure EscalationTimes where
  t1 : Nat
  t2 : Nat
deriving DecidableEq, Repr

/-- The fifteen parameters (10.4): window period in tenths of a second, the other times in seconds. -/
structure Params where
  escalation : Vector EscalationTimes 4
  floodOn : Nat
  floodOff : Nat
  window : Nat
  lockedPercent : Nat
  failLimit : Nat
  graceTime : Nat
  offerTime : Nat
  reviewTime : Nat
  blankTime : Vector Nat 4
deriving DecidableEq, Repr

/-- The contents of the stored image (R188), as each block holds its part of them. -/
structure Settings where
  points : Vector PointConfig 256
  lines : Vector LineConfig 32
  areas : Vector AreaConfig 12
  roster : Vector (Option OperatorRecord) 48
  notes : Vector (Option NoteRecord) 32
  params : Params
  enabled : Vector Bool 8
deriving DecidableEq, Repr

/-! ### Outcomes, telegrams, answers -/

/-- The reasons of a refusal (00_scope.md, "Outcomes"; 11.5). -/
inductive Reason where
  | unknownPoint
  | wrongSource
  | wrongState
  | alreadyDone
  | notRouted
  | notStaffed
  | notInCharge
  | levelTooLow
  | notShelvable
  | unknownBadge
  | suspended
  | alreadySignedIn
  | consoleOccupied
  | notQualified
  | handoverRequired
  | handoverBusy
  | itemsUnseen
  | flooded
  | nothingToDo
  | rosterFull
  | badgeInUse
  | inSession
  | notesFull
  | noAuthority
  | badValue
  | badRequest
deriving DecidableEq, Repr

/-- An outcome: none for OK, or the reason of a refusal. -/
abbrev Result := Option Reason

inductive Key where
  | ack
  | silence
  | reset
  | handover
  | seen
  | accept
  | signOut
deriving DecidableEq, Repr

/-- What the last result at a console is the result of (R147, R195). -/
inductive ResultSource where
  | key (k : Key)
  | badge
  | undefinedTelegram
deriving DecidableEq, Repr

/-- A horn pattern (R93). -/
inductive Pattern where
  | silent
  | sounding (p : Priority)
deriving DecidableEq, Repr

inductive HandoverLamp where
  | off
  | flashing
  | steady
deriving DecidableEq, Repr

inductive LinkLamp where
  | steady
  | flashing
  | off
deriving DecidableEq, Repr

/-- A panel-state telegram: the panel-visible values of a console (R143). -/
structure Telegram where
  pattern : Pattern
  count : Nat
  reminder : Bool
  flood : Bool
  listFull : Bool
  underQualified : Bool
  signedIn : Bool
  handover : HandoverLamp
  link : LinkLamp
  resultNumber : Byte
  lastResult : Option (ResultSource × Result)
deriving DecidableEq, Repr

/-- An answer on the plant link (R182, R193). -/
structure Answer where
  code : Byte
  seq : Byte
  result : Result
  storeFault : Bool
  storeLost : Bool
  data : List Byte
deriving DecidableEq, Repr

/-! ### Consoles and handovers (chapters 6, 8 and 9) -/

/-- A running heartbeat window: its start, the end of its locked part and its end, kept as they were set when the
window started (R136, R137). -/
structure Window where
  start : Nat
  lockedEnd : Nat
  finish : Nat
deriving DecidableEq, Repr

/-- The link state, with the window that is present while UP or LOST (R135, R140). -/
inductive Link where
  | off
  | down
  | up (w : Window)
  | lost (w : Window)
deriving DecidableEq, Repr

/-- The session state, with the operator in charge while ATTACHED or DETACHED and the grace end while DETACHED
(R135). -/
inductive Session where
  | none
  | attached (o : Operator)
  | detached (o : Operator) (graceEnd : Nat)
deriving DecidableEq, Repr

/-- The causes of a session end (R150). -/
inductive EndCause where
  | signedOut
  | forced
  | suspended
  | graceExpired
  | moved
  | handedOver
deriving DecidableEq, Repr

/-- The volatile fields of a console record (R135), with its load record (R99) and horn pattern (R93).
secondTaken is the model's own: the part time of the last second's end taken. -/
structure ConsoleRecord where
  link : Link
  count : Nat
  session : Session
  hornFault : Bool
  underQualified : Bool
  lastEnd : Option EndCause
  resultNumber : Byte
  lastResult : Option (ResultSource × Result)
  inFlight : Option Telegram
  pendingTelegram : Option Telegram
  load : Nat
  flooded : Bool
  secondSum : Nat
  secondTaken : Nat
  pattern : Pattern
deriving DecidableEq, Repr

/-- What a handover item names (R167). -/
inductive ItemRef where
  | alarm (p : Point)
  | note (n : Note)
deriving DecidableEq, Repr

structure Item where
  ref : ItemRef
  seen : Bool
  late : Bool
deriving DecidableEq, Repr

/-- The state of a handover with the fields present in it (R163). -/
inductive Phase where
  | none
  | offered (outgoing : Operator) (deadline : Nat) (items : List Item)
  | review (outgoing incoming : Operator) (deadline : Nat) (items : List Item)
deriving DecidableEq, Repr

inductive HandoverOutcome where
  | accepted
  | withdrawn
  | incomingLeft
  | lapsedOffer
  | lapsedReview
  | linkLost
  | suspended
  | forced
  | restart
deriving DecidableEq, Repr

/-- A handover record (R163). -/
structure Handover where
  phase : Phase
  lastOutcome : Option HandoverOutcome
deriving DecidableEq, Repr

/-! ### Plant link and store (chapter 10) -/

/-- A reference of the change set (R183). -/
inductive Ref where
  | point (p : Point)
  | console (c : Console)
  | area (a : Area)
  | note (n : Note)
  | operator (o : Operator)
  | handover (c : Console)
deriving DecidableEq, Repr

/-- The state of a frame receiver (R180): hunting for a sync byte, receiving a frame that started at a line clock
reading, or ignoring every byte until the line has been idle for the end gap. -/
inductive RxMode where
  | hunting
  | receiving (start : Nat)
  | ignoring
deriving DecidableEq, Repr

/-- A frame receiver with the last reading of its line clock, in microseconds, and its discard counter (R180). -/
structure Receiver where
  mode : RxMode
  clock : Nat
  discards : Nat
deriving DecidableEq, Repr

inductive CopyName where
  | a
  | b
deriving DecidableEq, Repr

/-- A stored copy that is good: its generation number and its image (R188). -/
structure StoredCopy where
  generation : BitVec 32
  image : Settings
deriving DecidableEq, Repr

/-- The Settings Store: the two copies (none for a copy that is not good), the present generation number, the two
status bits, and the copy the request in hand has written (R188, R189). -/
structure Store where
  copyA : Option StoredCopy
  copyB : Option StoredCopy
  generation : BitVec 32
  storeFault : Bool
  storeLost : Bool
  writing : Option CopyName
deriving DecidableEq, Repr

end Sys2Proof.Machine

namespace Sys2Proof.Machine

/-- The state of the module. -/
structure State where
  /-- The module has its supply (pin; R189, R184, R96). -/
  powered : Bool
  /-- Part time in ticks of 100 ms. -/
  partTime : Nat
  /-- The loop resistance at each alarm line input, in ohms (pins; R192). -/
  loops : Vector Nat 32
  /-- The stored contents as the blocks hold them (R188). -/
  cfg : Settings
  lines : Vector LineLive 32
  /-- The blank end of each group whose timer runs (R30). -/
  blankEnds : Vector (Option Nat) 4
  live : Vector (Option Record) 64
  waiting : List Entry
  /-- The present route of each area (R11). -/
  routes : Vector (Option Console) 12
  /-- The common alarm relay is energised (pin; R96). -/
  relay : Bool
  /-- The calendar day, 0 while unset (R119). -/
  day : Nat
  consoles : Vector ConsoleRecord 8
  handovers : Vector Handover 8
  changeSet : List Ref
  /-- The attention output is on (pin; R184). -/
  attention : Bool
  /-- The sequence number and the references of the last batch (R185). -/
  lastBatch : Option (Byte × List Ref)
  plantRx : Receiver
  portRx : Vector Receiver 8
  busy : Nat
  /-- The answer of the request in hand (R181). -/
  inHand : Option Answer
  store : Store
  /-- The model's own: how many free values have been drawn. -/
  draws : Nat
  /-- The commands that are waiting, first in, first out. -/
  pending : List Instr
deriving DecidableEq, Repr

/-- No command of this machine ends in a fault: the manual gives every step an effect. -/
inductive Fault where
deriving DecidableEq, Repr

/-- The refusals of a step. -/
inductive Refusal where
  /-- Raised by exec alone, for a command that has no meaning yet. Safe: the machine stops. No arm raises it now. -/
  | notModelled (mnemonic : String)
deriving DecidableEq, Repr

/-- What a step answers. -/
abbrev Out := Host.Outcome State Fault Refusal

/-! ### Defaults (R1, R18, R24, R191, 10.4) and the state after reset -/

def PointConfig.default : PointConfig :=
  { use := .unused, area := 0, priority := .p4, cls := .selfClearing, shelvable := false, maxShelf := 60 }

def LineConfig.default : LineConfig :=
  { sense := .openToAlarm, supervised := true, filter := .ms500, group := none }

def AreaConfig.default : AreaConfig :=
  { owner := none, fallback := none, ackLevel := 2, shelveLevel := 3, resetLevel := 3 }

def EscalationTimes.defaults : Vector EscalationTimes 4 :=
  #v[⟨60, 180⟩, ⟨120, 600⟩, ⟨300, 1800⟩, ⟨0, 0⟩]

def Params.default : Params :=
  { escalation := EscalationTimes.defaults, floodOn := 1280, floodOff := 640, window := 20, lockedPercent := 25,
    failLimit := 8, graceTime := 120, offerTime := 600, reviewTime := 900, blankTime := Vector.replicate 4 30 }

/-- The contents of the blocks after a failed store check (R191). -/
def Settings.default : Settings :=
  { points := Vector.replicate 256 PointConfig.default, lines := Vector.replicate 32 LineConfig.default,
    areas := Vector.replicate 12 AreaConfig.default, roster := Vector.replicate 48 none,
    notes := Vector.replicate 32 none, params := Params.default, enabled := Vector.replicate 8 true }

/-- A console record after cold start (R98, R99, R124, R135), for an enabled or a disabled port. -/
def ConsoleRecord.start (enabled : Bool) : ConsoleRecord :=
  { link := if enabled then .down else .off, count := 0, session := .none, hornFault := false,
    underQualified := false, lastEnd := none, resultNumber := 0, lastResult := none, inFlight := none,
    pendingTelegram := none, load := 0, flooded := false, secondSum := 0, secondTaken := 0, pattern := .silent }

/-- A handover record after cold start (R163). -/
def Handover.start : Handover := { phase := .none, lastOutcome := none }

/-- A frame receiver after cold start (R180), its line clock at a given reading. -/
def Receiver.start (clock : Nat) : Receiver := { mode := .hunting, clock := clock, discards := 0 }

/-- The eight CONSOLE references that stand in the change set at cold start (R183). -/
def Ref.consoles : List Ref := (List.finRange 8).map Ref.console

/-- The machine right after reset: a cold start that found neither stored copy good (R191), with every loop at the
825 ohms of a closed supervised contact. Log entries 1 and 2. -/
def State.reset : State :=
  { powered := true
    partTime := 0
    loops := Vector.replicate 32 825
    cfg := Settings.default
    lines := Vector.replicate 32 { band := .closed, candidate := .normal, appeared := 0, qualified := .normal }
    blankEnds := Vector.replicate 4 none
    live := Vector.replicate 64 none
    waiting := []
    routes := Vector.replicate 12 none
    relay := false
    day := 0
    consoles := Vector.replicate 8 (ConsoleRecord.start true)
    handovers := Vector.replicate 8 Handover.start
    changeSet := Ref.consoles
    attention := true
    lastBatch := none
    plantRx := Receiver.start 0
    portRx := Vector.replicate 8 (Receiver.start 0)
    busy := 0
    inHand := none
    store := { copyA := none, copyB := none, generation := 0, storeFault := false, storeLost := true, writing := none }
    draws := 0
    pending := [] }

end Sys2Proof.Machine
end

