-- ==== Sys2Proof/Machine/Operands.lean ====
section
/-! DEFINITION. The coded fields of requests (R194) and the codes of answers, telegrams and read-outs (chapter 11): every
operand form, decoded once, and every value as it is sent. -/

namespace Sys2Proof.Machine

/-! ### Fields of requests (R194): none outside the coded range -/

/-- A number below n in one byte. -/
def decodeNumber (n : Nat) (b : Byte) : Option (Fin n) :=
  if h : b.toNat < n then some ⟨b.toNat, h⟩ else none

/-- A console 0 to 7, or 0xFF for none (MOVE_AREA). -/
def decodeOwner (b : Byte) : Option (Option Console) :=
  if b = 0xFF#8 then some none else (decodeNumber 8 b).map some

/-- A roster slot 1 to 48. -/
def decodeOperator (b : Byte) : Option Operator :=
  if h : 1 ≤ b.toNat ∧ b.toNat ≤ 48 then some ⟨b.toNat - 1, by omega⟩ else none

/-- A roster slot 0 to 48, 0 standing for none. -/
def decodeOperatorOrNone (b : Byte) : Option (Option Operator) :=
  if b = 0 then some none else (decodeOperator b).map some

/-- The acting pair of a request that acts for a person: console 0 to 7, slot 1 to 48 (R61). -/
def decodePerson (w : Acting) : Option (Console × Operator) :=
  match decodeNumber 8 w.console, decodeOperator w.slot with
  | some c, some o => some (c, o)
  | _, _ => none

/-- The acting pair of an engineering request or a note request: console 0 to 7, slot 0 to 48 (R126, R159). -/
def decodeEngineer (w : Acting) : Option (Console × Option Operator) :=
  match decodeNumber 8 w.console, decodeOperatorOrNone w.slot with
  | some c, some o => some (c, o)
  | _, _ => none

def decodeFlag (b : Byte) : Option Bool :=
  match b.toNat with
  | 0 => some false
  | 1 => some true
  | _ => none

/-- The use, with the line number that is decoded only when the use is LINE (R20). -/
def decodeUse (use line : Byte) : Option PointUse :=
  match use.toNat with
  | 0 => some .unused
  | 1 => (decodeNumber 32 line).map .line
  | 2 => some .link
  | _ => none

def decodePriority (b : Byte) : Option Priority :=
  match b.toNat with
  | 1 => some .p1
  | 2 => some .p2
  | 3 => some .p3
  | 4 => some .p4
  | _ => none

def decodeClass (b : Byte) : Option AlarmClass :=
  match b.toNat with
  | 0 => some .selfClearing
  | 1 => some .locking
  | 2 => some .held
  | _ => none

def decodeSense (b : Byte) : Option Sense :=
  match b.toNat with
  | 0 => some .closeToAlarm
  | 1 => some .openToAlarm
  | _ => none

def decodeFilter (b : Byte) : Option FilterTime :=
  match b.toNat with
  | 0 => some .ms100
  | 1 => some .ms500
  | 2 => some .s2
  | 3 => some .s5
  | _ => none

/-- A blanking group of LINE_WRITE: 0 to 3, or 0xFF for none. -/
def decodeGroupOrNone (b : Byte) : Option (Option Group) :=
  if b = 0xFF#8 then some none else (decodeNumber 4 b).map some

def decodeLevel (b : Byte) : Option Level := decodeNumber 5 b

def decodeNoteKind (b : Byte) : Option NoteKind :=
  match b.toNat with
  | 0 => some .info
  | 1 => some .caution
  | _ => none

/-- An item named by kind and number: the number decodes as a point or as a note. -/
def decodeItem (kind number : Byte) : Option ItemRef :=
  match kind.toNat with
  | 0 => (decodeNumber 256 number).map .alarm
  | 1 => (decodeNumber 32 number).map .note
  | _ => none

/-- The twelve grants of ROSTER_WRITE, each 0 to 4. -/
def decodeGrants (g : Vector Byte 12) : Option (Vector Level 12) :=
  if g.toList.all (·.toNat ≤ 4) then some (Vector.ofFn fun a => ⟨g[a].toNat % 5, by omega⟩) else none

/-- A parameter of PARAM_WRITE and READ_PARAM. -/
inductive Parameter where
  | escalation (p : Fin 4)
  | floodThresholds
  | windowPeriod
  | lockedFraction
  | failLimit
  | graceTime
  | offerTime
  | reviewTime
  | blankTime (g : Group)
deriving DecidableEq, Repr

def decodeParameter (b : Byte) : Option Parameter :=
  match b.toNat with
  | 0 => some (.escalation 0)
  | 1 => some (.escalation 1)
  | 2 => some (.escalation 2)
  | 3 => some (.escalation 3)
  | 4 => some .floodThresholds
  | 5 => some .windowPeriod
  | 6 => some .lockedFraction
  | 7 => some .failLimit
  | 8 => some .graceTime
  | 9 => some .offerTime
  | 10 => some .reviewTime
  | 11 => some (.blankTime 0)
  | 12 => some (.blankTime 1)
  | 13 => some (.blankTime 2)
  | 14 => some (.blankTime 3)
  | _ => none

/-! ### Codes as sent (11.2 to 11.5) -/

def byteOf (n : Nat) : Byte := BitVec.ofNat 8 n

def bytesOf16 (n : Nat) : List Byte := Bytes.ofHalf (BitVec.ofNat 16 n)

/-- A part-time value in four bytes (log entry 7 for a value they cannot hold). -/
def bytesOfTime (t : Nat) : List Byte :=
  Bytes.ofWord (if t < 4294967296 then BitVec.ofNat 32 t else Config.unrepresentableTime t)

/-- A time "from now" in two bytes of tenths of a second, 0xFFFF for absent (log entry 7 for a span they cannot
hold). -/
def bytesOfSpan (now : Nat) : Option Nat → List Byte
  | none => [0xFF#8, 0xFF#8]
  | some t =>
    Bytes.ofHalf (if t - now < 65535 then BitVec.ofNat 16 (t - now) else Config.unrepresentableSpan (t - now))

def flagByte (b : Bool) : Byte := if b then 1 else 0

/-- A console or a route, 0xFF for none or NONE. -/
def consoleByte : Option Console → Byte
  | some c => byteOf c.val
  | none => 0xFF#8

/-- A roster slot, 0 for absent. -/
def operatorByte : Option Operator → Byte
  | some o => byteOf o.number
  | none => 0

def Reason.code : Reason → Nat
  | .unknownPoint => 1
  | .wrongSource => 2
  | .wrongState => 3
  | .alreadyDone => 4
  | .notRouted => 5
  | .notStaffed => 6
  | .notInCharge => 7
  | .levelTooLow => 8
  | .notShelvable => 9
  | .unknownBadge => 10
  | .suspended => 11
  | .alreadySignedIn => 12
  | .consoleOccupied => 13
  | .notQualified => 14
  | .handoverRequired => 15
  | .handoverBusy => 16
  | .itemsUnseen => 17
  | .flooded => 18
  | .nothingToDo => 19
  | .rosterFull => 20
  | .badgeInUse => 21
  | .inSession => 22
  | .notesFull => 23
  | .noAuthority => 24
  | .badValue => 26
  | .badRequest => 27

/-- An outcome byte: 0 for OK, or the reason code (11.5). -/
def resultByte : Result → Byte
  | none => 0
  | some r => byteOf r.code

def useByte : PointUse → Byte
  | .unused => 0
  | .line _ => 1
  | .link => 2

/-- The line byte of a point configuration, 0xFF when absent. -/
def useLineByte : PointUse → Byte
  | .line l => byteOf l.val
  | _ => 0xFF#8

/-- Priorities as numbers 1 to 4, P1 highest. -/
def Priority.rank : Priority → Nat
  | .p1 => 1
  | .p2 => 2
  | .p3 => 3
  | .p4 => 4

/-- The place of a priority's escalation times in the parameters. -/
def Priority.index : Priority → Fin 4
  | .p1 => 0
  | .p2 => 1
  | .p3 => 2
  | .p4 => 3

def classByte : AlarmClass → Byte
  | .selfClearing => 0
  | .locking => 1
  | .held => 2

def conditionByte : Condition → Byte
  | .gone => 0
  | .active => 1

def causeByte : Cause → Byte
  | .alarm => 0
  | .lineFault => 1

def recordStateByte : RecordState → Byte
  | .raisedUnack => 0
  | .acked => 1
  | .clearedUnack => 2
  | .resetWait => 3
  | .shelved => 4

def bandByte : Band → Byte
  | .short => 0
  | .closed => 1
  | .opened => 2
  | .broken => 3

def lineStateByte : LineState → Byte
  | .normal => 0
  | .active => 1
  | .fault => 2

def senseByte : Sense → Byte
  | .closeToAlarm => 0
  | .openToAlarm => 1

def filterByte : FilterTime → Byte
  | .ms100 => 0
  | .ms500 => 1
  | .s2 => 2
  | .s5 => 3

def groupByte : Option Group → Byte
  | some g => byteOf g.val
  | none => 0xFF#8

def linkByte : Link → Byte
  | .off => 0
  | .down => 1
  | .up _ => 2
  | .lost _ => 3

def sessionByte : Session → Byte
  | .none => 0
  | .attached _ => 1
  | .detached _ _ => 2

def patternByte : Pattern → Byte
  | .silent => 0
  | .sounding p => byteOf p.rank

def endCauseByte : Option EndCause → Byte
  | none => 0
  | some .signedOut => 1
  | some .forced => 2
  | some .suspended => 3
  | some .graceExpired => 4
  | some .moved => 5
  | some .handedOver => 6

def phaseByte : Phase → Byte
  | .none => 0
  | .offered _ _ _ => 1
  | .review _ _ _ _ => 2

def handoverOutcomeByte : Option HandoverOutcome → Byte
  | none => 0
  | some .accepted => 1
  | some .withdrawn => 2
  | some .incomingLeft => 3
  | some .lapsedOffer => 4
  | some .lapsedReview => 5
  | some .linkLost => 6
  | some .suspended => 7
  | some .forced => 8
  | some .restart => 9

def noteKindByte : NoteKind → Byte
  | .info => 0
  | .caution => 1

def operatorStatusByte : OperatorStatus → Byte
  | .active => 0
  | .suspended => 1

def Key.code : Key → Nat
  | .ack => 1
  | .silence => 2
  | .reset => 3
  | .handover => 4
  | .seen => 5
  | .accept => 6
  | .signOut => 7

/-- The last result source byte of a panel-state telegram (11.4). -/
def ResultSource.code : ResultSource → Nat
  | .key k => k.code
  | .badge => 8
  | .undefinedTelegram => 9

/-- A reference of READ_CHANGES: its kind, then its number (11.3). -/
def Ref.bytes : Ref → List Byte
  | .point p => [1, byteOf p.val]
  | .console c => [2, byteOf c.val]
  | .area a => [3, byteOf a.val]
  | .note n => [4, byteOf n.val]
  | .operator o => [5, byteOf o.number]
  | .handover c => [6, byteOf c.val]

/-- The horn cadence of a pattern: its eight steps of 250 ms, 1 for horn on (R94). -/
def Pattern.cadence : Pattern → Vector Bool 8
  | .silent => #v[false, false, false, false, false, false, false, false]
  | .sounding .p1 => #v[true, true, false, true, true, false, true, false]
  | .sounding .p2 => #v[true, true, false, false, true, true, false, false]
  | .sounding .p3 => #v[true, true, true, true, false, false, false, false]
  | .sounding .p4 => #v[true, false, false, false, false, false, false, false]

/-- The cadence byte of a panel-state telegram: step 1 in the most significant bit (11.4). -/
def Pattern.cadenceByte (p : Pattern) : Byte :=
  p.cadence.toList.foldl (fun b step => (b <<< 1) ||| flagByte step) 0#8

/-- The body of a panel-state telegram as sent (11.4). -/
def Telegram.bytes (t : Telegram) : List Byte :=
  let lamps :=
    flagByte t.reminder ||| (flagByte t.flood <<< 1) ||| (flagByte t.listFull <<< 2) |||
      (flagByte t.underQualified <<< 3) ||| (flagByte t.signedIn <<< 4)
  let handover : Byte := match t.handover with
    | .off => 0
    | .flashing => 1
    | .steady => 2
  let link : Byte := match t.link with
    | .steady => 0x80
    | .flashing => 0
    | .off => 0x40
  let source := match t.lastResult with
    | none => 0
    | some (src, _) => src.code
  let outcome := match t.lastResult with
    | none => 0
    | some (_, r) => resultByte r
  [0x81, t.pattern.cadenceByte, byteOf t.count, lamps, handover ||| link, t.resultNumber, byteOf source, outcome]

/-- The body of an answer as sent (R193): code, sequence number, outcome, flags, data. -/
def Answer.body (a : Answer) : List Byte :=
  [a.code, a.seq, resultByte a.result, flagByte a.storeFault ||| (flagByte a.storeLost <<< 1)] ++ a.data

/-- The answer frame on the plant link (11.1). -/
def Answer.frame (a : Answer) : List Byte := Frame.ofBody a.body

end Sys2Proof.Machine
end

