-- ==== Sys2Proof/Machine/Flags.lean ====
section
/-! DEFINITION. What the manual derives from the state at the moment it is asked and holds nowhere: line readings,
point status, effective levels, places, the routing function, co-annunciation, sounding sets, deadlines, the
panel-visible values. -/

namespace Sys2Proof.Machine

/-! ### Lines -/

/-- The band of a loop resistance; a limit falls in the higher band (R192). -/
def bandOf (ohms : Nat) : Band :=
  if ohms < 400 then .short else if ohms < 2200 then .closed else if ohms < 12000 then .opened else .broken

/-- A CLOSED or OPEN reading mapped by the sense (R26). -/
def Sense.read (closed : Bool) : Sense → LineState
  | .closeToAlarm => if closed then .active else .normal
  | .openToAlarm => if closed then .normal else .active

/-- The state a band reads as under a line's supervision and sense (R26). -/
def LineConfig.read (cfg : LineConfig) : Band → LineState
  | .short => if cfg.supervised then .fault else cfg.sense.read true
  | .closed => cfg.sense.read true
  | .opened => cfg.sense.read false
  | .broken => if cfg.supervised then .fault else cfg.sense.read false

/-- A filter time in ticks (R24, R28). -/
def FilterTime.ticks : FilterTime → Nat
  | .ms100 => 1
  | .ms500 => 5
  | .s2 => 20
  | .s5 => 50

/-- The qualification deadline of a line, when something is pending (R28). -/
def qualificationDeadline (cfg : LineConfig) (l : LineLive) : Option Nat :=
  if l.candidate = l.qualified then none else some (l.appeared + cfg.filter.ticks)

/-- The blank end of the group a line configuration names, while the group's timer runs (R30, R32). -/
def State.blankEndFor (s : State) (cfg : LineConfig) : Option Nat :=
  match cfg.group with
  | some g => s.blankEnds[g]
  | none => none

/-- When a candidate set now appears: at the blank end for an ACTIVE candidate of a blanked line, else now (R32). -/
def State.appearance (s : State) (cfg : LineConfig) (candidate : LineState) : Nat :=
  match candidate, s.blankEndFor cfg with
  | .active, some e => e
  | _, _ => s.partTime

/-- The point bound to a line, read from the point configurations (R19, R24). -/
def State.boundPoint (s : State) (l : Line) : Option Point :=
  lowestWhere fun p => s.cfg.points[p].use == .line l

/-! ### Points and records -/

/-- A point's live record, with the slot that holds it (R37: a point has at most one). -/
def State.find (s : State) (p : Point) : Option (Slot × Record) :=
  (List.finRange 64).findSome? fun i => match s.live[i] with
    | some r => if r.point = p then some (i, r) else none
    | none => none

/-- The slot that holds a point's live record. -/
def State.slotOf (s : State) (p : Point) : Option Slot := (s.find p).map Prod.fst

/-- A point's live record. -/
def State.recordOf (s : State) (p : Point) : Option Record := (s.find p).map Prod.snd

/-- A point's waiting queue entry. -/
def State.entryOf (s : State) (p : Point) : Option Entry :=
  s.waiting.find? fun e => e.point == p

/-- The point status (R40). -/
inductive PointStatus where
  | normal
  | waiting
  | live (st : RecordState)
deriving DecidableEq, Repr

def State.statusOf (s : State) (p : Point) : PointStatus :=
  match s.recordOf p with
  | some r => .live r.state
  | none => match s.entryOf p with
    | some _ => .waiting
    | none => .normal

/-- The code of a point status: the record state codes, 5 NORMAL, 6 WAITING (11.3). -/
def PointStatus.byte : PointStatus → Byte
  | .live st => recordStateByte st
  | .normal => 5
  | .waiting => 6

/-- The live records, in slot order. -/
def State.records (s : State) : List Record := s.live.toList.filterMap id

/-- The lowest-numbered empty slot (R37). -/
def State.lowestEmpty (s : State) : Option Slot :=
  lowestWhere fun i => s.live[i].isNone

/-- RAISED_UNACK or CLEARED_UNACK. -/
def Record.unacknowledged (r : Record) : Bool :=
  r.state == .raisedUnack || r.state == .clearedUnack

/-- The load weight of a priority (R100). -/
def Priority.weight : Priority → Nat
  | .p1 => 64
  | .p2 => 48
  | .p3 => 32
  | .p4 => 16

/-- P1 or P2. -/
def Priority.high (p : Priority) : Bool := p == .p1 || p == .p2

/-! ### Consoles and sessions -/

def Link.isUp : Link → Bool
  | .up _ => true
  | _ => false

def Link.window : Link → Option Window
  | .up w => some w
  | .lost w => some w
  | _ => none

/-- The operator of an ATTACHED session. -/
def Session.attachedOperator : Session → Option Operator
  | .attached o => some o
  | _ => Option.none

/-- The operator in charge: of an ATTACHED or a DETACHED session (R135). -/
def Session.inCharge : Session → Option Operator
  | .none => Option.none
  | .attached o => some o
  | .detached o _ => some o

def Session.graceEnd : Session → Option Nat
  | .detached _ t => some t
  | _ => Option.none

/-- The operator in charge of a console whose session is ATTACHED. -/
def State.attachedAt (s : State) (c : Console) : Option Operator :=
  s.consoles[c].session.attachedOperator

def State.linkUp (s : State) (c : Console) : Bool := s.consoles[c].link.isUp

/-- A console that routing steps 1 and 2 accept: link UP and session ATTACHED (R10). -/
def State.staffed (s : State) (c : Console) : Bool :=
  s.linkUp c && (s.attachedAt c).isSome

/-! ### Areas and the routing function -/

/-- The areas a console owns (R2). -/
def State.ownedAreas (s : State) (c : Console) : List Area :=
  numbersWhere fun a => s.cfg.areas[a].owner == some c

/-- A routing test of an optional console. -/
def State.staffedOption (s : State) : Option Console → Bool
  | some c => s.staffed c
  | none => false

/-- The routing function (R10). -/
def State.routeOf (s : State) (a : Area) : Option Console :=
  if s.staffedOption s.cfg.areas[a].owner then s.cfg.areas[a].owner
  else if s.staffedOption s.cfg.areas[a].fallback then s.cfg.areas[a].fallback
  else if s.linkUp 0 then some 0 else none

/-! ### Authority -/

/-- A slot's expired state on a day: the day is set and later than its expiry day (R120, R134). -/
def OperatorRecord.expired (r : OperatorRecord) (day : Nat) : Bool :=
  match r.expiry with
  | some e => day != 0 && e < day
  | none => false

/-- The effective level of a roster slot in an area (R118). -/
def State.effectiveLevel (s : State) (o : Operator) (a : Area) : Level :=
  match s.cfg.roster[o] with
  | none => 0
  | some r =>
    if r.status == .suspended then 0
    else if r.expired s.day then min r.grants[a] 1
    else r.grants[a]

/-- The effective level reaches a named level in every area of a list, or in at least one area when the list is
empty (R31, R127, R153). -/
def State.levelInAll (s : State) (o : Operator) (lvl : Level) (areas : List Area) : Bool :=
  if areas.isEmpty then (List.finRange 12).any fun a => lvl ≤ s.effectiveLevel o a
  else areas.all fun a => lvl ≤ s.effectiveLevel o a

/-- The commissioning state (R125): no ACTIVE record has SUPERVISOR in any area, by grants and status alone. -/
def State.commissioning (s : State) : Bool :=
  s.cfg.roster.toList.all fun slot => match slot with
    | some r => r.status == .suspended || r.grants.toList.all fun g => g != 4
    | none => true

/-- The desk qualification test (R123): OPERATE in every owned area, or VIEW in some area for a console that owns
none. -/
def State.qualifies (s : State) (o : Operator) (c : Console) : Bool :=
  if (s.ownedAreas c).isEmpty then (List.finRange 12).any fun a => 1 ≤ s.effectiveLevel o a
  else (s.ownedAreas c).all fun a => 2 ≤ s.effectiveLevel o a

/-- The under-qualified flag as it is derived (R124). -/
def State.deriveUnderQualified (s : State) (c : Console) : Bool :=
  match s.consoles[c].session.inCharge with
  | some o => (s.ownedAreas c).any fun a => s.effectiveLevel o a < 2
  | none => false

/-- Which slot holds a badge (R116): unknown for a badge of 0 or of no occupied slot. -/
def State.holderOf (s : State) (b : Badge) : Option (Operator × OperatorRecord) :=
  if b = 0 then none
  else (List.finRange 48).findSome? fun o => match s.cfg.roster[o] with
    | some r => if r.badge = b then some (o, r) else none
    | none => none

/-! ### Handovers -/

def Phase.active : Phase → Bool
  | .none => false
  | _ => true

def Phase.inReview : Phase → Bool
  | .review _ _ _ _ => true
  | _ => false

def Phase.outgoing : Phase → Option Operator
  | .none => Option.none
  | .offered o _ _ => some o
  | .review o _ _ _ => some o

def Phase.incoming : Phase → Option Operator
  | .review _ i _ _ => some i
  | _ => Option.none

def Phase.deadline : Phase → Option Nat
  | .none => Option.none
  | .offered _ t _ => some t
  | .review _ _ t _ => some t

def Phase.items : Phase → List Item
  | .none => []
  | .offered _ _ l => l
  | .review _ _ _ l => l

/-- The phase with another item list; a list exists only in OFFERED and REVIEW. -/
def Phase.withItems (items : List Item) : Phase → Phase
  | .none => .none
  | .offered o t _ => .offered o t items
  | .review o i t _ => .review o i t items

def Phase.unseen (p : Phase) : Nat := (p.items.filter fun it => !it.seen).length

/-- Where an operator is (R122). -/
inductive Place where
  | none
  | inCharge (c : Console) (detached : Bool)
  | incoming (c : Console)
deriving DecidableEq, Repr

def State.placeOf (s : State) (o : Operator) : Place :=
  match lowestWhere fun c => s.consoles[c].session.inCharge == some o with
  | some c => .inCharge c (s.attachedAt c).isNone
  | none => match lowestWhere fun c => s.handovers[c].phase.incoming == some o with
    | some c => .incoming c
    | none => .none

/-! ### Annunciation -/

/-- A record is co-annunciated at console 0 (R90). -/
def State.coAnnunciated (s : State) (r : Record) : Bool :=
  r.stage == 2 ||
    match r.route with
    | some c => s.consoles[c].hornFault && r.priority.high
    | none => false

/-- A record sounds at its route (R70, R92). -/
def Record.soundsAtRoute (r : Record) : Bool :=
  r.state == .raisedUnack && !r.floodHeld && !r.silencedAtRoute

/-- A record sounds at console 0 by co-annunciation (R71, R92). -/
def State.soundsAtSupervisor (s : State) (r : Record) : Bool :=
  s.coAnnunciated r && r.state == .raisedUnack && !r.silencedAtSupervisor

/-- A record is in the sounding set of a console (R92). -/
def State.soundsAt (s : State) (c : Console) (r : Record) : Bool :=
  (r.route == some c && r.soundsAtRoute) || (c == 0 && s.soundsAtSupervisor r)

/-- The horn pattern of a console: the highest priority of its sounding set, or SILENT (R93). -/
def State.patternOf (s : State) (c : Console) : Pattern :=
  let set := s.records.filter (s.soundsAt c)
  if set.any (·.priority == .p1) then .sounding .p1
  else if set.any (·.priority == .p2) then .sounding .p2
  else if set.any (·.priority == .p3) then .sounding .p3
  else if set.any (·.priority == .p4) then .sounding .p4
  else .silent

/-- When the common alarm relay is energised (R96). -/
def State.relayWanted (s : State) : Bool :=
  s.records.any fun r =>
    (r.state == .raisedUnack && r.route.isNone) || (s.coAnnunciated r && !s.linkUp 0)

/-- The escalation times of a priority. -/
def Params.timesOf (p : Params) (pr : Priority) : EscalationTimes := p.escalation[pr.index]

/-- A record escalates: unacknowledged and not flood-held (R85). -/
def Record.escalates (r : Record) : Bool := r.unacknowledged && !r.floodHeld

/-- A record's reminder deadline, where it exists (R85). -/
def reminderDeadline (p : Params) (r : Record) : Option Nat :=
  if r.escalates && (p.timesOf r.priority).t1 != 0 && r.stage == 0
  then some (r.annunciatedAt + 10 * (p.timesOf r.priority).t1) else none

/-- A record's escalation deadline, where it exists (R85). -/
def escalationDeadline (p : Params) (r : Record) : Option Nat :=
  if r.escalates && (p.timesOf r.priority).t2 != 0 && r.stage != 2
  then some (r.annunciatedAt + 10 * (p.timesOf r.priority).t2) else none

/-- Part time has reached a deadline. -/
def reached (now : Nat) : Option Nat → Bool
  | some t => t ≤ now
  | none => false

/-! ### Flood -/

/-- A counting annunciation of a record is flood-held (R105). -/
def State.holds (s : State) (r : Record) (route : Option Console) : Bool :=
  r.state == .raisedUnack && !r.priority.high &&
    match route with
    | some c => s.consoles[c].flooded
    | none => false

/-- The live records flood-held with a console as route (R112). -/
def State.heldCount (s : State) (c : Console) : Nat :=
  (s.records.filter fun r => r.floodHeld && r.route == some c).length

/-! ### Panel-visible values (R143) -/

/-- A record that a console's count display counts outside REVIEW. -/
def State.countedAt (s : State) (c : Console) (r : Record) : Bool :=
  r.unacknowledged && !r.floodHeld && (r.route == some c || (c == 0 && s.coAnnunciated r))

/-- The panel-state telegram of a console as its values stand (R143). -/
def State.telegramOf (s : State) (c : Console) : Telegram :=
  let counted := s.records.filter (s.countedAt c)
  let phase := s.handovers[c].phase
  { pattern := s.consoles[c].pattern
    count := min 99 (if phase.inReview then phase.unseen else counted.length)
    reminder := counted.any fun r => r.stage != 0
    flood := s.consoles[c].flooded
    listFull := !s.waiting.isEmpty
    underQualified := s.consoles[c].underQualified
    signedIn := (s.attachedAt c).isSome
    handover := match phase with
      | .none => .off
      | .offered _ _ _ => .flashing
      | .review _ _ _ _ => .steady
    link := match s.consoles[c].link with
      | .up _ => .steady
      | .lost _ => .flashing
      | _ => .off
    resultNumber := s.consoles[c].resultNumber
    lastResult := s.consoles[c].lastResult }

/-! ### What the reads return, for the change set (R17, R59, R134, R157, R162, R179, R183) -/

/-- The values of READ_POINT that a change of marks the point's reference. -/
structure PointView where
  config : PointConfig
  slot : Option Slot
  record : Option Record
  entry : Option Entry
  line : Option (Band × LineState × LineState)
deriving DecidableEq, Repr

def State.pointView (s : State) (p : Point) : PointView :=
  { config := s.cfg.points[p]
    slot := s.slotOf p
    record := s.recordOf p
    entry := s.entryOf p
    line := match s.cfg.points[p].use with
      | .line l => some (s.lines[l].band, s.lines[l].candidate, s.lines[l].qualified)
      | _ => none }

/-- The values of READ_CONSOLE. -/
structure ConsoleView where
  enabled : Bool
  link : Byte
  count : Nat
  session : Session
  hornFault : Bool
  underQualified : Bool
  pattern : Pattern
  lastEnd : Option EndCause
  load : Nat
  flooded : Bool
  held : Nat
  phase : Byte
  outgoing : Option Operator
  incoming : Option Operator
deriving DecidableEq, Repr

def State.consoleView (s : State) (c : Console) : ConsoleView :=
  let k := s.consoles[c]
  let p := s.handovers[c].phase
  { enabled := s.cfg.enabled[c], link := linkByte k.link, count := k.count, session := k.session,
    hornFault := k.hornFault, underQualified := k.underQualified, pattern := k.pattern, lastEnd := k.lastEnd,
    load := k.load, flooded := k.flooded, held := s.heldCount c, phase := phaseByte p, outgoing := p.outgoing,
    incoming := p.incoming }

/-- The number of live records of an area, and of those in RAISED_UNACK (R17). -/
def State.areaCounts (s : State) (a : Area) : Nat × Nat :=
  let rs := s.records.filter fun r => r.area == a
  (rs.length, (rs.filter fun r => r.state == .raisedUnack).length)

/-- The values of READ_AREA. -/
def State.areaView (s : State) (a : Area) : AreaConfig × Option Console × Nat × Nat :=
  (s.cfg.areas[a], s.routes[a], s.areaCounts a)

/-- The values of READ_OPERATOR: the record, its expired state and its place. -/
def State.operatorView (s : State) (o : Operator) : Option OperatorRecord × Bool × Place :=
  (s.cfg.roster[o],
    match s.cfg.roster[o] with
    | some r => r.expired s.day
    | none => false,
    s.placeOf o)

/-- The kind of the note that an item names, which its page carries too (R158). -/
def State.itemKind (s : State) (it : Item) : Option NoteKind :=
  match it.ref with
  | .alarm _ => none
  | .note n => s.cfg.notes[n].map NoteRecord.kind

/-- The values of READ_HANDOVER: the handover and the kinds its items carry. -/
def State.handoverView (s : State) (c : Console) : Handover × List (Option NoteKind) :=
  (s.handovers[c], s.handovers[c].phase.items.map s.itemKind)

/-- The references whose read-out differs between two states, by kind and by number within a kind (R183). -/
def changedRefs (s t : State) : List Ref :=
  (numbersWhere fun p => s.pointView p != t.pointView p).map .point ++
  (numbersWhere fun c => s.consoleView c != t.consoleView c).map .console ++
  (numbersWhere fun a => s.areaView a != t.areaView a).map .area ++
  (numbersWhere fun n => s.cfg.notes[n] != t.cfg.notes[n]).map .note ++
  (numbersWhere fun o => s.operatorView o != t.operatorView o).map .operator ++
  (numbersWhere fun c => s.handoverView c != t.handoverView c).map .handover

end Sys2Proof.Machine
end

