-- ==== Sys2Proof/Machine/Ops.lean ====
section
/-! DEFINITION. The operations that the meanings share: marking the change set, settling an event, rerouting,
annunciation, removal and admission, raise and clear, handover lists and aborts, sessions and links, the store write,
the exchange on the plant link and the outcome of a key. -/

namespace Sys2Proof.Machine

/-! ### The change set and attention (R183, R184) -/

/-- Marking a reference appends it, or leaves the set as it was (R183). -/
def addRef (set : List Ref) (r : Ref) : List Ref :=
  if set.contains r then set else set ++ [r]

def addRefs (set refs : List Ref) : List Ref := refs.foldl addRef set

/-- Mark references in the order given; the attention output follows the set within the event (R184). -/
def State.markAll (s : State) (refs : List Ref) : State :=
  { s with changeSet := addRefs s.changeSet refs, attention := s.attention || !refs.isEmpty }

/-! ### Named updates -/

def State.setConsole (s : State) (c : Console) (f : ConsoleRecord → ConsoleRecord) : State :=
  { s with consoles := upd s.consoles c f }

def State.setSlot (s : State) (i : Slot) (r : Option Record) : State :=
  { s with live := s.live.set i.val r i.isLt }

def State.setPhase (s : State) (c : Console) (p : Phase) : State :=
  { s with handovers := upd s.handovers c fun h => { h with phase := p } }

def State.setArea (s : State) (a : Area) (f : AreaConfig → AreaConfig) : State :=
  { s with cfg := { s.cfg with areas := upd s.cfg.areas a f } }

def State.setRoster (s : State) (o : Operator) (r : Option OperatorRecord) : State :=
  { s with cfg := { s.cfg with roster := s.cfg.roster.set o.val r o.isLt } }

def State.setNote (s : State) (n : Note) (r : Option NoteRecord) : State :=
  { s with cfg := { s.cfg with notes := s.cfg.notes.set n.val r n.isLt } }

def State.setPoint (s : State) (p : Point) (c : PointConfig) : State :=
  { s with cfg := { s.cfg with points := s.cfg.points.set p.val c p.isLt } }

def State.setLineConfig (s : State) (l : Line) (c : LineConfig) : State :=
  { s with cfg := { s.cfg with lines := s.cfg.lines.set l.val c l.isLt } }

def State.setLine (s : State) (l : Line) (f : LineLive → LineLive) : State :=
  { s with lines := upd s.lines l f }

def State.setParams (s : State) (p : Params) : State :=
  { s with cfg := { s.cfg with params := p } }

/-- Apply a function to every live record. -/
def State.mapRecords (s : State) (f : Record → Record) : State :=
  { s with live := Vector.ofFn fun i => (s.live[i]).map f }

/-- Apply a function to the phase of every handover. -/
def State.mapPhases (s : State) (f : Console → Phase → Phase) : State :=
  { s with handovers := Vector.ofFn fun c => { s.handovers[c] with phase := f c s.handovers[c].phase } }

/-! ### The end of an event: horns, relay, marks, panel telegrams -/

/-- Every console's horn pattern, re-evaluated once on the result of the event (R93). -/
def State.rehorn (s : State) : State :=
  { s with consoles := Vector.ofFn fun c => { s.consoles[c] with pattern := s.patternOf c } }

/-- The common alarm relay, re-evaluated once on the result of the event (R97). -/
def State.rerelay (s : State) : State := { s with relay := s.relayWanted }

/-- A composed telegram is placed by the link state and the in-flight slot (R145); none is composed for an OFF
console (R144). -/
def ConsoleRecord.compose (k : ConsoleRecord) (t : Telegram) : ConsoleRecord :=
  match k.link with
  | .off => k
  | .down => { k with pendingTelegram := some t }
  | _ => if k.inFlight.isNone then { k with inFlight := some t } else { k with pendingTelegram := some t }

/-- A console's session has ended in an event from s to t: its operator in charge is gone without a successor (R150). -/
def sessionGone (s t : State) (c : Console) : Bool :=
  s.consoles[c].session.inCharge.isSome && t.consoles[c].session.inCharge.isNone

/-- An event from s to t composes a telegram for a console: a panel-visible value or the link state changed, the session
ended, which composes one whatever the panel shows of it, or the event composes one whatever changed (R140, R144,
R150 step 5). -/
def composes (s t : State) (forced : Option Console) (c : Console) : Bool :=
  forced == some c || s.telegramOf c != t.telegramOf c ||
    linkByte s.consoles[c].link != linkByte t.consoles[c].link || sessionGone s t c

/-- Compose the telegrams of an event from s to t, at most one for a console (R144). -/
def State.composeAll (t s : State) (forced : Option Console) : State :=
  { t with consoles := Vector.ofFn fun c =>
      if composes s t forced c then (t.consoles[c]).compose (t.telegramOf c) else t.consoles[c] }

/-- The end of an event that has taken s to t: horns and relay on the result (R93, R97), every reference whose
read-out has changed (R183, by kind and number where no rule named an order), then the panel telegrams, composed from
the values at the end of the event (R144). -/
def settle (s t : State) (forced : Option Console) : State :=
  let u := t.rehorn.rerelay
  (u.markAll (changedRefs s u)).composeAll s forced

/-! ### Routing (R12, R13, R109) -/

/-- A flood-held record released: at flood exit, by a reroute or by a clear (R46, R108, R109). -/
def Record.release (r : Record) (now : Nat) : Record :=
  { r with floodHeld := false, annunciatedAt := now, silencedAtRoute := false, silencedAtSupervisor := false,
           stage := 0 }

/-- A live record that its area's new route moves (R13), with its flood-held flag decided against that route
(R109). -/
def State.moved (s : State) (r : Record) (route : Option Console) : Record :=
  let r' := { r with route := route, silencedAtRoute := false, silencedAtSupervisor := false }
  let kept := match route with
    | some c => s.consoles[c].flooded
    | none => false
  if r.floodHeld && !kept then r'.release s.partTime else r'

/-- An area's route comes out different from the present one (R12). -/
def State.routeChanges (s : State) (a : Area) : Bool := s.routeOf a != s.routes[a]

/-- Re-evaluate the routing function for every area and reroute the records of each area whose route changes. -/
def State.reroute (s : State) : State :=
  { s with
    routes := Vector.ofFn s.routeOf
    live := Vector.ofFn fun i => (s.live[i]).map fun r =>
      if s.routeChanges r.area then s.moved r (s.routeOf r.area) else r }

/-- The references a re-evaluation marks: POINT of each record it moves, AREA of each area whose route changes
(R14). -/
def State.rerouteRefs (s : State) : List Ref :=
  (numbersWhere fun p => match s.recordOf p with
    | some r => s.routeChanges r.area
    | none => false).map .point ++
  (numbersWhere s.routeChanges).map .area

/-- A re-evaluation that is a numbered step of its event: its marks stand at that step (R183). -/
def State.rerouteStep (s : State) : State := s.reroute.markAll s.rerouteRefs

/-! ### Under-qualified flag (R124) -/

/-- Whether the flag of a console is due to change. -/
def State.flagStale (s : State) (which : List Console) (c : Console) : Bool :=
  which.contains c && s.consoles[c].underQualified != s.deriveUnderQualified c

/-- Re-derive the flag at some consoles, marking each whose flag changes. -/
def State.requalify (s : State) (which : List Console) : State :=
  { s with consoles := Vector.ofFn fun c =>
      if s.flagStale which c then { s.consoles[c] with underQualified := s.deriveUnderQualified c }
      else s.consoles[c] }.markAll ((numbersWhere (s.flagStale which)).map .console)

/-! ### Handover lists (R172) -/

/-- Append an unseen item, late in REVIEW. -/
def Phase.append (p : Phase) (ref : ItemRef) : Phase :=
  p.withItems (p.items ++ [{ ref := ref, seen := false, late := p.inReview }])

def Phase.drop (p : Phase) (ref : ItemRef) : Phase :=
  p.withItems (p.items.filter fun it => it.ref != ref)

def Phase.setSeen (p : Phase) (ref : ItemRef) (seen : Bool) : Phase :=
  p.withItems (p.items.map fun it => if it.ref = ref then { it with seen := seen } else it)

def Phase.holds (p : Phase) (ref : ItemRef) : Bool := p.items.any fun it => it.ref == ref

/-- A record or note of an area has come: its item joins the list of the console that owns the area. -/
def State.appendItem (s : State) (a : Area) (ref : ItemRef) : State :=
  s.mapPhases fun c p => if s.cfg.areas[a].owner == some c then p.append ref else p

/-- The HANDOVER references that an item of an area marks as it joins a list: those of the area's owner, while a handover
runs there (R172). -/
def State.listRefs (s : State) (a : Area) : List Ref :=
  (numbersWhere fun c => s.cfg.areas[a].owner == some c && s.handovers[c].phase.active).map .handover

/-- A record or note has left: its item is dropped from any list that holds it. -/
def State.dropItem (s : State) (ref : ItemRef) : State :=
  (s.mapPhases fun _ p => p.drop ref).markAll
    ((numbersWhere fun c => (s.handovers[c].phase).holds ref).map .handover)

/-- A record has returned: its item must be seen again. -/
def State.unseeItem (s : State) (ref : ItemRef) : State :=
  s.mapPhases fun _ p => p.setSeen ref false

/-! ### Annunciation, admission, removal (R41, R49, R51 to R55) -/

/-- A weight joins a console's second's sum, which saturates (R100). -/
def ConsoleRecord.addWeight (k : ConsoleRecord) (w : Nat) : ConsoleRecord :=
  { k with secondSum := min 65535 (k.secondSum + w) }

/-- The record as a counting annunciation leaves it (R49 parts 1 to 3, R105). -/
def State.annunciated (s : State) (r : Record) : Record :=
  let route := s.routes[r.area]
  { r with route := route, annunciatedAt := s.partTime, silencedAtRoute := false, silencedAtSupervisor := false,
           stage := 0, floodHeld := s.holds r route,
           acknowledgedBy := if r.state = .raisedUnack then none else r.acknowledgedBy }

/-- The console whose second's sum an annunciation counts toward: its route, unless held (R100). -/
def State.countsToward (s : State) (r : Record) : Option Console :=
  if s.holds r s.routes[r.area] then none else s.routes[r.area]

/-- A counting annunciation of a record into a slot (R49). -/
def State.annunciate (s : State) (i : Slot) (r : Record) : State :=
  { s with
    live := s.live.set i.val (some (s.annunciated r)) i.isLt
    consoles := match s.countsToward r with
      | some c => upd s.consoles c fun k => k.addWeight r.priority.weight
      | none => s.consoles }

/-- A record becomes live: annunciated, and an item of its area's owner (R49, R50, R172). -/
def State.admitRecord (s : State) (i : Slot) (r : Record) : State :=
  (s.annunciate i r).appendItem r.area (.alarm r.point)

/-- The new record of a raise of a NORMAL point (R41); annunciation sets the fields it names. -/
def State.freshRecord (s : State) (p : Point) (cause : Cause) : Record :=
  let cfg := s.cfg.points[p]
  { point := p, state := .raisedUnack, condition := .active, cause := cause, priority := cfg.priority,
    area := cfg.area, cls := cfg.cls, occurrences := 1, firstRaised := s.partTime, annunciatedAt := s.partTime,
    route := none, silencedAtRoute := false, silencedAtSupervisor := false, stage := 0, floodHeld := false,
    acknowledgedBy := none, shelvedBy := none, shelfEnd := none }

/-- The record of a waiting entry as it is admitted (R55). -/
def State.recordOfEntry (s : State) (e : Entry) : Record :=
  { s.freshRecord e.point e.cause with
    state := match e.condition with
      | .active => .raisedUnack
      | .gone => .clearedUnack
    condition := e.condition
    occurrences := e.occurrences
    firstRaised := e.arrival }

/-- The references that the admission of a waiting entry marks, in the order of R55. -/
def State.entryRefs (s : State) (e : Entry) : List Ref :=
  .point e.point :: .area s.cfg.points[e.point].area :: s.listRefs s.cfg.points[e.point].area

/-- A waiting entry becomes live in a slot, with the marks of its admission: its POINT, its area's AREA and the HANDOVER of
the list it joins (R55). -/
def State.admitEntry (s : State) (i : Slot) (e : Entry) : State :=
  (s.admitRecord i (s.recordOfEntry e)).markAll (s.entryRefs e)

/-- Give the heads of a queue to the empty slots, the lowest-numbered first, until either runs out (R54). The admissions
are taken in queue order, and so are their marks (R183). -/
def State.fillFrom : List Entry → State → State
  | [], s => s
  | e :: rest, s =>
    match s.lowestEmpty with
    | some i => State.fillFrom rest (State.admitEntry { s with waiting := rest } i e)
    | none => s

/-- Fill the freed slots from the waiting queue (R51 step 5, R54). -/
def State.fill (s : State) : State := s.fillFrom s.waiting

/-- A record leaves its slot (R51 steps 1 to 3). -/
def State.remove (s : State) (i : Slot) (r : Record) : State :=
  ((s.setSlot i none).markAll [.point r.point, .area r.area]).dropItem (.alarm r.point)

/-- A removal and the admission that follows it in the same event (R51). -/
def State.removeAndFill (s : State) (i : Slot) (r : Record) : State := (s.remove i r).fill

/-- The place of a new entry: by priority, then by arrival (R52). -/
def insertEntry (e : Entry) : List Entry → List Entry
  | [] => [e]
  | x :: xs => if x.priority.rank ≤ e.priority.rank then x :: insertEntry e xs else e :: x :: xs

/-- One occurrence more, saturating at 255 (R48). -/
def bumped (n : Nat) : Nat := min 255 (n + 1)

/-! ### Raise and clear (3.3 and 3.4)

An effect is the state it leaves, or none where it changes nothing, with the outcome. -/

/-- The effect of an action on the records: the state it leaves (none: nothing changed) and its outcome. -/
abbrev Effect := Option State × Result

def Effect.refuse (r : Reason) : Effect := (none, some r)

def Effect.accept (t : State) : Effect := (some t, none)

/-- The state after an effect. -/
def Effect.after (e : Effect) (s : State) : State := e.1.getD s

/-- A raise that finds the record's alarm standing: only a new cause is taken (R42). -/
def State.raiseStanding (s : State) (i : Slot) (r : Record) (cause : Cause) : Effect :=
  if r.cause = cause then Effect.refuse .alreadyDone
  else (some (s.setSlot i (some { r with cause := cause })), some .alreadyDone)

/-- A re-raise (R43). -/
def State.reraise (s : State) (i : Slot) (r : Record) (cause : Cause) : State :=
  (s.annunciate i { r with state := .raisedUnack, condition := .active, cause := cause,
                           occurrences := bumped r.occurrences }).unseeItem (.alarm r.point)

/-- A raise of a point that has a live record (R42 to R44). -/
def State.raiseRecord (s : State) (i : Slot) (r : Record) (cause : Cause) : Effect :=
  match r.state with
  | .raisedUnack => s.raiseStanding i r cause
  | .acked => s.raiseStanding i r cause
  | .clearedUnack => Effect.accept (s.reraise i r cause)
  | .resetWait => Effect.accept (s.reraise i r cause)
  | .shelved =>
    match r.condition with
    | .active => s.raiseStanding i r cause
    | .gone =>
      Effect.accept (s.setSlot i (some { r with condition := .active, cause := cause,
                                                occurrences := bumped r.occurrences }))

/-- The new entry of a raise while every slot is full (R41, R52). -/
def State.freshEntry (s : State) (p : Point) (cause : Cause) : Entry :=
  { point := p, cause := cause, priority := s.cfg.points[p].priority, condition := .active, occurrences := 1,
    arrival := s.partTime }

/-- A raise of a point that has neither record nor entry (R41, R52). -/
def State.raiseNormal (s : State) (p : Point) (cause : Cause) : State :=
  match s.lowestEmpty with
  | some i => s.admitRecord i (s.freshRecord p cause)
  | none =>
    { s with waiting := insertEntry (s.freshEntry p cause) s.waiting }

/-- Change the entry of a waiting point in its place. -/
def State.setEntry (s : State) (p : Point) (f : Entry → Entry) : State :=
  { s with waiting := s.waiting.map fun e => if e.point = p then f e else e }

/-- A raise of a point (3.3, R53). -/
def State.raisePoint (s : State) (p : Point) (cause : Cause) : Effect :=
  match s.find p with
  | some (i, r) => s.raiseRecord i r cause
  | none =>
    match s.entryOf p with
    | some _ =>
      Effect.accept (s.setEntry p fun e =>
        { e with condition := .active, cause := cause, occurrences := bumped e.occurrences })
    | none => Effect.accept (s.raiseNormal p cause)

/-- The record of a clear from RAISED_UNACK to CLEARED_UNACK: a flood-held record is released as it moves (R46). -/
def State.clearedRecord (s : State) (r : Record) : Record :=
  let r' := { r with state := .clearedUnack, condition := .gone }
  if r.floodHeld then r'.release s.partTime else r'

/-- A clear of a point that has a live record (R45 to R47). -/
def State.clearRecord (s : State) (i : Slot) (r : Record) : Effect :=
  match r.state with
  | .raisedUnack =>
    match r.cls with
    | .selfClearing => Effect.accept (s.removeAndFill i r)
    | _ => Effect.accept (s.setSlot i (some (s.clearedRecord r)))
  | .acked =>
    match r.cls with
    | .held => Effect.accept (s.setSlot i (some { r with state := .resetWait, condition := .gone }))
    | _ => Effect.accept (s.removeAndFill i r)
  | .clearedUnack => Effect.refuse .alreadyDone
  | .resetWait => Effect.refuse .alreadyDone
  | .shelved =>
    match r.condition with
    | .active => Effect.accept (s.setSlot i (some { r with condition := .gone }))
    | .gone => Effect.refuse .alreadyDone

/-- A clear of a waiting point (R53). -/
def State.clearEntry (s : State) (p : Point) (e : Entry) : Effect :=
  match e.condition with
  | .gone => Effect.refuse .alreadyDone
  | .active =>
    match s.cfg.points[p].cls with
    | .selfClearing => Effect.accept { s with waiting := s.waiting.filter fun x => x.point != p }
    | _ => Effect.accept (s.setEntry p fun x => { x with condition := .gone })

/-- A clear of a point (3.4). -/
def State.clearPoint (s : State) (p : Point) : Effect :=
  match s.find p with
  | some (i, r) => s.clearRecord i r
  | none =>
    match s.entryOf p with
    | some e => s.clearEntry p e
    | none => Effect.refuse .alreadyDone

/-- A qualified change of a line becomes one event of its point (R29). -/
def State.lineEvent (s : State) (p : Point) : LineState → State
  | .active => (s.raisePoint p .alarm).after s
  | .fault => (s.raisePoint p .lineFault).after s
  | .normal => (s.clearPoint p).after s

/-! ### Acting operators and the acceptance test (R61, R62, R126) -/

/-- The acting pair of a request (R61): none, or the refusal. -/
def State.pairRefusal (s : State) (c : Console) (o : Operator) : Result :=
  match s.attachedAt c with
  | none => some .notStaffed
  | some p => if p = o then none else some .notInCharge

/-- The acceptance test of an action on a record at a required level (R62): none, or the refusal. -/
def State.acceptance (s : State) (c : Console) (o : Operator) (r : Record) (required : Level) : Result :=
  let lvl := s.effectiveLevel o r.area
  let placed := r.route == some c || (c == 0 && s.coAnnunciated r)
  if (placed && required ≤ lvl) || (c == 0 && lvl == 4) then none
  else if placed then some .levelTooLow else some .notRouted

/-- The authority test of an engineering request (R126): the commissioning state, or an acting operator in charge
who meets the requirement. -/
def State.engineer (s : State) (c : Console) (slot : Option Operator) (meets : Operator → Bool) : Bool :=
  s.commissioning ||
    match slot, s.attachedAt c with
    | some o, some p => p == o && meets o
    | _, _ => false

/-- SUPERVISOR in an area. -/
def State.supervisorIn (s : State) (o : Operator) (a : Area) : Bool := s.effectiveLevel o a == 4

/-- SUPERVISOR in at least one area: the requirement of PARAM_WRITE, PORT_ENABLE and PORT_RESTART (R126). -/
def State.supervisorSomewhere (s : State) (o : Operator) : Bool := s.levelInAll o 4 []

/-- The first check of a list that fails gives the refusal. -/
def firstRefusal : List (Bool × Reason) → Result
  | [] => none
  | (passes, r) :: rest => if passes then firstRefusal rest else some r

/-! ### Handover aborts, sessions, links (R138 to R142, R150, R152, R154, R176) -/

/-- An abort of a handover in OFFERED or REVIEW (R176). -/
def State.abortHandover (s : State) (c : Console) (outcome : HandoverOutcome) : State :=
  match s.handovers[c].phase with
  | .none => s
  | p =>
    { s with handovers := upd s.handovers c fun _ => { phase := .none, lastOutcome := some outcome } }.markAll
      (p.incoming.toList.map Ref.operator ++ [Ref.console c, Ref.handover c])

/-- An ATTACHED session becomes DETACHED, with a grace end (R152). -/
def State.detach (s : State) (c : Console) : State :=
  match s.consoles[c].session with
  | .attached o =>
    (s.setConsole c fun k =>
      { k with session := .detached o (s.partTime + 10 * s.cfg.params.graceTime) }).markAll [.console c, .operator o]
  | _ => s

/-- A session becomes NONE with its cause, and the under-qualified flag no (R150 steps 2 and 3). A flag that changes is
marked at step 3, where it changes; no rule gives that mark a place (log entry 15). -/
def State.dropSession (s : State) (c : Console) (cause : EndCause) : State :=
  (s.setConsole c fun k => { k with session := .none, lastEnd := some cause, underQualified := false }).markAll
    (if s.consoles[c].underQualified then [.console c] else [])

/-- A session ends for a cause other than HANDED_OVER, after any abort (R150 steps 2 to 5). -/
def State.endSession (s : State) (c : Console) (cause : EndCause) : State :=
  match s.consoles[c].session.inCharge with
  | none => s
  | some o => (s.dropSession c cause).rerouteStep.markAll [.console c, .operator o]

/-- A console holds a DETACHED session of an operator. -/
def State.detachedOf (s : State) (o : Operator) (c : Console) : Bool :=
  match s.consoles[c].session with
  | .detached p _ => p == o
  | _ => false

/-- The DETACHED session an operator holds elsewhere ends with cause MOVED (R149 step 1, R168 step 1); routing and
the marks follow in the calling event, the mark of a flag that changes with the console's own at its step 5 (log entry
15). -/
def State.moveSessions (s : State) (o : Operator) : State :=
  { s with consoles := Vector.ofFn fun c =>
      if s.detachedOf o c then
        { s.consoles[c] with session := .none, lastEnd := some .moved, underQualified := false }
      else s.consoles[c] }

/-- A heartbeat window that starts now or at a given time, with the present window period and locked fraction
(R136, R137). -/
def State.newWindow (s : State) (start : Nat) : Window :=
  { start := start
    lockedEnd := start + s.cfg.params.window * s.cfg.params.lockedPercent / 100
    finish := start + s.cfg.params.window }

/-- An UP link goes LOST, up to but not with the re-evaluation of routing (R140, R141 steps 1 and 2). -/
def State.loseLink (s : State) (c : Console) : State :=
  match s.consoles[c].link with
  | .up w =>
    (((s.setConsole c fun k => { k with link := .lost w }).markAll [.console c]).abortHandover c .linkLost).detach c
  | _ => s

/-- The same link state with another window. -/
def Link.withWindow (w : Window) : Link → Link
  | .up _ => .up w
  | .lost _ => .lost w
  | l => l

/-- A fail of the window test (R138): the count rises by 2, to at most the fail limit plus one, the window restarts,
and an UP link whose count is at or above the limit goes LOST. -/
def State.failWindow (s : State) (c : Console) (start : Nat) : State :=
  let limit := s.cfg.params.failLimit
  let before := s.consoles[c].count
  let count := min (before + 2) (limit + 1)
  let t := (s.setConsole c fun k =>
    { k with count := count, link := k.link.withWindow (s.newWindow start) }).markAll
      (if count = before then [] else [.console c])
  if s.linkUp c && limit ≤ count then (t.loseLink c).rerouteStep else t

/-- A DETACHED session becomes ATTACHED again (R154). -/
def Session.reattach : Session → Session
  | .detached o _ => .attached o
  | x => x

/-- The link goes to UP with count 0 and a window that starts now, and a DETACHED session reattaches (R140, R154).
A telegram left pending from the DOWN time is discarded (R145). -/
def State.bringUp (s : State) (c : Console) : State :=
  (s.setConsole c fun k =>
    { k with
      link := .up (s.newWindow s.partTime)
      count := 0
      session := k.session.reattach
      pendingTelegram := if k.link = .down then none else k.pendingTelegram }).reroute

/-- A record that a fault of a console's horn brings to console 0: P1 or P2, routed to the console, and not
co-annunciated before (R91). -/
def State.unheardAt (s : State) (c : Console) (r : Record) : Bool :=
  r.route == some c && r.priority.high && !s.coAnnunciated r

/-- The references a new horn fault marks: the console's, then the POINT of each record it brings to console 0, whether
or not the record's silenced flag was set (R91, R142). Where they stand among the marks of the heartbeat's judgement is
the model's choice (log entry 15). -/
def State.hornRefs (s : State) (c : Console) : List Ref :=
  .console c :: (numbersWhere fun p => match s.recordOf p with
    | some r => s.unheardAt c r
    | none => false).map .point

/-- A console's horn fault flag goes to yes, and the records it brings to console 0 are heard there (R91). -/
def State.faultHorn (s : State) (c : Console) : State :=
  (s.mapRecords fun r => if s.unheardAt c r then { r with silencedAtSupervisor := false } else r).setConsole c fun k =>
    { k with hornFault := true }

/-- A heartbeat's horn report: a fault reported while the flag is no sets it, with its marks; any other report changes
nothing (R91, R142). -/
def State.hornReport (s : State) (c : Console) (fault : Bool) : State :=
  if fault && !s.consoles[c].hornFault then (s.faultHorn c).markAll (s.hornRefs c) else s

/-! ### The store write (R188, R189) -/

/-- Generation number x is taken as higher than y: reached from it by counting forward 1 to 2,147,483,647 steps. -/
def generationHigher (x y : BitVec 32) : Bool :=
  let d := (x - y).toNat
  (1 ≤ d && d ≤ 2147483647) || (d == 2147483648 && Config.antipodalPrefersA x)

/-- The copy a write goes to. -/
def Store.target (st : Store) : CopyName :=
  match st.copyA, st.copyB with
  | some x, some y => if generationHigher x.generation y.generation then .b else .a
  | some _, none => .b
  | none, _ => .a

/-- A whole image written to one copy and read back: whether it reads back as written is a free value. -/
def Store.write (st : Store) (draw : Nat) (image : Settings) : Store :=
  let good := Config.storeReadsBack draw
  let written (old : Option StoredCopy) : Option StoredCopy :=
    if good then some { generation := st.generation + 1, image := image }
    else if Config.failedWriteKeepsCopy draw then old else none
  { copyA := if st.target = .a then written st.copyA else st.copyA
    copyB := if st.target = .b then written st.copyB else st.copyB
    generation := if good then st.generation + 1 else st.generation
    storeFault := !good
    storeLost := st.storeLost && !good
    writing := some st.target }

def State.storeWrite (s : State) : State :=
  { s with store := s.store.write s.draws s.cfg, draws := s.draws + 1 }

/-- The copy being written when power or the run is lost is left without a good check (R189). -/
def Store.cutOff (st : Store) (midWrite : Bool) : Store :=
  match midWrite, st.writing with
  | true, some .a => { st with copyA := none, writing := none }
  | true, some .b => { st with copyB := none, writing := none }
  | _, _ => { st with writing := none }

/-! ### The plant link exchange (R180 to R182) -/

/-- What a request answers: OK with its data, or a refusal. -/
inductive Reply where
  | ok (data : List Byte)
  | refused (r : Reason)
deriving DecidableEq, Repr

def Reply.result : Reply → Result
  | .ok _ => none
  | .refused r => some r

def Reply.data : Reply → List Byte
  | .ok d => d
  | .refused _ => []

/-- How a request is decided: the state it leaves (none: nothing changed) and its reply. -/
structure Verdict where
  after : Option State
  reply : Reply

def Verdict.refuse (r : Reason) : Verdict := ⟨none, .refused r⟩

/-- Accepted with nothing changed. -/
def Verdict.unchanged (data : List Byte) : Verdict := ⟨none, .ok data⟩

def Verdict.accept (t : State) (data : List Byte) : Verdict := ⟨some t, .ok data⟩

/-- The verdict of an effect whose acceptance carries data. -/
def Effect.verdict (e : Effect) (data : List Byte) : Verdict :=
  ⟨e.1, match e.2 with
    | none => .ok data
    | some r => .refused r⟩

/-- A verdict from a check: the refusal it found, or what follows when all checks pass. -/
def Verdict.check (r : Result) (otherwise : Verdict) : Verdict :=
  match r with
  | some reason => .refuse reason
  | none => otherwise

/-- The answer goes into hand, with the store flags as they stand (R182). -/
def State.answer (s : State) (code seq : Byte) (reply : Reply) : State :=
  let a : Answer :=
    { code := code, seq := seq, result := reply.result, storeFault := s.store.storeFault,
      storeLost := s.store.storeLost, data := reply.data }
  { s with inHand := some a }

/-- A counter one higher, saturating at 65,535 (R180, R181). -/
def counted (n : Nat) : Nat := min 65535 (n + 1)

/-- A frame that starts while a request is in hand: ignored and counted, until the end gap (R181). -/
def State.busyFrame (s : State) : State :=
  if s.plantRx.mode = .ignoring then s
  else { s with busy := counted s.busy, plantRx := { s.plantRx with mode := .ignoring } }

/-- A plant link request can be taken: the module has power, its receiver is not ignoring the line and no request is
in hand (R180, R181). -/
def State.linkReady (s : State) : Bool :=
  s.powered && s.plantRx.mode != .ignoring && s.inHand.isNone

/-- The plant link receiver after the end gap of a frame. -/
def State.plantHunting (s : State) : State :=
  { s with plantRx := { s.plantRx with mode := .hunting } }

/-- Decide a request whose fields have been decoded, in a state that is ready for it, and put its answer in hand. -/
def State.decide (s : State) (code seq : Byte) (v : Verdict) : State :=
  match v.after with
  | some t => (settle s t none).answer code seq v.reply
  | none => s.answer code seq v.reply

/-- A request on the plant link (R181, R182). `act` is none where a field lies outside its coded range: then the answer
is REFUSED BAD_REQUEST and nothing is passed on (R194). -/
def request (code seq : Byte) (act : Option (State → Verdict)) (s : State) : Out :=
  if s.linkReady then
    let s := s.plantHunting
    match act with
    | some f => .next (s.decide code seq (f s))
    | none => .next (s.answer code seq (.refused .badRequest))
  else if s.powered && s.inHand.isSome then .next s.busyFrame
  else .next s

/-! ### Panel telegrams (R147) -/

/-- A console port receives a good telegram: the module has power, the port is not OFF and its receiver is not
ignoring the line. -/
def State.hears (s : State) (c : Console) : Bool :=
  s.powered && s.consoles[c].link != .off && s.portRx[c].mode != .ignoring

/-- The port's receiver after the end gap of a frame. -/
def State.portHunting (s : State) (c : Console) : State :=
  { s with portRx := upd s.portRx c fun r => { r with mode := .hunting } }

/-- The result number rises by one, from 255 back to 0, and the last result is set (R147). -/
def State.withResult (s : State) (c : Console) (src : ResultSource) (r : Result) : State :=
  s.setConsole c fun k => { k with resultNumber := k.resultNumber + 1, lastResult := some (src, r) }

/-- The end of a key or badge telegram that was taken: its outcome, and a telegram whatever the outcome (R144,
R147). -/
def State.finishTelegram (s : State) (c : Console) (src : ResultSource) (e : Effect) : State :=
  match e.1 with
  | some t => settle s (t.withResult c src e.2) (some c)
  | none => (s.withResult c src e.2).composeAll s (some c)

/-- A key or badge telegram: taken while the link is UP, ignored in OFF, DOWN and LOST (R147). -/
def panelTelegram (c : Console) (src : ResultSource) (act : State → Effect) (s : State) : Out :=
  if s.hears c then
    let s := s.portHunting c
    if s.linkUp c then .next (s.finishTelegram c src (act s)) else .next s
  else .next s

/-! ### Timed events -/

/-- An event that part time brings: taken when its deadline has been reached, and otherwise not there. -/
def timed (s : State) (due : Bool) (t : State) : Out :=
  if s.powered && due then .next (settle s t none) else .next s

end Sys2Proof.Machine
end

