-- ==== Sys2Proof/Machine/Readout.lean ====
section
/-! DEFINITION. The read requests and the data of their answers, byte for byte (11.3). A read changes nothing and needs
no authority; READ_CHANGES alone takes references out of the change set. -/

namespace Sys2Proof.Machine

def zeros (n : Nat) : List Byte := List.replicate n 0

/-- The bytes that follow in the answer for an empty slot, where the manual states none (log entry 8). -/
def emptyBytes (code : Byte) (n : Nat) : List Byte := (List.range n).map (Config.emptyReadByte code)

/-- The live record block of a slot: 27 bytes; an empty slot has 0 for occupied and zeros after. -/
def recordBlock (i : Slot) : Option Record → List Byte
  | none => byteOf i.val :: zeros 26
  | some r =>
    [byteOf i.val, 1, byteOf r.point.val, recordStateByte r.state, conditionByte r.condition, causeByte r.cause,
      byteOf r.priority.rank, byteOf r.area.val, classByte r.cls, byteOf r.occurrences] ++
    bytesOfTime r.firstRaised ++ bytesOfTime r.annunciatedAt ++
    [consoleByte r.route,
      flagByte r.silencedAtRoute ||| (flagByte r.silencedAtSupervisor <<< 1) ||| (flagByte r.floodHeld <<< 2),
      byteOf r.stage.val, operatorByte r.acknowledgedBy, operatorByte r.shelvedBy] ++
    bytesOfTime (r.shelfEnd.getD 0)

/-- A point configuration in POINT_WRITE order: 9 bytes. -/
def pointBytes (p : Point) (c : PointConfig) : List Byte :=
  [byteOf p.val, useByte c.use, useLineByte c.use, byteOf c.area.val, byteOf c.priority.rank, classByte c.cls,
    flagByte c.shelvable] ++ bytesOf16 c.maxShelf

/-- The waiting entry of READ_POINT: 7 bytes. -/
def entryBlock (e : Entry) : List Byte :=
  [causeByte e.cause, conditionByte e.condition, byteOf e.occurrences] ++ bytesOfTime e.arrival

/-- READ_POINT, 47 bytes (R58). -/
def State.pointData (s : State) (p : Point) : List Byte :=
  pointBytes p s.cfg.points[p] ++ [(s.statusOf p).byte] ++
  (match s.find p with
    | some (i, r) => recordBlock i (some r)
    | none => zeros 27) ++
  (match s.find p, s.entryOf p with
    | none, some e => entryBlock e
    | _, _ => zeros 7) ++
  (match s.cfg.points[p].use with
    | .line l => [bandByte s.lines[l].band, lineStateByte s.lines[l].candidate, lineStateByte s.lines[l].qualified]
    | _ => [0xFF#8, 0xFF#8, 0xFF#8])

/-- A line configuration in LINE_WRITE order: 4 bytes after the line. -/
def lineConfigBytes (c : LineConfig) : List Byte :=
  [senseByte c.sense, flagByte c.supervised, filterByte c.filter, groupByte c.group]

/-- READ_LINE, 15 bytes (R35). -/
def State.lineData (s : State) (l : Line) : List Byte :=
  let cfg := s.cfg.lines[l]
  let live := s.lines[l]
  let blank := s.blankEndFor cfg
  byteOf l.val :: lineConfigBytes cfg ++
  (match s.boundPoint l with
    | some p => bytesOf16 p.val
    | none => [0xFF#8, 0xFF#8]) ++
  [bandByte live.band, lineStateByte live.candidate] ++ bytesOfSpan s.partTime (qualificationDeadline cfg live) ++
  [lineStateByte live.qualified, flagByte blank.isSome] ++ bytesOfSpan s.partTime blank

/-- READ_AREA, 9 bytes (R17). -/
def State.areaData (s : State) (a : Area) : List Byte :=
  let cfg := s.cfg.areas[a]
  [byteOf a.val, consoleByte cfg.owner, consoleByte cfg.fallback, byteOf cfg.ackLevel.val, byteOf cfg.shelveLevel.val,
    byteOf cfg.resetLevel.val, consoleByte s.routes[a], byteOf (s.areaCounts a).1, byteOf (s.areaCounts a).2]

/-- READ_CONSOLE, 20 bytes (R157). -/
def State.consoleData (s : State) (c : Console) : List Byte :=
  let k := s.consoles[c]
  let p := s.handovers[c].phase
  [byteOf c.val, flagByte s.cfg.enabled[c], linkByte k.link, byteOf k.count, sessionByte k.session,
    operatorByte k.session.inCharge] ++ bytesOfSpan s.partTime k.session.graceEnd ++
  [flagByte k.hornFault, flagByte k.underQualified, patternByte k.pattern, endCauseByte k.lastEnd] ++
  bytesOf16 k.load ++ [flagByte k.flooded, byteOf (s.heldCount c), phaseByte p, operatorByte p.outgoing,
    operatorByte p.incoming, 0]

def placeCode : Place → Byte
  | .none => 0
  | .inCharge _ _ => 1
  | .incoming _ => 2

def placeConsole : Place → Option Console
  | .none => Option.none
  | .inCharge c _ => some c
  | .incoming c => some c

/-- The place session state of READ_OPERATOR: ATTACHED or DETACHED, with in charge. R134 and 11.3 state none for an
incoming operator or for no place, and the byte is then a free value of the place (log entry 20). -/
def placeSession : Place → Byte
  | .inCharge _ detached => if detached then 2 else 1
  | p => Config.placeSessionByte (placeCode p)

/-- An operator record in ROSTER_WRITE order without the slot: badge, grants, expiry (0 for absent). -/
def expiryBytes (r : OperatorRecord) : List Byte := bytesOf16 (r.expiry.getD 0)

def grantBytes (r : OperatorRecord) : List Byte := r.grants.toList.map fun g => byteOf g.val

/-- READ_OPERATOR, 24 bytes (R134). -/
def State.operatorData (s : State) (o : Operator) : List Byte :=
  match s.cfg.roster[o] with
  | none => [byteOf o.number, 0] ++ emptyBytes 0x15 22
  | some r =>
    let place := s.placeOf o
    [byteOf o.number, 1] ++ Bytes.ofBadge r.badge ++ [operatorStatusByte r.status] ++ grantBytes r ++
      expiryBytes r ++ [flagByte (r.expired s.day), placeCode place, consoleByte (placeConsole place), placeSession place]

/-- READ_NOTE, 8 bytes and the text (R162). -/
def State.noteData (s : State) (n : Note) : List Byte :=
  match s.cfg.notes[n] with
  | none => [byteOf n.val, 0] ++ emptyBytes 0x16 6
  | some r =>
    [byteOf n.val, 1, byteOf r.area.val, noteKindByte r.kind, operatorByte r.author] ++ bytesOf16 r.entryDay ++
      [byteOf r.text.length] ++ r.text

/-- Bits 2 to 7 of an item's flags: of a NOTE item they carry the note's kind, in a coding that is left free (R158, log
entry 32). -/
def State.itemBits (s : State) (it : Item) : BitVec 6 :=
  match s.itemKind it with
  | some k => Config.noteItemBits (noteKindByte k)
  | none => 0

/-- One item of a handover list: kind, number, flags with bit 0 seen and bit 1 late (11.3). -/
def State.itemBytes (s : State) (it : Item) : List Byte :=
  (match it.ref with
    | .alarm p => [0, byteOf p.val]
    | .note n => [1, byteOf n.val]) ++ [s.itemBits it ++ BitVec.ofBool it.late ++ BitVec.ofBool it.seen]

/-- READ_HANDOVER, 12 bytes and the items of one page (R179). -/
def State.handoverData (s : State) (c : Console) (page : Fin 6) : List Byte :=
  let h := s.handovers[c]
  let items := h.phase.items
  let shown := (items.drop (16 * page.val)).take 16
  [byteOf c.val, phaseByte h.phase, operatorByte h.phase.outgoing, operatorByte h.phase.incoming] ++
  bytesOfSpan s.partTime h.phase.deadline ++
  [handoverOutcomeByte h.lastOutcome, byteOf items.length, byteOf h.phase.unseen,
    byteOf (items.filter fun it => it.late).length, byteOf page.val, byteOf shown.length] ++
  shown.flatMap s.itemBytes

/-- READ_STATUS, 34 bytes (R186). -/
def State.statusData (s : State) : List Byte :=
  bytesOfTime s.partTime ++ bytesOf16 s.day ++
  [flagByte s.commissioning, flagByte s.store.storeLost, flagByte s.store.storeFault, byteOf s.records.length,
    byteOf s.waiting.length, flagByte s.relay] ++
  bytesOf16 s.changeSet.length ++ bytesOf16 s.plantRx.discards ++ bytesOf16 s.busy ++
  (List.finRange 8).flatMap fun c => bytesOf16 s.portRx[c].discards

/-- The values a parameter carries: a single value is followed by 0 (11.3). -/
def Params.values (p : Params) : Parameter → Nat × Nat
  | .escalation i => (p.escalation[i].t1, p.escalation[i].t2)
  | .floodThresholds => (p.floodOn, p.floodOff)
  | .windowPeriod => (p.window, 0)
  | .lockedFraction => (p.lockedPercent, 0)
  | .failLimit => (p.failLimit, 0)
  | .graceTime => (p.graceTime, 0)
  | .offerTime => (p.offerTime, 0)
  | .reviewTime => (p.reviewTime, 0)
  | .blankTime g => (p.blankTime[g], 0)

def Parameter.code : Parameter → Nat
  | .escalation i => i.val
  | .floodThresholds => 4
  | .windowPeriod => 5
  | .lockedFraction => 6
  | .failLimit => 7
  | .graceTime => 8
  | .offerTime => 9
  | .reviewTime => 10
  | .blankTime g => 11 + g.val

/-- READ_PARAM, 5 bytes (R187). -/
def Params.data (p : Params) (which : Parameter) : List Byte :=
  byteOf which.code :: bytesOf16 (p.values which).1 ++ bytesOf16 (p.values which).2

/-! ### The reads -/

/-- A read: its data from the state, or BAD_REQUEST where its field lies outside the coded range. -/
def readOf {α : Type} (code seq : Byte) (field : Option α) (data : State → α → List Byte) (s : State) : Out :=
  request code seq (field.map fun x => fun s => .unchanged (data s x)) s

/-- READ_LINE (R35). -/
def execReadLine (seq line : Byte) (s : State) : Out :=
  readOf 0x12 seq (decodeNumber 32 line) State.lineData s

/-- READ_AREA (R17). -/
def execReadArea (seq area : Byte) (s : State) : Out :=
  readOf 0x13 seq (decodeNumber 12 area) State.areaData s

/-- READ_RECORD (R57). -/
def execReadRecord (seq slot : Byte) (s : State) : Out :=
  readOf 0x11 seq (decodeNumber 64 slot) (fun s i => recordBlock i s.live[i]) s

/-- READ_POINT (R58). -/
def execReadPoint (seq point : Byte) (s : State) : Out :=
  readOf 0x10 seq (decodeNumber 256 point) State.pointData s

/-- READ_OPERATOR (R134). -/
def execReadOperator (seq slot : Byte) (s : State) : Out :=
  readOf 0x15 seq (decodeOperator slot) State.operatorData s

/-- READ_CONSOLE (R157). -/
def execReadConsole (seq console : Byte) (s : State) : Out :=
  readOf 0x14 seq (decodeNumber 8 console) State.consoleData s

/-- READ_NOTE (R162). -/
def execReadNote (seq note : Byte) (s : State) : Out :=
  readOf 0x16 seq (decodeNumber 32 note) State.noteData s

/-- READ_HANDOVER (R179). -/
def execReadHandover (seq console page : Byte) (s : State) : Out :=
  readOf 0x17 seq
    (match decodeNumber 8 console, decodeNumber 6 page with
      | some c, some g => some (c, g)
      | _, _ => none)
    (fun s x => s.handoverData x.1 x.2) s

/-- READ_STATUS (R186). -/
def execReadStatus (seq : Byte) (s : State) : Out :=
  readOf 0x04 seq (some ()) (fun s _ => s.statusData) s

/-- READ_PARAM (R187). -/
def execReadParam (seq parameter : Byte) (s : State) : Out :=
  readOf 0x06 seq (decodeParameter parameter) (fun s p => s.cfg.params.data p) s

/-! ### READ_CHANGES -/

/-- The answer of READ_CHANGES: how many references, how many are left, the references (11.3). -/
def changesData (batch left : List Ref) : List Byte :=
  byteOf batch.length :: bytesOf16 left.length ++ batch.flatMap Ref.bytes

/-- The oldest references, up to 16, leave the set and become the last batch (R184, R185). -/
def State.takeFresh (s : State) (seq : Byte) : List Ref × State :=
  let batch := s.changeSet.take 16
  let left := s.changeSet.drop 16
  (batch, { s with changeSet := left, attention := !left.isEmpty, lastBatch := some (seq, batch) })

/-- READ_CHANGES taken with a sequence number (R185): the last batch again for the same number, else the oldest
references. -/
def State.takeChanges (s : State) (seq : Byte) : List Ref × State :=
  match s.lastBatch with
  | some (q, batch) => if q = seq then (batch, s) else s.takeFresh seq
  | none => s.takeFresh seq

/-- READ_CHANGES (R185). -/
def execReadChanges (seq : Byte) (s : State) : Out :=
  if s.linkReady then
    let r := s.plantHunting.takeChanges seq
    .next (r.2.answer 0x05 seq (.ok (changesData r.1 r.2.changeSet)))
  else request 0x05 seq none s

end Sys2Proof.Machine
end

