-- ==== Sys2Proof/Machine/Lines.lean ====
section
/-! DEFINITION. The Line Input Unit and the point configuration (chapter 2): band changes, qualification, blanking, and the
requests POINT_WRITE, LINE_WRITE, BLANK_GROUP, RAISE and CLEAR. -/

namespace Sys2Proof.Machine

/-- A band change (R26, R28, R32): the measured band, the candidate it reads as, appearing now or at the blank end. -/
def State.bandChanged (s : State) (l : Line) (b : Band) : State :=
  let cfg := s.cfg.lines[l]
  let candidate := cfg.read b
  s.setLine l fun x => { x with band := b, candidate := candidate, appeared := s.appearance cfg candidate }

/-- BAND_CHANGE (R26, R192). A loop that stays in its band is no band change; without power nothing is measured. -/
def execBandChange (line : Line) (ohms : Nat) (s : State) : Out :=
  let s := { s with loops := s.loops.set line.val ohms line.isLt }
  if s.powered && bandOf ohms != s.lines[line].band then .next (settle s (s.bandChanged line (bandOf ohms)) none)
  else .next s

/-- The qualified state takes the candidate, and the bound point its event (R28, R29). -/
def State.qualify (s : State) (l : Line) : State :=
  let reading := s.lines[l].candidate
  let t := s.setLine l fun x => { x with qualified := reading }
  match t.boundPoint l with
  | some p => t.lineEvent p reading
  | none => t

/-- QUALIFICATION_DEADLINE (R28). -/
def execQualificationDeadline (line : Line) (s : State) : Out :=
  timed s (reached s.partTime (qualificationDeadline s.cfg.lines[line] s.lines[line])) (s.qualify line)

/-- BLANK_END (R32): the timer goes idle, and nothing else happens. -/
def execBlankEnd (group : Group) (s : State) : Out :=
  if s.powered && reached s.partTime s.blankEnds[group] then
    .next { s with blankEnds := s.blankEnds.set group.val none group.isLt }
  else .next s

/-- RAISE (R33): a LINK point takes a raise with cause ALARM. -/
def execRaise (seq point : Byte) (s : State) : Out :=
  request 0x01 seq ((decodeNumber 256 point).map fun p s =>
    match s.cfg.points[p].use with
    | .unused => .refuse .unknownPoint
    | .line _ => .refuse .wrongSource
    | .link => (s.raisePoint p .alarm).verdict []) s

/-- CLEAR (R34). -/
def execClear (seq point : Byte) (s : State) : Out :=
  request 0x02 seq ((decodeNumber 256 point).map fun p s =>
    match s.cfg.points[p].use with
    | .unused => .refuse .unknownPoint
    | .line _ => .refuse .wrongSource
    | .link => (s.clearPoint p).verdict []) s

/-! ### POINT_WRITE (R20, R21) -/

/-- A line can be bound to a point: it is unbound, or bound to this point already (R20 check 4). -/
def State.lineFree (s : State) (p : Point) : PointUse → Bool
  | .line l => match s.boundPoint l with
    | some q => q == p
    | none => true
  | _ => true

/-- A P1 point is stored not shelvable (R19). -/
def PointConfig.corrected (c : PointConfig) : PointConfig :=
  { c with shelvable := c.shelvable && c.priority != .p1 }

/-- A newly bound line is taken as it stands: one that is qualified ACTIVE or FAULT raises its point at once (R21). -/
def State.bindingRaise (s : State) (p : Point) (old new : PointUse) : State :=
  match new with
  | .line l =>
    if old = new then s
    else match s.lines[l].qualified with
      | .normal => s
      | q => s.lineEvent p q
  | _ => s

/-- The checks of POINT_WRITE (R20). -/
def State.pointWriteRefusal (s : State) (c : Console) (o : Option Operator) (p : Point) (new : PointConfig) : Result :=
  firstRefusal
    [(s.engineer c o fun op => s.supervisorIn op s.cfg.points[p].area && s.supervisorIn op new.area, .noAuthority),
      (s.statusOf p == .normal, .wrongState),
      (1 ≤ new.maxShelf && new.maxShelf ≤ 480, .badValue),
      (s.lineFree p new.use, .badValue)]

/-- POINT_WRITE decided (R20, R21). -/
def State.writePoint (s : State) (c : Console) (o : Option Operator) (p : Point) (given : PointConfig) : Verdict :=
  let new := given.corrected
  let old := s.cfg.points[p]
  .check (s.pointWriteRefusal c o p new)
    (if new = old then .unchanged (pointBytes p new)
      else .accept ((((s.setPoint p new).markAll [.point p]).bindingRaise p old.use new.use).storeWrite)
        (pointBytes p new))

/-- The configuration POINT_WRITE gives, from its coded fields. -/
def decodePointConfig (use line area priority cls shelvable : Byte) (maxShelf : Half) : Option PointConfig := do
  let u ← decodeUse use line
  let a ← decodeNumber 12 area
  let pr ← decodePriority priority
  let k ← decodeClass cls
  let sh ← decodeFlag shelvable
  pure { use := u, area := a, priority := pr, cls := k, shelvable := sh, maxShelf := maxShelf.toNat }

/-- POINT_WRITE (R20, R21). -/
def execPointWrite (seq : Byte) (who : Acting) (point use line area priority cls shelvable : Byte) (maxShelf : Half)
    (s : State) : Out :=
  request 0x20 seq (do
    let w ← decodeEngineer who
    let p ← decodeNumber 256 point
    let cfg ← decodePointConfig use line area priority cls shelvable maxShelf
    pure fun s => s.writePoint w.1 w.2 p cfg) s

/-! ### LINE_WRITE (R25) -/

/-- The requirement of LINE_WRITE: SUPERVISOR in the bound point's area, or in some area for an unbound line. -/
def State.lineWriteMeets (s : State) (l : Line) (op : Operator) : Bool :=
  match s.boundPoint l with
  | some p => s.supervisorIn op s.cfg.points[p].area
  | none => s.supervisorSomewhere op

/-- The bound point, if any, has no record and no entry. -/
def State.lineIdle (s : State) (l : Line) : Bool :=
  match s.boundPoint l with
  | some p => s.statusOf p == .normal
  | none => true

/-- The line's qualification restarts under a new configuration (R25, R32). -/
def State.restartLine (s : State) (l : Line) (new : LineConfig) : State :=
  (s.setLineConfig l new).setLine l fun x =>
    { x with candidate := new.read x.band, appeared := s.appearance new (new.read x.band), qualified := .normal }

/-- LINE_WRITE decided (R25). -/
def State.writeLine (s : State) (c : Console) (o : Option Operator) (l : Line) (new : LineConfig) : Verdict :=
  .check (firstRefusal [(s.engineer c o (s.lineWriteMeets l), .noAuthority), (s.lineIdle l, .wrongState)])
    (if new = s.cfg.lines[l] then .unchanged (byteOf l.val :: lineConfigBytes new)
      else .accept (((s.restartLine l new).markAll ((s.boundPoint l).toList.map Ref.point)).storeWrite)
        (byteOf l.val :: lineConfigBytes new))

/-- The configuration LINE_WRITE gives, from its coded fields. -/
def decodeLineConfig (sense supervised filter group : Byte) : Option LineConfig := do
  let se ← decodeSense sense
  let su ← decodeFlag supervised
  let f ← decodeFilter filter
  let g ← decodeGroupOrNone group
  pure { sense := se, supervised := su, filter := f, group := g }

/-- LINE_WRITE (R25). -/
def execLineWrite (seq : Byte) (who : Acting) (line sense supervised filter group : Byte) (s : State) : Out :=
  request 0x21 seq (do
    let w ← decodeEngineer who
    let l ← decodeNumber 32 line
    let cfg ← decodeLineConfig sense supervised filter group
    pure fun s => s.writeLine w.1 w.2 l cfg) s

/-! ### BLANK_GROUP (R31, R32) -/

/-- The lines whose configuration names a group. -/
def State.linesOf (s : State) (g : Group) : List Line :=
  numbersWhere fun l => s.cfg.lines[l].group == some g

/-- The areas of the points bound to the lines of a group. -/
def State.groupAreas (s : State) (g : Group) : List Area :=
  (s.linesOf g).filterMap fun l => (s.boundPoint l).map fun p => s.cfg.points[p].area

/-- The group's timer runs to a new blank end, and its pending ACTIVE candidates are deferred to it. -/
def State.blank (s : State) (g : Group) (finish : Nat) : State :=
  { s with
    blankEnds := s.blankEnds.set g.val (some finish) g.isLt
    lines := Vector.ofFn fun l =>
      if s.cfg.lines[l].group == some g && s.lines[l].candidate == .active && s.lines[l].qualified != .active then
        { s.lines[l] with appeared := finish }
      else s.lines[l] }

/-- BLANK_GROUP decided (R31): LEAD in the area of every point bound to a line of the group, or in some area. -/
def State.blankGroup (s : State) (c : Console) (o : Option Operator) (g : Group) : Verdict :=
  let finish := s.partTime + 10 * s.cfg.params.blankTime[g]
  .check (firstRefusal [(s.engineer c o fun op => s.levelInAll op 3 (s.groupAreas g), .noAuthority)])
    (.accept (s.blank g finish) (bytesOfSpan s.partTime (some finish)))

/-- BLANK_GROUP (R31). -/
def execBlankGroup (seq : Byte) (who : Acting) (group : Byte) (s : State) : Out :=
  request 0x24 seq (do
    let w ← decodeEngineer who
    let g ← decodeNumber 4 group
    pure fun s => s.blankGroup w.1 w.2 g) s

end Sys2Proof.Machine
end

