-- ==== Sys2Proof/Machine/Alarms.lean ====
section
/-! DEFINITION. Acknowledging, silencing, resetting and shelving (chapter 4) and the stage deadlines (chapter 5). -/

namespace Sys2Proof.Machine

/-! ### Acknowledge (R64 to R68) -/

/-- A record that an acknowledgement keeps (R64). -/
def Record.acknowledged (r : Record) (st : RecordState) (o : Operator) : Record :=
  { r with state := st, stage := 0, floodHeld := false, acknowledgedBy := some o }

/-- An acknowledgement that keeps the record in its slot, with the marks of R65. -/
def State.keepAcknowledged (s : State) (i : Slot) (r : Record) (st : RecordState) (o : Operator) : State :=
  (s.setSlot i (some (r.acknowledged st o))).markAll
    (Ref.point r.point :: if r.state = .raisedUnack then [Ref.area r.area] else [])

/-- An accepted acknowledgement (R64, R65). From CLEARED_UNACK a record that is not HELD leaves the table. -/
def State.acknowledge (s : State) (i : Slot) (r : Record) (o : Operator) : State :=
  match r.state, r.cls with
  | .clearedUnack, .held => s.keepAcknowledged i r .resetWait o
  | .clearedUnack, _ => s.removeAndFill i r
  | _, _ => s.keepAcknowledged i r .acked o

/-- A request that names a point's record, with the checks of R63 in their order. -/
def State.namedRecord (s : State) (c : Console) (o : Operator) (p : Point) (own : Result)
    (suits : PointStatus → Result) (config : PointConfig → Result) (required : AreaConfig → Level)
    (act : Slot → Record → Verdict) : Verdict :=
  .check (if s.cfg.points[p].use = .unused then some .unknownPoint else none) <|
  .check own <|
  .check (suits (s.statusOf p)) <|
  .check (config s.cfg.points[p]) <|
  .check (s.pairRefusal c o) <|
  match s.find p with
  | some (i, r) => .check (s.acceptance c o r (required s.cfg.areas[r.area])) (act i r)
  | none => .refuse .alreadyDone

/-- A request that names a point and acts for a person, from its coded fields. -/
def onNamedPoint (code seq : Byte) (who : Acting) (point : Byte)
    (decided : Console → Operator → Point → State → Verdict) (s : State) : Out :=
  request code seq (do
    let w ← decodePerson who
    let p ← decodeNumber 256 point
    pure fun s => decided w.1 w.2 p s) s

/-- Check 3 of ACK (R67). -/
def ackSuits : PointStatus → Result
  | .live .raisedUnack => none
  | .live .clearedUnack => none
  | .live .acked => some .alreadyDone
  | .live .resetWait => some .alreadyDone
  | .normal => some .alreadyDone
  | .live .shelved => some .wrongState
  | .waiting => some .wrongState

/-- ACK decided (R63, R67). -/
def State.ackNamed (s : State) (c : Console) (o : Operator) (p : Point) : Verdict :=
  s.namedRecord c o p none ackSuits (fun _ => none) (·.ackLevel) fun i r => .accept (s.acknowledge i r o) []

/-- ACK (R67). -/
def execAck (seq : Byte) (who : Acting) (point : Byte) (s : State) : Out :=
  onNamedPoint 0x30 seq who point (fun c o p s => s.ackNamed c o p) s

/-- A record that the ACK key considers: routed to the console, unacknowledged, not flood-held. -/
def Record.waitsAt (r : Record) (c : Console) : Bool :=
  r.route == some c && r.unacknowledged && !r.floodHeld

/-- A candidate of the ACK key (R66). -/
def State.ackCandidate (s : State) (c : Console) (o : Operator) (r : Record) : Bool :=
  r.waitsAt c && s.cfg.areas[r.area].ackLevel ≤ s.effectiveLevel o r.area

/-- The order of the ACK key: priority, then annunciated at, then point number (R66). -/
def Record.ackBefore (x y : Record) : Bool :=
  x.priority.rank < y.priority.rank ||
    (x.priority.rank == y.priority.rank &&
      (x.annunciatedAt < y.annunciatedAt ||
        (x.annunciatedAt == y.annunciatedAt && x.point < y.point)))

/-- The earlier of the best candidate so far and the record of one slot. -/
def betterCandidate (keep : Record → Bool) (best : Option (Slot × Record)) (x : Slot × Option Record) :
    Option (Slot × Record) :=
  match x.2 with
  | none => best
  | some r =>
    if keep r then
      match best with
      | some b => if r.ackBefore b.2 then some (x.1, r) else best
      | none => some (x.1, r)
    else best

/-- The first candidate in the order of the ACK key. -/
def State.ackChoice (s : State) (c : Console) (o : Operator) : Option (Slot × Record) :=
  (List.finRange 64).foldl (fun best i => betterCandidate (s.ackCandidate c o) best (i, s.live[i])) none

/-- The ACK key's effect (R66). -/
def State.ackKey (s : State) (c : Console) : Effect :=
  match s.attachedAt c with
  | none => Effect.refuse .notStaffed
  | some o =>
    match s.ackChoice c o with
    | some (i, r) => Effect.accept (s.acknowledge i r o)
    | none => Effect.refuse (if s.records.any (·.waitsAt c) then .levelTooLow else .nothingToDo)

/-- ACK key (R66). -/
def execAckKey (console : Console) (s : State) : Out :=
  panelTelegram console (.key .ack) (fun s => s.ackKey console) s

/-! ### Silence (R70, R71) -/

/-- A record as the SILENCE key at a console leaves it. -/
def State.silenced (s : State) (c : Console) (r : Record) : Record :=
  { r with
    silencedAtRoute := r.silencedAtRoute || (r.route == some c && r.soundsAtRoute)
    silencedAtSupervisor := r.silencedAtSupervisor || (c == 0 && s.soundsAtSupervisor r) }

/-- The SILENCE key's effect (R70, R71). -/
def State.silenceKey (s : State) (c : Console) : Effect :=
  match s.attachedAt c with
  | none => Effect.refuse .notStaffed
  | some _ =>
    if s.records.any (s.soundsAt c) then Effect.accept (s.mapRecords (s.silenced c))
    else Effect.refuse .nothingToDo

/-- SILENCE key (R70). -/
def execSilenceKey (console : Console) (s : State) : Out :=
  panelTelegram console (.key .silence) (fun s => s.silenceKey console) s

/-! ### Reset (R73, R74) -/

/-- A RESET_WAIT record routed to the console. -/
def Record.awaitsReset (r : Record) (c : Console) : Bool :=
  r.route == some c && r.state == .resetWait

/-- The operator meets the reset level of a record's area. -/
def State.mayReset (s : State) (o : Operator) (r : Record) : Bool :=
  s.cfg.areas[r.area].resetLevel ≤ s.effectiveLevel o r.area

/-- The records that the RESET key removes, in point order. -/
def State.resettable (s : State) (c : Console) (o : Operator) : List (Slot × Record) :=
  (List.finRange 256).filterMap fun p => match s.find p with
    | some (i, r) => if r.awaitsReset c && s.mayReset o r then some (i, r) else none
    | none => none

/-- Several removals in one event: all are taken before the queue fills any slot (R54). -/
def State.removeAll (s : State) (l : List (Slot × Record)) : State :=
  (l.foldl (fun t x => t.remove x.1 x.2) s).fill

/-- The RESET key's effect (R73). -/
def State.resetKey (s : State) (c : Console) : Effect :=
  match s.attachedAt c with
  | none => Effect.refuse .notStaffed
  | some o =>
    if s.records.any (·.awaitsReset c) then
      (if (s.resettable c o).isEmpty then none else some (s.removeAll (s.resettable c o)),
        if s.records.any fun r => r.awaitsReset c && !s.mayReset o r then some .levelTooLow else none)
    else Effect.refuse .nothingToDo

/-- RESET key (R73). -/
def execResetKey (console : Console) (s : State) : Out :=
  panelTelegram console (.key .reset) (fun s => s.resetKey console) s

/-- Check 3 of RESET_HELD (R74). -/
def resetSuits : PointStatus → Result
  | .live .resetWait => none
  | .normal => some .alreadyDone
  | _ => some .wrongState

/-- RESET_HELD decided (R74). -/
def State.resetNamed (s : State) (c : Console) (o : Operator) (p : Point) : Verdict :=
  s.namedRecord c o p none resetSuits (fun _ => none) (·.resetLevel) fun i r => .accept (s.removeAndFill i r) []

/-- RESET_HELD (R74). -/
def execResetHeld (seq : Byte) (who : Acting) (point : Byte) (s : State) : Out :=
  onNamedPoint 0x31 seq who point (fun c o p s => s.resetNamed c o p) s

/-! ### Shelve and unshelve (R76 to R81) -/

/-- Check 3 of SHELVE (R76). -/
def shelveSuits : PointStatus → Result
  | .live .raisedUnack => none
  | .live .acked => none
  | .live .shelved => some .alreadyDone
  | .normal => some .alreadyDone
  | .live .clearedUnack => some .wrongState
  | .live .resetWait => some .wrongState
  | .waiting => some .wrongState

/-- A shelved record (R77). -/
def Record.shelve (r : Record) (o : Operator) (finish : Nat) : Record :=
  { r with state := .shelved, shelvedBy := some o, shelfEnd := some finish, stage := 0, floodHeld := false }

/-- The duration applied: clamped to the point's maximum (R76). -/
def State.shelfMinutes (s : State) (p : Point) (minutes : Nat) : Nat := min minutes s.cfg.points[p].maxShelf

/-- SHELVE decided (R76, R77). -/
def State.shelveNamed (s : State) (c : Console) (o : Operator) (p : Point) (minutes : Nat) : Verdict :=
  let applied := s.shelfMinutes p minutes
  let finish := s.partTime + 600 * applied
  s.namedRecord c o p (if minutes = 0 then some .badValue else none) shelveSuits
    (fun cfg => if cfg.shelvable then none else some .notShelvable) (·.shelveLevel) fun i r =>
      .accept (s.setSlot i (some (r.shelve o finish))) (byteOf p.val :: bytesOf16 applied ++ bytesOfTime finish)

/-- SHELVE (R76). -/
def execShelve (seq : Byte) (who : Acting) (point : Byte) (minutes : Half) (s : State) : Out :=
  onNamedPoint 0x32 seq who point (fun c o p s => s.shelveNamed c o p minutes.toNat) s

/-- The end of a shelf (R79): by the condition, a return to RAISED_UNACK or a removal. -/
def State.endShelf (s : State) (i : Slot) (r : Record) : State :=
  match r.condition with
  | .active =>
    (s.annunciate i { r with state := .raisedUnack, shelvedBy := none, shelfEnd := none }).unseeItem (.alarm r.point)
  | .gone => s.removeAndFill i r

/-- Check 3 of UNSHELVE (R80). -/
def unshelveSuits : PointStatus → Result
  | .live .shelved => none
  | _ => some .alreadyDone

/-- The point status an unshelve reaches (R80, R193): RAISED_UNACK, or NORMAL for a removal. -/
def Record.unshelvedStatus (r : Record) : PointStatus :=
  match r.condition with
  | .active => .live .raisedUnack
  | .gone => .normal

/-- UNSHELVE decided (R80). -/
def State.unshelveNamed (s : State) (c : Console) (o : Operator) (p : Point) : Verdict :=
  s.namedRecord c o p none unshelveSuits (fun _ => none) (·.shelveLevel) fun i r =>
    .accept (s.endShelf i r) [r.unshelvedStatus.byte]

/-- UNSHELVE (R80). -/
def execUnshelve (seq : Byte) (who : Acting) (point : Byte) (s : State) : Out :=
  onNamedPoint 0x33 seq who point (fun c o p s => s.unshelveNamed c o p) s

/-- SHELF_EXPIRY (R81). -/
def execShelfExpiry (point : Point) (s : State) : Out :=
  match s.find point with
  | some (i, r) => timed s (r.state == .shelved && reached s.partTime r.shelfEnd) (s.endShelf i r)
  | none => .next s

/-! ### Stage deadlines (R86, R87) -/

/-- A record that reaches its reminder deadline (R86). -/
def Record.remind (r : Record) : Record := { r with stage := 1, silencedAtRoute := false }

/-- A record that reaches its escalation deadline (R87). -/
def Record.escalate (r : Record) : Record :=
  { r with stage := 2, silencedAtSupervisor := false,
           silencedAtRoute := if r.stage = 0 then false else r.silencedAtRoute }

/-- REMINDER_DEADLINE (R86). -/
def execReminderDeadline (point : Point) (s : State) : Out :=
  match s.find point with
  | some (i, r) => timed s (reached s.partTime (reminderDeadline s.cfg.params r)) (s.setSlot i (some r.remind))
  | none => .next s

/-- ESCALATION_DEADLINE (R87). -/
def execEscalationDeadline (point : Point) (s : State) : Out :=
  match s.find point with
  | some (i, r) => timed s (reached s.partTime (escalationDeadline s.cfg.params r)) (s.setSlot i (some r.escalate))
  | none => .next s

end Sys2Proof.Machine
end

