-- ==== Sys2Proof/Machine/Areas.lean ====
section
/-! DEFINITION. The Area Map's requests AREA_WRITE and MOVE_AREA (chapter 1) and the Authority Unit's (chapter 7):
SET_DAY, ROSTER_WRITE, ROSTER_SUSPEND, ROSTER_RESTORE, ROSTER_RETIRE. -/

namespace Sys2Proof.Machine

/-! ### AREA_WRITE (R4, R5) -/

/-- The three levels as stored: clamped into their ranges (R4). -/
def AreaConfig.withLevels (a : AreaConfig) (k h r : Level) : AreaConfig :=
  { a with ackLevel := max 2 k, shelveLevel := max 3 h, resetLevel := max 2 r }

def levelBytes (a : Area) (x : AreaConfig) : List Byte :=
  [byteOf a.val, byteOf x.ackLevel.val, byteOf x.shelveLevel.val, byteOf x.resetLevel.val]

/-- AREA_WRITE decided (R4, R5). -/
def State.writeArea (s : State) (c : Console) (o : Option Operator) (a : Area) (k h r : Level) : Verdict :=
  let new := (s.cfg.areas[a]).withLevels k h r
  .check (firstRefusal [(s.engineer c o fun op => s.supervisorIn op a, .noAuthority)])
    (if new = s.cfg.areas[a] then .unchanged (levelBytes a new)
      else .accept (((s.setArea a fun _ => new).markAll [.area a]).storeWrite) (levelBytes a new))

/-- AREA_WRITE (R4). -/
def execAreaWrite (seq : Byte) (who : Acting) (area ackLevel shelveLevel resetLevel : Byte) (s : State) : Out :=
  request 0x22 seq (do
    let w ← decodeEngineer who
    let a ← decodeNumber 12 area
    let k ← decodeLevel ackLevel
    let h ← decodeLevel shelveLevel
    let r ← decodeLevel resetLevel
    pure fun s => s.writeArea w.1 w.2 a k h r) s

/-! ### MOVE_AREA (R6 to R9) -/

/-- A console, where one is named, has no handover in OFFERED or REVIEW (R7). -/
def State.handoverFree (s : State) : Option Console → Bool
  | some c => !(s.handovers[c].phase).active
  | none => true

/-- The operator in charge of an ATTACHED new owner console has OPERATE in the area (R8). -/
def State.newOwnerQualified (s : State) (a : Area) : Option Console → Bool
  | some c => match s.attachedAt c with
    | some o => 2 ≤ s.effectiveLevel o a
    | none => true
  | none => true

/-- The checks of MOVE_AREA (R6). -/
def State.moveRefusal (s : State) (c : Console) (o : Option Operator) (a : Area) (owner fallback : Option Console) :
    Result :=
  firstRefusal
    [(s.engineer c o fun op => s.supervisorIn op a, .noAuthority),
      (owner.isNone || owner != fallback, .badValue),
      (s.handoverFree s.cfg.areas[a].owner && s.handoverFree owner, .handoverBusy),
      (s.newOwnerQualified a owner, .notQualified)]

/-- The effects of an accepted MOVE_AREA that changes the area (R9). -/
def State.moveArea (s : State) (a : Area) (owner fallback : Option Console) : State :=
  let before := s.cfg.areas[a].owner
  let t := (s.setArea a fun x => { x with owner := owner, fallback := fallback }).rerouteStep
  let u := if before = owner then t else t.requalify (before.toList ++ owner.toList)
  (u.markAll [.area a]).storeWrite

/-- MOVE_AREA decided (R6, R9). -/
def State.moveAreaDecided (s : State) (c : Console) (o : Option Operator) (a : Area)
    (owner fallback : Option Console) : Verdict :=
  let data := [byteOf a.val, consoleByte owner, consoleByte fallback]
  .check (s.moveRefusal c o a owner fallback)
    (if s.cfg.areas[a].owner = owner ∧ s.cfg.areas[a].fallback = fallback then .unchanged data
      else .accept (s.moveArea a owner fallback) data)

/-- MOVE_AREA (R6). -/
def execMoveArea (seq : Byte) (who : Acting) (area owner fallback : Byte) (s : State) : Out :=
  request 0x23 seq (do
    let w ← decodeEngineer who
    let a ← decodeNumber 12 area
    let x ← decodeOwner owner
    let y ← decodeOwner fallback
    pure fun s => s.moveAreaDecided w.1 w.2 a x y) s

/-! ### SET_DAY (R120) -/

/-- The occupied slots whose expired state differs between the day held and a new one. -/
def State.expiryChanges (s : State) (day : Nat) : List Operator :=
  numbersWhere fun o => match s.cfg.roster[o] with
    | some r => r.expired s.day != r.expired day
    | none => false

/-- The effects of an accepted SET_DAY that names another day (R120). -/
def State.setDay (s : State) (day : Nat) : State :=
  (({ s with day := day }).markAll ((s.expiryChanges day).map Ref.operator)).requalify
    (numbersWhere fun c => s.consoles[c].session.inCharge.isSome)

/-- SET_DAY (R120). -/
def execSetDay (seq : Byte) (day : Half) (s : State) : Out :=
  request 0x03 seq (some fun s =>
    if day = 0 then .refuse .badValue
    else if day.toNat = s.day then .unchanged (bytesOf16 day.toNat)
    else .accept (s.setDay day.toNat) (bytesOf16 day.toNat)) s

/-! ### ROSTER_WRITE (R127 to R129) -/

/-- The areas in which SUPERVISOR is needed to add or replace a record (R127). -/
def rosterWriteAreas (old : Option OperatorRecord) (grants : Vector Level 12) (expiry : Option Nat) : List Area :=
  match old with
  | none => numbersWhere fun a => grants[a] != 0
  | some r =>
    if r.expiry = expiry then numbersWhere fun a => grants[a] != r.grants[a]
    else numbersWhere fun a => grants[a] != r.grants[a] || grants[a] != 0 || r.grants[a] != 0

/-- The areas in which SUPERVISOR is needed to suspend, restore or retire a slot (R127). -/
def State.rosterEditAreas (s : State) (slot : Operator) : List Area :=
  match s.cfg.roster[slot] with
  | some r => numbersWhere fun a => r.grants[a] != 0
  | none => []

/-- The lowest-numbered empty roster slot. -/
def State.lowestFreeOperator (s : State) : Option Operator :=
  lowestWhere fun o => s.cfg.roster[o].isNone

/-- The slot a ROSTER_WRITE uses: the one named, or the lowest empty one for 0. -/
def State.rosterSlot (s : State) (named : Option Operator) : Option Operator :=
  match named with
  | some o => some o
  | none => s.lowestFreeOperator

/-- The record a slot holds; none for a slot named 0. -/
def State.rosterTarget (s : State) (named : Option Operator) : Option OperatorRecord :=
  match named with
  | some o => s.cfg.roster[o]
  | none => none

/-- No other occupied slot holds a badge (R128 check 4). -/
def State.badgeFree (s : State) (b : Badge) (slot : Option Operator) : Bool :=
  (List.finRange 48).all fun o => some o == slot ||
    match s.cfg.roster[o] with
    | some r => r.badge != b
    | none => true

/-- The badge given is the stored badge of an occupied slot (R128 check 3). -/
def badgeKept (old : Option OperatorRecord) (b : Badge) : Bool :=
  match old with
  | some r => r.badge == b
  | none => true

/-- The checks of ROSTER_WRITE (R128). -/
def State.rosterWriteRefusal (s : State) (c : Console) (o : Option Operator) (named : Option Operator) (b : Badge)
    (grants : Vector Level 12) (expiry : Option Nat) : Result :=
  firstRefusal
    [(s.engineer c o fun op => s.levelInAll op 4 (rosterWriteAreas (s.rosterTarget named) grants expiry), .noAuthority),
      ((s.rosterSlot named).isSome, .rosterFull),
      (badgeKept (s.rosterTarget named) b, .badValue),
      (s.badgeFree b (s.rosterSlot named), .badgeInUse)]

/-- The record a ROSTER_WRITE stores (R129): a replacement keeps the status. -/
def rosterRecord (old : Option OperatorRecord) (b : Badge) (grants : Vector Level 12) (expiry : Option Nat) :
    OperatorRecord :=
  { badge := b, grants := grants, expiry := expiry
    status := match old with
      | some r => r.status
      | none => .active }

/-- The consoles where a slot is in charge. -/
def State.consolesOf (s : State) (o : Operator) : List Console :=
  numbersWhere fun c => s.consoles[c].session.inCharge == some o

/-- The effects of a ROSTER_WRITE that changes a slot (R129). -/
def State.storeOperator (s : State) (slot : Operator) (r : OperatorRecord) : State :=
  (((s.setRoster slot (some r)).markAll [.operator slot]).requalify (s.consolesOf slot)).storeWrite

def rosterBytes (slot : Operator) (r : OperatorRecord) : List Byte :=
  byteOf slot.number :: Bytes.ofBadge r.badge ++ grantBytes r ++ expiryBytes r

/-- ROSTER_WRITE decided (R128, R129). -/
def State.writeRoster (s : State) (c : Console) (o : Option Operator) (named : Option Operator) (b : Badge)
    (grants : Vector Level 12) (expiry : Option Nat) : Verdict :=
  let r := rosterRecord (s.rosterTarget named) b grants expiry
  .check (s.rosterWriteRefusal c o named b grants expiry)
    (match s.rosterSlot named with
      | some slot =>
        if s.cfg.roster[slot] = some r then .unchanged (rosterBytes slot r)
        else .accept (s.storeOperator slot r) (rosterBytes slot r)
      | none => .refuse .rosterFull)

/-- An expiry as coded: 0 for absent. -/
def decodeExpiry (e : Half) : Option Nat := if e = 0 then none else some e.toNat

/-- The badge of ROSTER_WRITE: 1 to 16,777,215 (R194). -/
def decodeBadge (b : Badge) : Option Badge := if b = 0 then none else some b

/-- ROSTER_WRITE (R128). -/
def execRosterWrite (seq : Byte) (who : Acting) (slot : Byte) (badge : Badge) (grants : Vector Byte 12) (expiry : Half)
    (s : State) : Out :=
  request 0x28 seq (do
    let w ← decodeEngineer who
    let n ← decodeOperatorOrNone slot
    let b ← decodeBadge badge
    let g ← decodeGrants grants
    pure fun s => s.writeRoster w.1 w.2 n b g (decodeExpiry expiry)) s

/-! ### ROSTER_SUSPEND, ROSTER_RESTORE, ROSTER_RETIRE (R130 to R132) -/

/-- The authority of an edit of an existing slot (R126, R127). -/
def State.mayEdit (s : State) (c : Console) (o : Option Operator) (slot : Operator) : Bool :=
  s.engineer c o fun op => s.levelInAll op 4 (s.rosterEditAreas slot)

/-- A slot's record has a status. -/
def State.hasStatus (s : State) (slot : Operator) (st : OperatorStatus) : Bool :=
  match s.cfg.roster[slot] with
  | some r => r.status == st
  | none => false

/-- Set the status of an occupied slot. -/
def State.setStatus (s : State) (slot : Operator) (st : OperatorStatus) : State :=
  s.setRoster slot (s.cfg.roster[slot].map fun r => { r with status := st })

/-- The consoles in whose handover a slot is outgoing or incoming. -/
def State.handoversOf (s : State) (o : Operator) : List Console :=
  numbersWhere fun c => s.handovers[c].phase.outgoing == some o || s.handovers[c].phase.incoming == some o

/-- The sessions of some consoles become NONE with cause SUSPENDED, and their under-qualified flags no (R150 steps 2 and
3); a flag that changes is marked here (log entry 15). -/
def State.dropSuspended (s : State) (ended : List Console) : State :=
  { s with consoles := Vector.ofFn fun c =>
      if ended.contains c then
        { s.consoles[c] with session := .none, lastEnd := some .suspended, underQualified := false }
      else s.consoles[c] }.markAll
    ((numbersWhere fun c => ended.contains c && s.consoles[c].underQualified).map Ref.console)

/-- The sessions of some consoles end, with one re-evaluation of routing on the result (R130 steps 3 and 4). -/
def State.endSuspended (s : State) (ended : List Console) : State :=
  if ended.isEmpty then s else (s.dropSuspended ended).rerouteStep.markAll (ended.map Ref.console)

/-- The effects of an accepted ROSTER_SUSPEND, in their order (R130). -/
def State.suspend (s : State) (slot : Operator) : State :=
  let t := (s.handoversOf slot).foldl (fun t c => t.abortHandover c .suspended) (s.setStatus slot .suspended)
  ((t.endSuspended (s.consolesOf slot)).markAll [.operator slot]).storeWrite

/-- ROSTER_SUSPEND decided (R130). -/
def State.suspendSlot (s : State) (c : Console) (o : Option Operator) (slot : Operator) : Verdict :=
  .check (firstRefusal
    [(s.mayEdit c o slot, .noAuthority), (s.cfg.roster[slot].isSome, .badValue),
      (s.hasStatus slot .active, .alreadyDone)])
    (.accept (s.suspend slot) [operatorByte (some slot)])

/-- The effects of an accepted ROSTER_RESTORE (R131). -/
def State.restore (s : State) (slot : Operator) : State :=
  ((s.setStatus slot .active).markAll [.operator slot]).storeWrite

/-- ROSTER_RESTORE decided (R131). -/
def State.restoreSlot (s : State) (c : Console) (o : Option Operator) (slot : Operator) : Verdict :=
  .check (firstRefusal
    [(s.mayEdit c o slot, .noAuthority), (s.cfg.roster[slot].isSome, .badValue),
      (s.hasStatus slot .suspended, .alreadyDone)])
    (.accept (s.restore slot) [operatorByte (some slot)])

/-- A note whose author is a slot. -/
def State.writtenBy (s : State) (o : Operator) (n : Note) : Bool :=
  match s.cfg.notes[n] with
  | some r => r.author == some o
  | none => false

/-- The notes with the author absent on every note of a slot. -/
def State.orphaned (s : State) (o : Operator) : Vector (Option NoteRecord) 32 :=
  Vector.ofFn fun n =>
    if s.writtenBy o n then s.cfg.notes[n].map fun r => { r with author := none } else s.cfg.notes[n]

/-- The author is made absent on every note of a slot (R132 step 2). -/
def State.dropAuthor (s : State) (o : Operator) : State :=
  { s with cfg := { s.cfg with notes := s.orphaned o } }.markAll ((numbersWhere (s.writtenBy o)).map Ref.note)

/-- The effects of an accepted ROSTER_RETIRE (R132). -/
def State.retire (s : State) (slot : Operator) : State :=
  (((s.setRoster slot none).dropAuthor slot).markAll [.operator slot]).storeWrite

/-- ROSTER_RETIRE decided (R132). -/
def State.retireSlot (s : State) (c : Console) (o : Option Operator) (slot : Operator) : Verdict :=
  .check (firstRefusal
    [(s.mayEdit c o slot, .noAuthority), (s.cfg.roster[slot].isSome, .alreadyDone),
      (s.placeOf slot == .none, .inSession)])
    (.accept (s.retire slot) [operatorByte (some slot)])

/-- An edit of a roster slot 1 to 48, from its coded fields. -/
def onRosterSlot (code seq : Byte) (who : Acting) (slot : Byte)
    (decided : Console → Option Operator → Operator → State → Verdict) (s : State) : Out :=
  request code seq (do
    let w ← decodeEngineer who
    let n ← decodeOperator slot
    pure fun s => decided w.1 w.2 n s) s

/-- ROSTER_SUSPEND (R130). -/
def execRosterSuspend (seq : Byte) (who : Acting) (slot : Byte) (s : State) : Out :=
  onRosterSlot 0x29 seq who slot (fun c o n s => s.suspendSlot c o n) s

/-- ROSTER_RESTORE (R131). -/
def execRosterRestore (seq : Byte) (who : Acting) (slot : Byte) (s : State) : Out :=
  onRosterSlot 0x2A seq who slot (fun c o n s => s.restoreSlot c o n) s

/-- ROSTER_RETIRE (R132). -/
def execRosterRetire (seq : Byte) (who : Acting) (slot : Byte) (s : State) : Out :=
  onRosterSlot 0x2B seq who slot (fun c o n s => s.retireSlot c o n) s

end Sys2Proof.Machine
end

