-- ==== Sys2Proof/Machine/Consoles.lean ====
section
/-! DEFINITION. The Load Monitor's second's end (chapter 6) and the Console Supervisor (chapter 8): heartbeats, windows,
panel telegrams, badges, sign-in, sign-out, grace, port restart and port enable. -/

namespace Sys2Proof.Machine

/-! ### SECONDS_END (R101, R103, R108, R110) -/

/-- The load after a second's end: decay by a thirty-second part rounded up, then the sum, saturating (R101). -/
def nextLoad (load sum : Nat) : Nat := min 65535 (load - (load + 31) / 32 + sum)

/-- The flood state judged against the load just stored (R103). -/
def Params.judgeFlood (p : Params) (flooded : Bool) (load : Nat) : Bool :=
  if flooded then !(load ≤ p.floodOff) else p.floodOn ≤ load

/-- The points of the records flood-held with a console as route. -/
def State.heldPoints (s : State) (c : Console) : List Point :=
  numbersWhere fun p => match s.recordOf p with
    | some r => r.floodHeld && r.route == some c
    | none => false

/-- Every record flood-held with a console as route is released (R108). -/
def State.releaseHeld (s : State) (c : Console) : State :=
  s.mapRecords fun r => if r.floodHeld && r.route == some c then r.release s.partTime else r

/-- The second's end of one console (R101). R110 step 1 has the CONSOLE and the POINT of each released record marked, and
names no order between them. The model's choice (log entry 15): the CONSOLE first, then the POINTs by number, as the two
sentences of that step stand; by kind, as other references of one step are marked, the POINTs would come first. -/
def State.secondsEnd (s : State) (c : Console) : State :=
  let k := s.consoles[c]
  let load := nextLoad k.load k.secondSum
  let flooded := s.cfg.params.judgeFlood k.flooded load
  let exits := k.flooded && !flooded
  let t := s.setConsole c fun k =>
    { k with load := load, flooded := flooded, secondSum := 0, secondTaken := s.partTime }
  (if exits then t.releaseHeld c else t).markAll
    ((if load = k.load ∧ flooded = k.flooded then [] else [Ref.console c]) ++
      (if exits then (s.heldPoints c).map Ref.point else []))

/-- SECONDS_END (R101): at a part time that is a whole second, once for each. -/
def execSecondsEnd (console : Console) (s : State) : Out :=
  timed s (s.partTime % 10 == 0 && s.consoles[console].secondTaken < s.partTime) (s.secondsEnd console)

/-! ### Heartbeats and windows (R137 to R142) -/

/-- WINDOW_END (R138): the window ends without a heartbeat, which is a fail; it restarts at its end. -/
def execWindowEnd (console : Console) (s : State) : Out :=
  match s.consoles[console].link.window with
  | some w => timed s (w.finish ≤ s.partTime) (s.failWindow console w.finish)
  | none => .next s

/-- A heartbeat in the open part of the window (R139). -/
def State.successWindow (s : State) (c : Console) : State :=
  let k := s.consoles[c]
  if k.count ≤ 1 && !k.link.isUp then s.bringUp c
  else s.setConsole c fun k =>
    { k with count := k.count - 1, link := k.link.withWindow (s.newWindow s.partTime) }

/-- A heartbeat judged by the link state and the window (R137 to R140), with its horn report; whether it is answered
with a telegram. No rule orders the judgement and the report: the model takes the judgement first, with the marks of its
numbered steps (R138, R141), then the report with its marks (R91, R142), and marks what a link coming UP or a success
changes at the end of the event (log entry 15). -/
def State.heartbeat (s : State) (c : Console) (fault : Bool) : State × Bool :=
  match s.consoles[c].link with
  | .off => (s, false)
  | .down => ((s.bringUp c).hornReport c fault, true)
  | .up w =>
    if s.partTime < w.lockedEnd then ((s.failWindow c s.partTime).hornReport c fault, false)
    else ((s.successWindow c).hornReport c fault, true)
  | .lost w =>
    if s.partTime < w.lockedEnd then ((s.failWindow c s.partTime).hornReport c fault, false)
    else ((s.successWindow c).hornReport c fault, true)

/-- HEARTBEAT (R139): bit 0 of the report is set for a fault. -/
def execHeartbeat (console : Console) (report : Byte) (s : State) : Out :=
  if s.hears console then
    let s := s.portHunting console
    let r := s.heartbeat console (report.getLsbD 0)
    .next (settle s r.1 (if r.2 then some console else none))
  else .next s

/-- The in-flight telegram has gone: the pending one follows while the link is UP or LOST (R145). -/
def ConsoleRecord.telegramSent (k : ConsoleRecord) : ConsoleRecord :=
  if k.inFlight.isNone then k
  else if k.link.window.isSome then { k with inFlight := k.pendingTelegram, pendingTelegram := none }
  else { k with inFlight := none }

/-- TELEGRAM_SENT (R145). -/
def execTelegramSent (console : Console) (s : State) : Out :=
  if s.powered then .next (s.setConsole console ConsoleRecord.telegramSent) else .next s

/-- UNDEFINED_TELEGRAM (R195): taken while the link is UP, with outcome BAD_REQUEST. A body that decodes as a heartbeat,
a key or a badge is no undefined telegram. -/
def execUndefinedTelegram (console : Console) (body : List Byte) (s : State) : Out :=
  if decodeTelegram console body = .undefinedTelegram console body then
    panelTelegram console .undefinedTelegram (fun _ => Effect.refuse .badRequest) s
  else .next s

/-! ### Badges (R148, R149, R168) -/

/-- Checks 3 of R149 and R168: not in charge with session ATTACHED at another console, and not incoming anywhere. -/
def State.freeToCome (s : State) (c : Console) (o : Operator) : Bool :=
  (List.finRange 8).all fun d =>
    (d == c || s.attachedAt d != some o) && s.handovers[d].phase.incoming != some o

/-- The checks of a sign-in and of an incoming badge, which are the same (R149, R168). -/
def State.badgeRefusal (s : State) (c : Console) (o : Operator) (r : OperatorRecord) : Result :=
  firstRefusal
    [(r.status == .active, .suspended), (s.freeToCome c o, .alreadySignedIn), (s.qualifies o c, .notQualified)]

/-- The consoles at which an operator holds a DETACHED session. -/
def State.detachedConsoles (s : State) (o : Operator) : List Console := numbersWhere (s.detachedOf o)

/-- The CONSOLE references of a console and of some others, by number. -/
def consoleRefs (c : Console) (others : List Console) : List Ref :=
  (numbersWhere fun d => d == c || others.contains d).map Ref.console

/-- The effects of a sign-in that passes (R149). -/
def State.signIn (s : State) (c : Console) (o : Operator) : State :=
  let others := s.detachedConsoles o
  let t := (s.moveSessions o).setConsole c fun k => { k with session := .attached o }
  ((t.requalify [c]).rerouteStep).markAll (consoleRefs c others ++ [Ref.operator o])

/-- The effects of an incoming badge that passes (R168). -/
def State.comeIn (s : State) (c : Console) (o : Operator) : State :=
  let others := s.detachedConsoles o
  let t := if others.isEmpty then s else (s.moveSessions o).rerouteStep
  let p := match s.handovers[c].phase with
    | .offered out _ items => .review out o (s.partTime + 10 * s.cfg.params.reviewTime) items
    | p => p
  (t.setPhase c p).markAll (consoleRefs c others ++ [Ref.operator o, Ref.handover c])

/-- A badge looked up and tested, then taken (R116, R149, R168). -/
def State.badgeStep (s : State) (c : Console) (n : Badge) (taken : Operator → State) : Effect :=
  match s.holderOf n with
  | none => Effect.refuse .unknownBadge
  | some (o, r) =>
    match s.badgeRefusal c o r with
    | some reason => Effect.refuse reason
    | none => Effect.accept (taken o)

/-- The badge of the operator in charge (R148). -/
def State.isBadgeOf (s : State) (o : Operator) (n : Badge) : Bool :=
  match s.cfg.roster[o] with
  | some r => r.badge == n
  | none => false

/-- A badge by the session and handover states (R148). -/
def State.badge (s : State) (c : Console) (n : Badge) : Effect :=
  match s.consoles[c].session.inCharge with
  | none => s.badgeStep c n (s.signIn c)
  | some o =>
    if s.isBadgeOf o n then Effect.refuse .alreadySignedIn
    else match s.handovers[c].phase with
      | .offered _ _ _ => s.badgeStep c n (s.comeIn c)
      | _ => Effect.refuse .consoleOccupied

/-- BADGE (R148). -/
def execBadge (console : Console) (number : Badge) (s : State) : Out :=
  panelTelegram console .badge (fun s => s.badge console number) s

/-! ### Sign-out and grace (R151, R153, R154) -/

/-- The SIGN-OUT key's effect (R147, R151, R177). -/
def State.signOutKey (s : State) (c : Console) : Effect :=
  if s.handovers[c].phase.inReview then Effect.accept (s.abortHandover c .incomingLeft)
  else match s.attachedAt c with
    | none => Effect.refuse .notStaffed
    | some _ =>
      if (s.ownedAreas c).isEmpty then Effect.accept (s.endSession c .signedOut)
      else Effect.refuse .handoverRequired

/-- SIGN-OUT key (R151). -/
def execSignOutKey (console : Console) (s : State) : Out :=
  panelTelegram console (.key .signOut) (fun s => s.signOutKey console) s

/-- SIGN_OUT decided (R151): the incoming operator leaves, or the operator in charge signs out. -/
def State.signOut (s : State) (c : Console) (o : Operator) : Verdict :=
  if s.handovers[c].phase.incoming = some o then .accept (s.abortHandover c .incomingLeft) []
  else .check (s.pairRefusal c o)
    (.check (firstRefusal [((s.ownedAreas c).isEmpty, .handoverRequired)])
      (.accept (s.endSession c .signedOut) []))

/-- A request of an acting console and an acting slot 1 to 48 alone, from its coded fields. -/
def onPerson (code seq : Byte) (who : Acting) (decided : Console → Operator → State → Verdict) (s : State) : Out :=
  request code seq ((decodePerson who).map fun w => fun s => decided w.1 w.2 s) s

/-- SIGN_OUT (R151). -/
def execSignOut (seq : Byte) (who : Acting) (s : State) : Out :=
  onPerson 0x34 seq who (fun c o s => s.signOut c o) s

/-- FORCE_SIGN_OUT decided (R153). -/
def State.forceSignOut (s : State) (c : Console) (o : Operator) (target : Console) : Verdict :=
  .check (firstRefusal
    [(s.attachedAt c == some o, .noAuthority), (s.levelInAll o 4 (s.ownedAreas target), .noAuthority),
      (s.consoles[target].session.inCharge.isSome, .alreadyDone)])
    (.accept ((s.abortHandover target .forced).endSession target .forced) [])

/-- FORCE_SIGN_OUT (R153). -/
def execForceSignOut (seq : Byte) (who : Acting) (target : Byte) (s : State) : Out :=
  request 0x35 seq (do
    let w ← decodePerson who
    let d ← decodeNumber 8 target
    pure fun s => s.forceSignOut w.1 w.2 d) s

/-- GRACE_END (R154). -/
def execGraceEnd (console : Console) (s : State) : Out :=
  timed s (reached s.partTime s.consoles[console].session.graceEnd) (s.endSession console .graceExpired)

/-! ### Port restart and port enable (R155, R156) -/

/-- The fields a port restart and a disable put back, with the link state they go to (R155 steps 2 to 4, R156). -/
def ConsoleRecord.cleared (k : ConsoleRecord) (link : Link) : ConsoleRecord :=
  { k with link := link, count := 0, hornFault := false, inFlight := none, pendingTelegram := none,
           resultNumber := 0, lastResult := none }

/-- The effects of an accepted PORT_RESTART, in their order (R155). -/
def State.restartPort (s : State) (d : Console) : State :=
  (((((s.abortHandover d .restart).setConsole d fun k => k.cleared .down).detach d).rerouteStep).markAll [.console d])

/-- PORT_RESTART decided (R155). -/
def State.portRestart (s : State) (c : Console) (o : Option Operator) (d : Console) : Verdict :=
  .check (firstRefusal
    [(s.engineer c o s.supervisorSomewhere, .noAuthority), (s.consoles[d].link != .off, .wrongState)])
    (.accept (s.restartPort d) [])

/-- PORT_RESTART (R155). -/
def execPortRestart (seq : Byte) (who : Acting) (console : Byte) (s : State) : Out :=
  request 0x27 seq (do
    let w ← decodeEngineer who
    let d ← decodeNumber 8 console
    pure fun s => s.portRestart w.1 w.2 d) s

/-- A change of a port's enabled flag (R156). A disabled port's receiver takes no part in anything (R180). -/
def State.setEnabled (s : State) (d : Console) (on : Bool) : State :=
  let t := { s with
    cfg := { s.cfg with enabled := s.cfg.enabled.set d.val on d.isLt }
    consoles := upd s.consoles d fun k =>
      if on then { k with link := .down, count := 0 } else k.cleared .off
    portRx := upd s.portRx d fun r => if on then r else { r with mode := .hunting } }
  t.reroute.storeWrite

/-- A console and its setting, as PORT_ENABLE carries them (R193). -/
def enabledBytes (d : Console) (on : Bool) : List Byte := [byteOf d.val, flagByte on]

/-- PORT_ENABLE decided (R156). -/
def State.portEnable (s : State) (c : Console) (o : Option Operator) (d : Console) (on : Bool) : Verdict :=
  .check (firstRefusal [(s.engineer c o s.supervisorSomewhere, .noAuthority)])
    (if s.cfg.enabled[d] = on then .unchanged (enabledBytes d on)
      else .check (firstRefusal [(on || s.consoles[d].session.inCharge.isNone, .inSession)])
        (.accept (s.setEnabled d on) (enabledBytes d on)))

/-- PORT_ENABLE (R156). -/
def execPortEnable (seq : Byte) (who : Acting) (console setting : Byte) (s : State) : Out :=
  request 0x26 seq (do
    let w ← decodeEngineer who
    let d ← decodeNumber 8 console
    let on ← decodeFlag setting
    pure fun s => s.portEnable w.1 w.2 d on) s

end Sys2Proof.Machine
end

