-- ==== Sys2Proof/Machine/Handovers.lean ====
section
/-! DEFINITION. The Handover Unit (chapter 9): standing notes, offers, the review of the item list, accepts, withdrawals and
the two deadlines. -/

namespace Sys2Proof.Machine

/-! ### Standing notes (R158 to R161) -/

/-- A character of a note as stored: a code outside 32 to 126 becomes "?" (R158, R160). -/
def noteCharacter (b : Byte) : Byte := if 32 ≤ b.toNat && b.toNat ≤ 126 then b else 0x3F#8

/-- A note's text as stored (R160). -/
def noteText (text : List Byte) : List Byte := (text.take 48).map noteCharacter

/-- The lowest-numbered empty note slot. -/
def State.lowestFreeNote (s : State) : Option Note := lowestWhere fun n => s.cfg.notes[n].isNone

/-- Who may ask: an authorless request in the commissioning state, or an operator in charge who meets a level of the
area, or whatever else the rule allows (R159, R161). -/
def State.noteActor (s : State) (c : Console) (o : Option Operator) : Result :=
  match o with
  | none => if s.commissioning then none else some .noAuthority
  | some op => s.pairRefusal c op

/-- The level test of a note request; an authorless request has none. -/
def levelTest (o : Option Operator) (meets : Operator → Bool) : Result :=
  match o with
  | none => none
  | some op => if meets op then none else some .levelTooLow

/-- The effects of an accepted NOTE_ENTER, in their order (R160). -/
def State.putNote (s : State) (n : Note) (r : NoteRecord) : State :=
  let t := (s.setNote n (some r)).markAll [.note n]
  ((t.appendItem r.area (.note n)).markAll (s.listRefs r.area)).storeWrite

/-- The note that NOTE_ENTER creates. -/
def State.newNote (s : State) (o : Option Operator) (a : Area) (k : NoteKind) (text : List Byte) : NoteRecord :=
  { area := a, kind := k, text := noteText text, author := o, entryDay := s.day }

/-- NOTE_ENTER decided (R159, R160). -/
def State.enterNote (s : State) (c : Console) (o : Option Operator) (a : Area) (k : NoteKind) (text : List Byte) :
    Verdict :=
  .check (s.noteActor c o) <|
  .check (levelTest o fun op => 2 ≤ s.effectiveLevel op a) <|
  .check (firstRefusal [(!text.isEmpty, .badValue)]) <|
  match s.lowestFreeNote with
  | none => .refuse .notesFull
  | some n => .accept (s.putNote n (s.newNote o a k text)) (byteOf n.val :: noteText text)

/-- A text the frame can hold: at most 249 characters (R193). -/
def decodeText (text : List Byte) : Option (List Byte) := if text.length ≤ 249 then some text else none

/-- NOTE_ENTER (R159). -/
def execNoteEnter (seq : Byte) (who : Acting) (area kind : Byte) (text : List Byte) (s : State) : Out :=
  request 0x36 seq (do
    let w ← decodeEngineer who
    let a ← decodeNumber 12 area
    let k ← decodeNoteKind kind
    let t ← decodeText text
    pure fun s => s.enterNote w.1 w.2 a k t) s

/-- An operator may clear a note: its author, or LEAD in its area (R161 check 4). -/
def State.mayClear (s : State) (r : NoteRecord) (op : Operator) : Bool :=
  r.author == some op || 3 ≤ s.effectiveLevel op r.area

/-- The effects of an accepted NOTE_CLEAR (R161). -/
def State.emptyNote (s : State) (n : Note) : State :=
  (((s.setNote n none).markAll [.note n]).dropItem (.note n)).storeWrite

/-- NOTE_CLEAR decided (R161). -/
def State.clearNote (s : State) (c : Console) (o : Option Operator) (n : Note) : Verdict :=
  .check (s.noteActor c o) <|
  match s.cfg.notes[n] with
  | none => .refuse .alreadyDone
  | some r => .check (levelTest o (s.mayClear r)) (.accept (s.emptyNote n) [byteOf n.val])

/-- NOTE_CLEAR (R161). -/
def execNoteClear (seq : Byte) (who : Acting) (note : Byte) (s : State) : Out :=
  request 0x37 seq (do
    let w ← decodeEngineer who
    let n ← decodeNumber 32 note
    pure fun s => s.clearNote w.1 w.2 n) s

/-! ### The offer (R165 to R167) -/

/-- The order of the ALARM items: priority, then first raised, then point (R167). -/
def Record.itemBefore (x y : Record) : Bool :=
  x.priority.rank < y.priority.rank ||
    (x.priority.rank == y.priority.rank &&
      (x.firstRaised < y.firstRaised || (x.firstRaised == y.firstRaised && x.point < y.point)))

def insertRecord (r : Record) : List Record → List Record
  | [] => [r]
  | x :: xs => if r.itemBefore x then r :: x :: xs else x :: insertRecord r xs

def sortRecords : List Record → List Record
  | [] => []
  | r :: rs => insertRecord r (sortRecords rs)

/-- The live records of the areas a console owns, in the order of the offer. -/
def State.offeredRecords (s : State) (c : Console) : List Record :=
  sortRecords (s.records.filter fun r => s.cfg.areas[r.area].owner == some c)

/-- The notes of the areas a console owns, in note-number order. -/
def State.offeredNotes (s : State) (c : Console) : List Note :=
  numbersWhere fun n => match s.cfg.notes[n] with
    | some r => s.cfg.areas[r.area].owner == some c
    | none => false

def Item.fresh (ref : ItemRef) : Item := { ref := ref, seen := false, late := false }

/-- The item list built at the offer (R167). -/
def State.offerItems (s : State) (c : Console) : List Item :=
  (s.offeredRecords c).map (fun r => Item.fresh (.alarm r.point)) ++
    (s.offeredNotes c).map fun n => Item.fresh (.note n)

/-- The effects of an accepted offer (R166). -/
def State.offer (s : State) (c : Console) (o : Operator) : State :=
  (s.setPhase c (.offered o (s.partTime + 10 * s.cfg.params.offerTime) (s.offerItems c))).markAll
    [.console c, .handover c]

/-- The last two checks of an offer (R165). -/
def State.offerRefusal (s : State) (c : Console) : Result :=
  firstRefusal [(!s.consoles[c].flooded, .flooded), (!(s.ownedAreas c).isEmpty, .nothingToDo)]

/-- The HANDOVER key's effect (R165, R177). -/
def State.handoverKey (s : State) (c : Console) : Effect :=
  match s.attachedAt c with
  | none => Effect.refuse .notStaffed
  | some o =>
    if s.handovers[c].phase.active then Effect.accept (s.abortHandover c .withdrawn)
    else match s.offerRefusal c with
      | some r => Effect.refuse r
      | none => Effect.accept (s.offer c o)

/-- HANDOVER key (R165). -/
def execHandoverKey (console : Console) (s : State) : Out :=
  panelTelegram console (.key .handover) (fun s => s.handoverKey console) s

/-- HANDOVER_OFFER decided (R165, R166). -/
def State.offerNamed (s : State) (c : Console) (o : Operator) : Verdict :=
  .check (s.pairRefusal c o) <|
  .check (firstRefusal [(!s.handovers[c].phase.active, .handoverBusy)]) <|
  .check (s.offerRefusal c) (.accept (s.offer c o) [])

/-- HANDOVER_OFFER (R165). -/
def execHandoverOffer (seq : Byte) (who : Acting) (s : State) : Out :=
  onPerson 0x38 seq who (fun c o s => s.offerNamed c o) s

/-- HANDOVER_WITHDRAW decided (R177). -/
def State.withdraw (s : State) (c : Console) (o : Operator) : Verdict :=
  .check (s.pairRefusal c o) <|
  .check (firstRefusal [(s.handovers[c].phase.active, .wrongState)]) (.accept (s.abortHandover c .withdrawn) [])

/-- HANDOVER_WITHDRAW (R177). -/
def execHandoverWithdraw (seq : Byte) (who : Acting) (s : State) : Out :=
  onPerson 0x3B seq who (fun c o s => s.withdraw c o) s

/-- OFFER_DEADLINE (R169). -/
def execOfferDeadline (console : Console) (s : State) : Out :=
  match s.handovers[console].phase with
  | .offered _ t _ => timed s (t ≤ s.partTime) (s.abortHandover console .lapsedOffer)
  | _ => .next s

/-- REVIEW_DEADLINE (R178). -/
def execReviewDeadline (console : Console) (s : State) : Out :=
  match s.handovers[console].phase with
  | .review _ _ t _ => timed s (t ≤ s.partTime) (s.abortHandover console .lapsedReview)
  | _ => .next s

/-! ### Review (R170, R171) -/

/-- The first unseen item of a list. -/
def Phase.firstUnseen (p : Phase) : Option Item := p.items.find? fun it => !it.seen

/-- An item is marked seen. -/
def State.markSeen (s : State) (c : Console) (ref : ItemRef) : State :=
  (s.setPhase c (s.handovers[c].phase.setSeen ref true)).markAll [.handover c]

/-- The SEEN key's effect (R170). -/
def State.seenKey (s : State) (c : Console) : Effect :=
  if s.handovers[c].phase.inReview then
    match s.handovers[c].phase.firstUnseen with
    | some it => Effect.accept (s.markSeen c it.ref)
    | none => Effect.refuse .nothingToDo
  else Effect.refuse .wrongState

/-- SEEN key (R170). -/
def execSeenKey (console : Console) (s : State) : Out :=
  panelTelegram console (.key .seen) (fun s => s.seenKey console) s

/-- HANDOVER_SEEN decided (R171). -/
def State.seenNamed (s : State) (c : Console) (o : Operator) (ref : ItemRef) : Verdict :=
  let p := s.handovers[c].phase
  .check (firstRefusal
    [(p.inReview, .wrongState), (p.incoming == some o, .notInCharge), (p.holds ref, .badValue),
      (p.items.any fun it => it.ref == ref && !it.seen, .alreadyDone)])
    (.accept (s.markSeen c ref) [])

/-- HANDOVER_SEEN (R171). -/
def execHandoverSeen (seq : Byte) (who : Acting) (kind number : Byte) (s : State) : Out :=
  request 0x39 seq (do
    let w ← decodePerson who
    let r ← decodeItem kind number
    pure fun s => s.seenNamed w.1 w.2 r) s

/-! ### Accept (R174, R175) -/

/-- The last three checks of an accept (R174). -/
def State.acceptRefusal (s : State) (c : Console) (incoming : Operator) : Result :=
  firstRefusal
    [(s.handovers[c].phase.unseen == 0, .itemsUnseen), (!s.consoles[c].flooded, .flooded),
      (s.qualifies incoming c, .notQualified)]

/-- The OPERATOR references of two slots, by number. -/
def operatorRefs (x y : Operator) : List Ref := (numbersWhere fun o => o == x || o == y).map Ref.operator

/-- The effects of an accepted accept, in their order (R175). -/
def State.acceptDesk (s : State) (c : Console) (outgoing incoming : Operator) : State :=
  let t := s.setConsole c fun k => { k with session := .attached incoming, lastEnd := some .handedOver }
  let u := { t with handovers := upd t.handovers c fun _ => { phase := .none, lastOutcome := some .accepted } }
  (u.requalify [c]).markAll (Ref.console c :: operatorRefs outgoing incoming ++ [Ref.handover c])

/-- The ACCEPT key's effect (R174, R175). -/
def State.acceptKey (s : State) (c : Console) : Effect :=
  match s.handovers[c].phase with
  | .review outgoing incoming _ _ =>
    match s.acceptRefusal c incoming with
    | some r => Effect.refuse r
    | none => Effect.accept (s.acceptDesk c outgoing incoming)
  | _ => Effect.refuse .wrongState

/-- ACCEPT key (R174). -/
def execAcceptKey (console : Console) (s : State) : Out :=
  panelTelegram console (.key .accept) (fun s => s.acceptKey console) s

/-- HANDOVER_ACCEPT decided (R174, R175). -/
def State.acceptNamed (s : State) (c : Console) (o : Operator) : Verdict :=
  match s.handovers[c].phase with
  | .review outgoing incoming _ _ =>
    .check (firstRefusal [(incoming == o, .notInCharge)]) <|
    .check (s.acceptRefusal c incoming) (.accept (s.acceptDesk c outgoing incoming) [])
  | _ => .refuse .wrongState

/-- HANDOVER_ACCEPT (R174). -/
def execHandoverAccept (seq : Byte) (who : Acting) (s : State) : Out :=
  onPerson 0x3A seq who (fun c o s => s.acceptNamed c o) s

end Sys2Proof.Machine
end

