-- ==== Sys2Proof/Machine/Params.lean ====
section
/-! DEFINITION. PARAM_WRITE (R187): each owner's check of the values (R84, R102, R136, R164, R30) and what a new value does at
once (R84, R136). -/

namespace Sys2Proof.Machine

/-- T1 and T2 are acceptable (R83, R84). -/
def EscalationTimes.valid (x : EscalationTimes) : Bool :=
  x.t1 ≤ 7200 && x.t2 ≤ 7200 && (x.t1 == 0 || x.t2 == 0 || x.t1 < x.t2)

/-- The OFF stored with an ON: halved ON where OFF is not below it (R102). -/
def floodOffStored (high low : Nat) : Nat := if low < high then low else high / 2

/-- A window period is 10 to 100 tenths of a second in steps of 5 (R136). -/
def validWindow (w : Nat) : Bool := 10 ≤ w && w ≤ 100 && w % 5 == 0

def validLocked (x : Nat) : Bool := x == 0 || x == 25 || x == 50

def validFailLimit (x : Nat) : Bool := 4 ≤ x && x ≤ 16

def validGrace (x : Nat) : Bool := 30 ≤ x && x ≤ 600

def validOffer (x : Nat) : Bool := 60 ≤ x && x ≤ 1800

def validReview (x : Nat) : Bool := 120 ≤ x && x ≤ 3600

def validBlank (x : Nat) : Bool := 1 ≤ x && x ≤ 600

/-- The parameters with one parameter's values written, or none where its owner refuses them BAD_VALUE (R187). The
second value is read only for a pair (R193). -/
def Params.write (p : Params) (which : Parameter) (x y : Nat) : Option Params :=
  match which with
  | .escalation i =>
    if (EscalationTimes.mk x y).valid then some { p with escalation := p.escalation.set i.val ⟨x, y⟩ i.isLt } else none
  | .floodThresholds => if 256 ≤ x then some { p with floodOn := x, floodOff := floodOffStored x y } else none
  | .windowPeriod => if validWindow x then some { p with window := x } else none
  | .lockedFraction => if validLocked x then some { p with lockedPercent := x } else none
  | .failLimit => if validFailLimit x then some { p with failLimit := x } else none
  | .graceTime => if validGrace x then some { p with graceTime := x } else none
  | .offerTime => if validOffer x then some { p with offerTime := x } else none
  | .reviewTime => if validReview x then some { p with reviewTime := x } else none
  | .blankTime g => if validBlank x then some { p with blankTime := p.blankTime.set g.val x g.isLt } else none

/-- A record under newly written times: the stage deadlines it has already passed are reached at once (R84, R86,
R87). -/
def Params.advance (p : Params) (now : Nat) (r : Record) : Record :=
  if reached now (escalationDeadline p r) then r.escalate
  else if reached now (reminderDeadline p r) then r.remind else r

/-- A new pair of escalation times acts on the records of its priority (R84). -/
def State.retime (s : State) (i : Fin 4) : State :=
  s.mapRecords fun r => if r.priority.index = i then s.cfg.params.advance s.partTime r else r

/-- A count above a fail limit plus one is lowered to it (R136). -/
def ConsoleRecord.capped (limit : Nat) (k : ConsoleRecord) : ConsoleRecord :=
  { k with count := min k.count (limit + 1) }

/-- Every enabled console's count is lowered to the new fail limit plus one (R136). -/
def State.capCounts (s : State) : State :=
  { s with consoles := s.consoles.map (ConsoleRecord.capped s.cfg.params.failLimit) }.markAll
    ((numbersWhere fun c => s.cfg.params.failLimit + 1 < s.consoles[c].count).map Ref.console)

/-- The UP consoles whose count is at or above the fail limit. -/
def State.failing (s : State) : List Console :=
  numbersWhere fun c => s.linkUp c && s.cfg.params.failLimit ≤ s.consoles[c].count

/-- A new fail limit acts on every console (R136, R140, R141). Where it takes several consoles to LOST, each in turn, by
number, goes LOST with steps 1 and 2 of R141 and their marks, and routing is re-evaluated once after the last: no rule
names an order among consoles, and this one is the model's choice (log entry 15). -/
def State.relimit (s : State) : State :=
  let t := s.capCounts
  if t.failing.isEmpty then t else (t.failing.foldl State.loseLink t).rerouteStep

/-- What a written parameter does within the request. -/
def State.takeParams (s : State) (which : Parameter) (p : Params) : State :=
  let t := s.setParams p
  match which with
  | .escalation i => t.retime i
  | .failLimit => t.relimit
  | _ => t

/-- PARAM_WRITE decided (R187). -/
def State.writeParam (s : State) (c : Console) (o : Option Operator) (which : Parameter) (x y : Nat) : Verdict :=
  .check (firstRefusal [(s.engineer c o s.supervisorSomewhere, .noAuthority)]) <|
  match s.cfg.params.write which x y with
  | none => .refuse .badValue
  | some p =>
    if p = s.cfg.params then .unchanged (p.data which)
    else .accept ((s.takeParams which p).storeWrite) (p.data which)

/-- PARAM_WRITE (R187). -/
def execParamWrite (seq : Byte) (who : Acting) (parameter : Byte) (first second : Half) (s : State) : Out :=
  request 0x25 seq (do
    let w ← decodeEngineer who
    let p ← decodeParameter parameter
    pure fun s => s.writeParam w.1 w.2 p first.toNat second.toNat) s

end Sys2Proof.Machine
end

