-- ==== Sys2Proof/Machine/Link.lean ====
section
/-! DEFINITION. The frame receivers and the exchange on the plant link (R180 to R182): frame starts, discards, the frame time,
the busy line, undefined requests, the end gap and the end of an answer. -/

namespace Sys2Proof.Machine

/-! ### Receivers by name -/

def State.receiver (s : State) : Rx → Receiver
  | .plant => s.plantRx
  | .port c => s.portRx[c]

def State.setReceiver (s : State) (rx : Rx) (f : Receiver → Receiver) : State :=
  match rx with
  | .plant => { s with plantRx := f s.plantRx }
  | .port c => { s with portRx := upd s.portRx c f }

/-- A receiver takes part in its line: the module has power, and a console port is not OFF (R180). -/
def State.listens (s : State) : Rx → Bool
  | .plant => s.powered
  | .port c => s.powered && s.consoles[c].link != .off

/-- A frame on this line falls while a request is in hand: the plant link alone has such a time (R181). -/
def State.lineBusy (s : State) : Rx → Bool
  | .plant => s.inHand.isSome
  | .port _ => false

/-- The frame time of a receiver, in microseconds: 50 ms on the plant link, 100 ms on a console port (R180). -/
def frameTimeOf : Rx → Nat
  | .plant => 50000
  | .port _ => 100000

/-! ### The steps -/

/-- A frame starts: RECEIVING, its start stamped on the line clock (R180). -/
def Receiver.begin (r : Receiver) (clock : Nat) : Receiver :=
  { r with mode := .receiving clock, clock := clock }

/-- A frame is discarded and counted (R180). -/
def Receiver.discard (r : Receiver) (mode : RxMode) : Receiver :=
  { r with mode := mode, discards := counted r.discards }

/-- FRAME_START (R180): a sync byte in HUNTING. Inside a frame it is data, on an ignored line it is ignored, and while a
request is in hand it starts no frame (R181). -/
def execFrameStart (rx : Rx) (clock : Nat) (s : State) : Out :=
  if s.listens rx && (s.receiver rx).mode == .hunting then
    if s.lineBusy rx then .next s.busyFrame else .next (s.setReceiver rx fun r => r.begin clock)
  else .next s

/-- FRAME_DISCARDED (R180): bytes that are no good frame, judged at the end gap; the receiver hunts again. A frame
that is good is not discarded, and a busy or ignored line judges none. -/
def execFrameDiscarded (rx : Rx) (bytes : List Byte) (s : State) : Out :=
  if s.listens rx && !Frame.good bytes && (s.receiver rx).mode != .ignoring then
    if s.lineBusy rx then .next s.busyFrame else .next (s.setReceiver rx fun r => r.discard .hunting)
  else .next s

/-- FRAME_TIME (R180): the line clock has run for the frame time since the frame's start. -/
def execFrameTime (rx : Rx) (clock : Nat) (s : State) : Out :=
  match (s.receiver rx).mode with
  | .receiving start =>
    if s.listens rx && start + frameTimeOf rx ≤ clock then
      .next (s.setReceiver rx fun r => { r.discard .ignoring with clock := clock })
    else .next s
  | _ => .next s

/-- BUSY_DISCARD (R181): a frame that starts while a request is in hand. -/
def execBusyDiscard (s : State) : Out :=
  if s.powered && s.inHand.isSome then .next s.busyFrame else .next s

/-- The request code and the sequence number echoed for a body, 0 where it is too short to hold them (R182). -/
def echoed (body : List Byte) : Byte × Byte := (body.headD 0, body.tail.headD 0)

/-- UNDEFINED_REQUEST (R182): a good frame whose body is no request the module defines. -/
def execUndefinedRequest (body : List Byte) (s : State) : Out :=
  match decodeBody body with
  | some _ => .next s
  | none => request (echoed body).1 (echoed body).2 none s

/-- IDLE_END_GAP (R180, R181): an ignoring receiver hunts again. -/
def execIdleEndGap (rx : Rx) (s : State) : Out :=
  if s.listens rx && (s.receiver rx).mode == .ignoring then
    .next (s.setReceiver rx fun r => { r with mode := .hunting })
  else .next s

/-- The end of an exchange: no request is in hand, and no store write goes with one (R181, R189). -/
def State.released (s : State) : State :=
  { s with inHand := none, store := { s.store with writing := none } }

/-- ANSWER_SENT (R181). -/
def execAnswerSent (s : State) : Out :=
  if s.powered then .next s.released else .next s

end Sys2Proof.Machine
end

