-- ==== Sys2Proof/Machine/ColdStart.lean ====
section
/-! DEFINITION. Cold start (R190, R191) and the loss of the supply (R189): the choice of the stored copy, the corrections of
each block as it loads its part, and the start of the volatile state. -/

namespace Sys2Proof.Machine

/-! ### The copy loaded (R188, R190) -/

/-- The copy of two good ones that is loaded: the higher generation, or A when they are equal. -/
def newerCopy (x y : StoredCopy) : StoredCopy :=
  if x.generation = y.generation || generationHigher x.generation y.generation then x else y

/-- The copy loaded at cold start, none for the store-lost path. -/
def Store.chosen (st : Store) : Option StoredCopy :=
  match st.copyA, st.copyB with
  | some x, some y => some (newerCopy x y)
  | some x, none => some x
  | none, y => y

/-! ### Corrections (R83, R102, R136, R164) -/

/-- A pair of escalation times as loaded: each value at most 7,200, then the defaults for a pair out of order. -/
def EscalationTimes.loaded (x dflt : EscalationTimes) : EscalationTimes :=
  let y : EscalationTimes := { t1 := min x.t1 7200, t2 := min x.t2 7200 }
  if y.valid then y else dflt

/-- A value that PARAM_WRITE would refuse is loaded as its default. -/
def orDefault (valid : Nat → Bool) (x dflt : Nat) : Nat := if valid x then x else dflt

/-- The parameters as loaded. The model's choice (log entry 22): OFF is compared with ON as loaded, and halved from it;
R102 does not say whether the comparison takes the stored ON where that is below 256. -/
def Params.loaded (p : Params) : Params :=
  let d := Params.default
  { escalation := Vector.ofFn fun i => (p.escalation[i]).loaded d.escalation[i]
    floodOn := max 256 p.floodOn
    floodOff := floodOffStored (max 256 p.floodOn) p.floodOff
    window := orDefault validWindow p.window d.window
    lockedPercent := orDefault validLocked p.lockedPercent d.lockedPercent
    failLimit := orDefault validFailLimit p.failLimit d.failLimit
    graceTime := orDefault validGrace p.graceTime d.graceTime
    offerTime := orDefault validOffer p.offerTime d.offerTime
    reviewTime := orDefault validReview p.reviewTime d.reviewTime
    blankTime := p.blankTime }

/-! ### Corrections of the roster (R117), the areas (R1) and the points (R23) -/

/-- A lower-numbered slot of the image holds the same badge. -/
def badgeTaken (roster : Vector (Option OperatorRecord) 48) (o : Operator) (b : Badge) : Bool :=
  (List.finRange 48).any fun q => q < o && match roster[q] with
    | some r => r.badge == b
    | none => false

/-- A roster slot as loaded. -/
def loadOperator (roster : Vector (Option OperatorRecord) 48) (o : Operator) : Option OperatorRecord :=
  match roster[o] with
  | none => none
  | some r =>
    if r.badge == 0 || badgeTaken roster o r.badge then none
    else some { r with expiry := if r.expiry = some 0 then none else r.expiry }

/-- An area record as loaded. -/
def AreaConfig.loaded (x : AreaConfig) : AreaConfig :=
  { owner := x.owner
    fallback := if x.fallback = x.owner then none else x.fallback
    ackLevel := max 2 x.ackLevel
    shelveLevel := max 3 x.shelveLevel
    resetLevel := max 2 x.resetLevel }

/-- A lower-numbered point of the image is bound to the same line. -/
def lineTaken (points : Vector PointConfig 256) (p : Point) : Bool :=
  match points[p].use with
  | .line l => (List.finRange 256).any fun q => q < p && points[q].use == .line l
  | _ => false

/-- A point configuration as loaded. -/
def loadPoint (points : Vector PointConfig 256) (p : Point) : PointConfig :=
  let c := points[p]
  { (c.corrected) with
    use := if lineTaken points p then .unused else c.use
    maxShelf := max 1 (min 480 c.maxShelf) }

/-! ### Corrections of the notes (R158) -/

/-- The author as loaded: absent when its slot of the loaded roster is empty. -/
def loadAuthor (roster : Vector (Option OperatorRecord) 48) (author : Option Operator) : Option Operator :=
  match author with
  | some o => if roster[o].isSome then some o else none
  | none => none

/-- A note slot as loaded, with the roster as loaded. -/
def loadNote (roster : Vector (Option OperatorRecord) 48) (n : Option NoteRecord) : Option NoteRecord :=
  match n with
  | none => none
  | some r =>
    if r.text.isEmpty then none
    else some { r with text := r.text.map noteCharacter, author := loadAuthor roster r.author }

/-! ### The load -/

/-- The contents of the blocks as loaded from an image (R190). -/
def Settings.loaded (m : Settings) : Settings :=
  let roster := Vector.ofFn (loadOperator m.roster)
  { points := Vector.ofFn (loadPoint m.points)
    lines := m.lines
    areas := m.areas.map AreaConfig.loaded
    roster := roster
    notes := m.notes.map (loadNote roster)
    params := m.params.loaded
    enabled := m.enabled }

/-- The references that the corrections mark, in loading order (R190): roster, areas, points, notes. -/
def Settings.correctionRefs (m : Settings) : List Ref :=
  let l := m.loaded
  (numbersWhere fun o => l.roster[o] != m.roster[o]).map Ref.operator ++
    (numbersWhere fun a => l.areas[a] != m.areas[a]).map Ref.area ++
    (numbersWhere fun p => l.points[p] != m.points[p]).map Ref.point ++
    (numbersWhere fun n => l.notes[n] != m.notes[n]).map Ref.note

/-- A line after its first measurement (R36). -/
def LineConfig.measured (cfg : LineConfig) (ohms : Nat) : LineLive :=
  { band := bandOf ohms, candidate := cfg.read (bandOf ohms), appeared := 0, qualified := .normal }

/-- The contents that a load leaves in the blocks: the image corrected, or the defaults (R191). -/
def Store.contents (st : Store) : Settings :=
  match st.chosen with
  | some c => c.image.loaded
  | none => Settings.default

/-- The change set as the load leaves it (R183). -/
def Store.loadRefs (st : Store) : List Ref :=
  match st.chosen with
  | some c => addRefs Ref.consoles c.image.correctionRefs
  | none => Ref.consoles

/-- The Settings Store after its check at cold start (R190, R191). -/
def Store.started (st : Store) : Store :=
  { copyA := st.copyA
    copyB := st.copyB
    generation := match st.chosen with
      | some c => c.generation
      | none => 0
    storeFault := false
    storeLost := st.chosen.isNone
    writing := none }

/-- Every block's state after a load from a checked store (R36, R60, R98, R99, R119, R135, R163, R180, R183, R184,
R190). The pins, the line clocks, the waiting commands and the count of draws are not the module's to set. -/
def State.started (s : State) (st : Store) : State :=
  let cfg := st.contents
  { powered := true
    partTime := 0
    loops := s.loops
    cfg := cfg
    lines := Vector.ofFn fun l => (cfg.lines[l]).measured s.loops[l]
    blankEnds := Vector.replicate 4 none
    live := Vector.replicate 64 none
    waiting := []
    routes := Vector.replicate 12 none
    relay := false
    day := 0
    consoles := cfg.enabled.map ConsoleRecord.start
    handovers := Vector.replicate 8 Handover.start
    changeSet := st.loadRefs
    attention := true
    lastBatch := none
    plantRx := Receiver.start s.plantRx.clock
    portRx := s.portRx.map fun r => Receiver.start r.clock
    busy := 0
    inHand := none
    store := st.started
    draws := s.draws
    pending := s.pending }

/-- COLD_START (R190): power-up, a reset pulse, or the end of part time. A store write in progress leaves the copy
being written without a good check (R189). -/
def execColdStart (midWrite : Bool) (s : State) : Out :=
  .next (s.started (s.store.cutOff midWrite))

/-- The module without its supply: the relay is released, the attention output is off, and a copy being written is
left without a good check (R96, R184, R189). -/
def State.unpowered (s : State) (midWrite : Bool) : State :=
  { s with powered := false, relay := false, attention := false, store := s.store.cutOff midWrite }

/-- POWER_LOSS (R189). -/
def execPowerLoss (midWrite : Bool) (s : State) : Out :=
  .next (s.unpowered midWrite)

end Sys2Proof.Machine
end

