-- ==== Sys2Proof/Machine/Dispatch.lean ====
section
/-! DEFINITION. exec: one arm for each command, each one call of its meaning. -/

namespace Sys2Proof.Machine

def exec (i : Instr) (s : State) : Host.Outcome State Fault Refusal :=
  match i with
  | .coldStart midWrite => Sys2Proof.Machine.execColdStart midWrite s
  | .bandChange line ohms => Sys2Proof.Machine.execBandChange line ohms s
  | .qualificationDeadline line => Sys2Proof.Machine.execQualificationDeadline line s
  | .blankEnd group => Sys2Proof.Machine.execBlankEnd group s
  | .shelfExpiry point => Sys2Proof.Machine.execShelfExpiry point s
  | .reminderDeadline point => Sys2Proof.Machine.execReminderDeadline point s
  | .escalationDeadline point => Sys2Proof.Machine.execEscalationDeadline point s
  | .secondsEnd console => Sys2Proof.Machine.execSecondsEnd console s
  | .windowEnd console => Sys2Proof.Machine.execWindowEnd console s
  | .graceEnd console => Sys2Proof.Machine.execGraceEnd console s
  | .offerDeadline console => Sys2Proof.Machine.execOfferDeadline console s
  | .reviewDeadline console => Sys2Proof.Machine.execReviewDeadline console s
  | .frameDiscarded rx bytes => Sys2Proof.Machine.execFrameDiscarded rx bytes s
  | .frameTime rx clock => Sys2Proof.Machine.execFrameTime rx clock s
  | .busyDiscard => Sys2Proof.Machine.execBusyDiscard s
  | .undefinedRequest body => Sys2Proof.Machine.execUndefinedRequest body s
  | .telegramSent console => Sys2Proof.Machine.execTelegramSent console s
  | .heartbeat console report => Sys2Proof.Machine.execHeartbeat console report s
  | .undefinedTelegram console body => Sys2Proof.Machine.execUndefinedTelegram console body s
  | .ackKey console => Sys2Proof.Machine.execAckKey console s
  | .silenceKey console => Sys2Proof.Machine.execSilenceKey console s
  | .resetKey console => Sys2Proof.Machine.execResetKey console s
  | .handoverKey console => Sys2Proof.Machine.execHandoverKey console s
  | .seenKey console => Sys2Proof.Machine.execSeenKey console s
  | .acceptKey console => Sys2Proof.Machine.execAcceptKey console s
  | .signOutKey console => Sys2Proof.Machine.execSignOutKey console s
  | .badge console number => Sys2Proof.Machine.execBadge console number s
  | .raise seq point => Sys2Proof.Machine.execRaise seq point s
  | .clear seq point => Sys2Proof.Machine.execClear seq point s
  | .ack seq who point => Sys2Proof.Machine.execAck seq who point s
  | .resetHeld seq who point => Sys2Proof.Machine.execResetHeld seq who point s
  | .shelve seq who point minutes => Sys2Proof.Machine.execShelve seq who point minutes s
  | .unshelve seq who point => Sys2Proof.Machine.execUnshelve seq who point s
  | .pointWrite seq who point use line area priority cls shelvable maxShelf => Sys2Proof.Machine.execPointWrite seq who point use line area priority cls shelvable maxShelf s
  | .lineWrite seq who line sense supervised filter group => Sys2Proof.Machine.execLineWrite seq who line sense supervised filter group s
  | .blankGroup seq who group => Sys2Proof.Machine.execBlankGroup seq who group s
  | .readLine seq line => Sys2Proof.Machine.execReadLine seq line s
  | .areaWrite seq who area ackLevel shelveLevel resetLevel => Sys2Proof.Machine.execAreaWrite seq who area ackLevel shelveLevel resetLevel s
  | .moveArea seq who area owner fallback => Sys2Proof.Machine.execMoveArea seq who area owner fallback s
  | .readArea seq area => Sys2Proof.Machine.execReadArea seq area s
  | .readRecord seq slot => Sys2Proof.Machine.execReadRecord seq slot s
  | .readPoint seq point => Sys2Proof.Machine.execReadPoint seq point s
  | .setDay seq day => Sys2Proof.Machine.execSetDay seq day s
  | .rosterWrite seq who slot badge grants expiry => Sys2Proof.Machine.execRosterWrite seq who slot badge grants expiry s
  | .rosterSuspend seq who slot => Sys2Proof.Machine.execRosterSuspend seq who slot s
  | .rosterRestore seq who slot => Sys2Proof.Machine.execRosterRestore seq who slot s
  | .rosterRetire seq who slot => Sys2Proof.Machine.execRosterRetire seq who slot s
  | .readOperator seq slot => Sys2Proof.Machine.execReadOperator seq slot s
  | .signOut seq who => Sys2Proof.Machine.execSignOut seq who s
  | .forceSignOut seq who target => Sys2Proof.Machine.execForceSignOut seq who target s
  | .portRestart seq who console => Sys2Proof.Machine.execPortRestart seq who console s
  | .portEnable seq who console setting => Sys2Proof.Machine.execPortEnable seq who console setting s
  | .readConsole seq console => Sys2Proof.Machine.execReadConsole seq console s
  | .noteEnter seq who area kind text => Sys2Proof.Machine.execNoteEnter seq who area kind text s
  | .noteClear seq who note => Sys2Proof.Machine.execNoteClear seq who note s
  | .readNote seq note => Sys2Proof.Machine.execReadNote seq note s
  | .handoverOffer seq who => Sys2Proof.Machine.execHandoverOffer seq who s
  | .handoverSeen seq who kind number => Sys2Proof.Machine.execHandoverSeen seq who kind number s
  | .handoverAccept seq who => Sys2Proof.Machine.execHandoverAccept seq who s
  | .handoverWithdraw seq who => Sys2Proof.Machine.execHandoverWithdraw seq who s
  | .readHandover seq console page => Sys2Proof.Machine.execReadHandover seq console page s
  | .readChanges seq => Sys2Proof.Machine.execReadChanges seq s
  | .readStatus seq => Sys2Proof.Machine.execReadStatus seq s
  | .paramWrite seq who parameter first second => Sys2Proof.Machine.execParamWrite seq who parameter first second s
  | .readParam seq parameter => Sys2Proof.Machine.execReadParam seq parameter s
  | .frameStart rx clock => Sys2Proof.Machine.execFrameStart rx clock s
  | .idleEndGap rx => Sys2Proof.Machine.execIdleEndGap rx s
  | .answerSent => Sys2Proof.Machine.execAnswerSent s
  | .powerLoss midWrite => Sys2Proof.Machine.execPowerLoss midWrite s

end Sys2Proof.Machine
end

