-- ==== Sys2Proof/Machine/Step.lean ====
section
/-! DEFINITION. One step of the module: the command at the front of the queue, or, when none waits, one tick of part time with
the deadlines that fall due at it. -/

namespace Sys2Proof.Machine

/-! ### A tick of part time (log entry 6) -/

/-- A record's shelf has run out. -/
def Record.shelfOver (r : Record) (now : Nat) : Bool := r.state == .shelved && reached now r.shelfEnd

/-- The points of the live records that meet a test, in slot order. -/
def State.pointsOf (s : State) (p : Record → Bool) : List Point := (s.records.filter p).map Record.point

/-- A heartbeat window has ended. -/
def Link.windowOver (l : Link) (now : Nat) : Bool :=
  match l.window with
  | some w => w.finish ≤ now
  | none => false

/-- An offer's deadline, where one stands. -/
def Phase.offerDeadline : Phase → Option Nat
  | .offered _ t _ => some t
  | _ => Option.none

/-- A review's deadline, where one stands. -/
def Phase.reviewDeadline : Phase → Option Nat
  | .review _ _ t _ => some t
  | _ => Option.none

/-- The commands whose deadlines part time has reached, in the order of the table. -/
def State.dueCommands (s : State) : List Instr :=
  (numbersWhere fun l => reached s.partTime (qualificationDeadline s.cfg.lines[l] s.lines[l])).map
      Instr.qualificationDeadline ++
    (numbersWhere fun g => reached s.partTime s.blankEnds[g]).map Instr.blankEnd ++
    (s.pointsOf (·.shelfOver s.partTime)).map Instr.shelfExpiry ++
    (s.pointsOf fun r => reached s.partTime (reminderDeadline s.cfg.params r)).map Instr.reminderDeadline ++
    (s.pointsOf fun r => reached s.partTime (escalationDeadline s.cfg.params r)).map Instr.escalationDeadline ++
    (numbersWhere fun c => s.partTime % 10 == 0 && s.consoles[c].secondTaken < s.partTime).map Instr.secondsEnd ++
    (numbersWhere fun c => s.consoles[c].link.windowOver s.partTime).map Instr.windowEnd ++
    (numbersWhere fun c => reached s.partTime s.consoles[c].session.graceEnd).map Instr.graceEnd ++
    (numbersWhere fun c => reached s.partTime s.handovers[c].phase.offerDeadline).map Instr.offerDeadline ++
    (numbersWhere fun c => reached s.partTime s.handovers[c].phase.reviewDeadline).map Instr.reviewDeadline

/-- Insert a ranked command: the lower rank first, an equal rank behind. -/
def insertRanked (x : Nat × Instr) : List (Nat × Instr) → List (Nat × Instr)
  | [] => [x]
  | y :: ys => if x.1 < y.1 then x :: y :: ys else y :: insertRanked x ys

/-- Put ranks on a list of commands, from a place on. -/
def rankFrom (draw : Nat) : Nat → List Instr → List (Nat × Instr)
  | _, [] => []
  | k, i :: is => (Config.dueRank draw k, i) :: rankFrom draw (k + 1) is

/-- The commands in the order of their ranks: the order among deadlines that fall due together is free. -/
def freeOrder (draw : Nat) (l : List Instr) : List Instr :=
  ((rankFrom draw 0 l).foldl (fun acc x => insertRanked x acc) []).map Prod.snd

/-- The highest part time a four-byte count holds. -/
def lastTick : Nat := 4294967295

/-- Part time is one tick further, and the commands that fall due wait in a free order. -/
def State.ticked (s : State) : State :=
  let t := { s with partTime := s.partTime + 1 }
  { t with pending := freeOrder t.draws t.dueCommands, draws := t.draws + 1 }

/-- The end of part time: a cold start waits. Whether it cuts off a store write of the request in hand is a free value
(log entries 6 and 13). -/
def State.timeOver (s : State) : State :=
  { s with pending := [.coldStart (Config.endOfTimeCutsWrite s.draws)], draws := s.draws + 1 }

/-- A tick on an empty queue: nothing without power; a cold start in place of passing the last tick. -/
def State.tick (s : State) : State :=
  if !s.powered then s
  else if lastTick ≤ s.partTime then s.timeOver
  else s.ticked

/-- One step. -/
def step (s : State) : Host.Outcome State Fault Refusal :=
  match s.pending with
  | [] => .next s.tick
  | c :: rest => exec c { s with pending := rest }

/-- The command a table word spells, put at the front of the queue; the table gives no bits, so none is. -/
def State.withFetchWord (s : State) (nbits w : Nat) : State :=
  match decodeTableWord nbits w with
  | some c => { s with pending := c :: s.pending }
  | none => s

end Sys2Proof.Machine
end

