-- ==== Sys2Proof/Safety.lean ====
section
/-! DEFINITION. What claims about the NSC-8 are stated in: the parts of the state (for frames), the shape of an
answered request, and the laws that the manual says the device keeps. -/

namespace Sys2Proof.Machine

/-! ### Parts of the state and frames -/

/-- The parts of the state that a step can change or leave. -/
inductive Part where
  | supply
  | time
  | loops
  | settings
  | lines
  | blanking
  | table
  | queue
  | routes
  | relay
  | day
  | links
  | sessions
  | flags
  | results
  | telegrams
  | loads
  | horns
  | handovers
  | changes
  | batch
  | plantReceiver
  | portReceivers
  | busyCount
  | exchange
  | store
  | draws
  | commands
deriving DecidableEq, Repr

/-- A field of every console record is the same in two states. -/
def sameAt {α : Type} (f : ConsoleRecord → α) (s t : State) : Prop :=
  ∀ c : Console, f t.consoles[c] = f s.consoles[c]

/-- A part of the state is the same in two states. -/
def State.same (s t : State) : Part → Prop
  | .supply => t.powered = s.powered
  | .time => t.partTime = s.partTime
  | .loops => t.loops = s.loops
  | .settings => t.cfg = s.cfg
  | .lines => t.lines = s.lines
  | .blanking => t.blankEnds = s.blankEnds
  | .table => t.live = s.live
  | .queue => t.waiting = s.waiting
  | .routes => t.routes = s.routes
  | .relay => t.relay = s.relay
  | .day => t.day = s.day
  | .links => sameAt (fun k => (k.link, k.count)) s t
  | .sessions => sameAt (fun k => (k.session, k.lastEnd)) s t
  | .flags => sameAt (fun k => (k.hornFault, k.underQualified)) s t
  | .results => sameAt (fun k => (k.resultNumber, k.lastResult)) s t
  | .telegrams => sameAt (fun k => (k.inFlight, k.pendingTelegram)) s t
  | .loads => sameAt (fun k => (k.load, k.flooded, k.secondSum, k.secondTaken)) s t
  | .horns => sameAt (fun k => k.pattern) s t
  | .handovers => t.handovers = s.handovers
  | .changes => t.changeSet = s.changeSet ∧ t.attention = s.attention
  | .batch => t.lastBatch = s.lastBatch
  | .plantReceiver => t.plantRx = s.plantRx
  | .portReceivers => t.portRx = s.portRx
  | .busyCount => t.busy = s.busy
  | .exchange => t.inHand = s.inHand
  | .store => t.store = s.store
  | .draws => t.draws = s.draws
  | .commands => t.pending = s.pending

/-- A step from s to t has changed no part but those listed. -/
def changesOnly (s t : State) (l : List Part) : Prop := ∀ p, p ∉ l → s.same t p

/-- The parts that the end of every event derives afresh: horns, relay, change set, panel telegrams (R93, R97, R183,
R144). -/
def derivedParts : List Part := [.relay, .horns, .telegrams, .changes]

/-- The parts that taking and answering a request touches (R181, R182). -/
def linkParts : List Part := [.plantReceiver, .exchange]

/-- The parts that a store write touches (R188, R189). -/
def storeParts : List Part := [.settings, .store, .draws]

/-- The parts that taking a key or a badge touches, with those of the end of its event (R147). -/
def panelParts : List Part := [.portReceivers, .results] ++ derivedParts

/-- A field of every console record but one is the same. -/
def otherConsolesSame {α : Type} (f : ConsoleRecord → α) (s t : State) (c : Console) : Prop :=
  ∀ d : Console, d ≠ c → f t.consoles[d] = f s.consoles[d]

/-- A request has been answered, with the store flags as they stand after it, and the receiver hunts again (R180,
R182). -/
def answered (s t : State) (code seq : Byte) (result : Result) (data : List Byte) : Prop :=
  t.plantRx = { s.plantRx with mode := .hunting } ∧
    t.inHand = some { code := code, seq := seq, result := result, storeFault := t.store.storeFault,
                      storeLost := t.store.storeLost, data := data }

/-- A request has been answered OK, and nothing but the listed parts and those derived at the end of an event has
changed. -/
def accepted (s t : State) (code seq : Byte) (data : List Byte) (parts : List Part) : Prop :=
  answered s t code seq none data ∧ changesOnly s t (linkParts ++ derivedParts ++ parts)

/-- A request has been answered, and nothing else has happened. -/
def onlyAnswered (s t : State) (code seq : Byte) (result : Result) (data : List Byte) : Prop :=
  answered s t code seq result data ∧ changesOnly s t linkParts

/-- A telegram with the console's values as they stand is on its way or waiting (R144, R145). -/
def State.carries (t : State) (c : Console) : Prop :=
  t.consoles[c].inFlight = some (t.telegramOf c) ∨ t.consoles[c].pendingTelegram = some (t.telegramOf c)

/-- A key or badge has been taken: the port's receiver hunts again, the outcome stands at its console with the next
result number, the other consoles' results stand, and a telegram carries it (R144, R147). -/
def outcomeAt (s t : State) (c : Console) (src : ResultSource) (r : Result) : Prop :=
  t.portRx = (upd s.portRx c fun x => { x with mode := .hunting }) ∧
    t.consoles[c].lastResult = some (src, r) ∧ t.consoles[c].resultNumber = s.consoles[c].resultNumber + 1 ∧
    otherConsolesSame (fun k => (k.resultNumber, k.lastResult)) s t c ∧ t.carries c

/-- A key or badge has been taken, and nothing but the listed parts and those it always touches has changed. -/
def keyed (s t : State) (c : Console) (src : ResultSource) (r : Result) (parts : List Part) : Prop :=
  outcomeAt s t c src r ∧ changesOnly s t (panelParts ++ parts)

/-- References stand in the change set, and the attention output is on (R183, R184). -/
def marked (t : State) (refs : List Ref) : Prop := (∀ r ∈ refs, r ∈ t.changeSet) ∧ t.attention = true

/-! ### The stored image (R188 to R190) -/

/-- A generation number is higher than another: reached from it by counting forward 1 to 2,147,483,647 steps (R188). -/
def higherThan (x y : BitVec 32) : Prop := 1 ≤ (x - y).toNat ∧ (x - y).toNat ≤ 2147483647

/-- A copy of the store by its name; none where it is not good. -/
def Store.copy (st : Store) : CopyName → Option StoredCopy
  | .a => st.copyA
  | .b => st.copyB

def CopyName.other : CopyName → CopyName
  | .a => .b
  | .b => .a

/-- The copy a write goes to (R189): the one that is not good; of two good ones the lower, A when the numbers are
equal; A when neither is good. Two numbers that are neither equal nor one higher than the other leave it open (log
entry 5). -/
def writesTo (st : Store) (w : CopyName) : Prop :=
  (st.copyA = none → w = .a) ∧
  (∀ x, st.copyA = some x → st.copyB = none → w = .b) ∧
  ∀ x y, st.copyA = some x → st.copyB = some y →
    (x.generation = y.generation → w = .a) ∧
    (higherThan y.generation x.generation → w = .a) ∧ (higherThan x.generation y.generation → w = .b)

/-- One store write of an image, from a store to the store after it (R189). It carries the present generation number
plus 1; read back as written, it is the present one, and both status bits are clear; read back otherwise, STORE_FAULT
is set and the rest stands, but for the copy written. The other copy is untouched. Whether it reads back, and what a
failed write leaves of its copy, are free values (log entries 3 and 4); the copy being written is the model's field
(log entry 13). -/
def wroteImage (before after : Store) (draw : Nat) (image : Settings) : Prop :=
  ∃ w, writesTo before w ∧ after.writing = some w ∧ after.copy w.other = before.copy w.other ∧
    (Config.storeReadsBack draw = true →
      after.copy w = some { generation := before.generation + 1, image := image } ∧
        after.generation = before.generation + 1 ∧ after.storeFault = false ∧ after.storeLost = false) ∧
    (Config.storeReadsBack draw = false →
      (after.copy w = before.copy w ∨ after.copy w = none) ∧ after.generation = before.generation ∧
        after.storeFault = true ∧ after.storeLost = before.storeLost)

/-- One store write, of the contents as they stand after the request (R188, R189), of which one free value is drawn. -/
def stored (s t : State) : Prop :=
  t.store = s.store.write s.draws t.cfg ∧ wroteImage s.store t.store s.draws t.cfg ∧ t.draws = s.draws + 1

/-- The copy a cold start loads from the checked copies, none for the store-lost path (R190). Two numbers that are
neither equal nor one higher than the other leave it open (log entry 5). -/
def loadsFrom (st : Store) (k : Option StoredCopy) : Prop :=
  (st.copyA = none → k = st.copyB) ∧
  (∀ x, st.copyA = some x → st.copyB = none → k = some x) ∧
  ∀ x y, st.copyA = some x → st.copyB = some y →
    (k = some x ∨ k = some y) ∧
    (x.generation = y.generation → k = some x) ∧
    (higherThan x.generation y.generation → k = some x) ∧ (higherThan y.generation x.generation → k = some y)

/-! ### Panels (R90, R91, R143) -/

/-- A record is co-annunciated at console 0: at stage 2, or P1 or P2 at a console with a horn fault (R90). -/
abbrev State.coHeard (s : State) (r : Record) : Prop :=
  r.stage = 2 ∨ ∃ d : Console, r.route = some d ∧ s.consoles[d].hornFault = true ∧ (r.priority = .p1 ∨ r.priority = .p2)

/-- A record that the count display of a console counts outside REVIEW (R143). -/
abbrev State.shownAt (s : State) (c : Console) (r : Record) : Prop :=
  (r.state = .raisedUnack ∨ r.state = .clearedUnack) ∧ r.floodHeld = false ∧
    (r.route = some c ∨ c = 0 ∧ s.coHeard r)

/-- A telegram holds the panel-visible values of a console, row by row of R143. -/
structure State.shows (s : State) (c : Console) (x : Telegram) : Prop where
  cadence : x.pattern = s.consoles[c].pattern
  count : s.handovers[c].phase.inReview = false → x.count = min 99 (s.records.filter fun r => s.shownAt c r).length
  review : ∀ o i d l, s.handovers[c].phase = .review o i d l →
    x.count = min 99 (l.filter fun it => it.seen = false).length
  reminder : x.reminder = true ↔ ∃ r ∈ s.records, s.shownAt c r ∧ (r.stage = 1 ∨ r.stage = 2)
  flood : x.flood = s.consoles[c].flooded
  listFull : x.listFull = true ↔ s.waiting ≠ []
  underQualified : x.underQualified = s.consoles[c].underQualified
  signedIn : x.signedIn = true ↔ ∃ o, s.consoles[c].session = .attached o
  lampOff : s.handovers[c].phase = .none → x.handover = .off
  lampFlashing : ∀ o d l, s.handovers[c].phase = .offered o d l → x.handover = .flashing
  lampSteady : ∀ o i d l, s.handovers[c].phase = .review o i d l → x.handover = .steady
  linkSteady : ∀ w, s.consoles[c].link = .up w → x.link = .steady
  linkFlashing : ∀ w, s.consoles[c].link = .lost w → x.link = .flashing
  linkOff : s.consoles[c].link = .down → x.link = .off
  result : x.resultNumber = s.consoles[c].resultNumber ∧ x.lastResult = s.consoles[c].lastResult

/-- A console's horn fault has just been reported (R91, R142): the flag is yes and marked, and every P1 and P2 record
routed there that stage 2 had not brought to console 0 is heard there and marked, whether or not its flag was set
before. -/
def faultHeard (t : State) (c : Console) : Prop :=
  t.consoles[c].hornFault = true ∧ marked t [.console c] ∧
    ∀ p r, t.recordOf p = some r → r.route = some c → (r.priority = .p1 ∨ r.priority = .p2) → r.stage ≠ 2 →
      r.silencedAtSupervisor = false ∧ marked t [.point p]

/-! ### What the events of the manual leave, between the state before and the state after -/

/-- A record as a new route of its area leaves it: nothing silenced (R13), and released where it was flood-held and
the new route is no FLOODED console (R109). -/
def movedTo (s : State) (r : Record) (route : Option Console) : Record :=
  if r.floodHeld = true ∧ ¬∃ c, route = some c ∧ s.consoles[c].flooded = true then
    { r with route := route, silencedAtRoute := false, silencedAtSupervisor := false, stage := 0, floodHeld := false,
             annunciatedAt := s.partTime }
  else { r with route := route, silencedAtRoute := false, silencedAtSupervisor := false }

/-- A record as a new fault of a console's horn leaves it: a P1 or P2 record routed there that stage 2 had not
brought to console 0 is heard there (R91). -/
def heardAt (newFault : Bool) (c : Console) (r : Record) : Record :=
  if newFault = true ∧ r.route = some c ∧ (r.priority = .p1 ∨ r.priority = .p2) ∧ r.stage ≠ 2 then
    { r with silencedAtSupervisor := false }
  else r

/-- The routes are the routing function's on the state after, and each record of an area whose route has changed is
moved (R12, R13, R109); then what else the event makes of each record. -/
def reroutedThen (s t : State) (f : Record → Record) : Prop :=
  (∀ a : Area, t.routes[a] = t.routeOf a) ∧
    ∀ i : Slot, t.live[i] = s.live[i].map fun r =>
      f (if t.routes[r.area] = s.routes[r.area] then r else movedTo s r t.routes[r.area])

/-- Routing has been re-evaluated, and nothing else has changed a record (R12, R13, R109). -/
def rerouted (s t : State) : Prop := reroutedThen s t id

/-- The routes and the records stand as they were. -/
def routesStand (s t : State) : Prop := s.same t .routes ∧ s.same t .table

/-- The item list of every handover has become a function of the list before it, and nothing else of a handover has
changed; a list stands only in OFFERED and REVIEW (R172). -/
def listsAre (s t : State) (f : Console → List Item → List Item) : Prop :=
  ∀ d : Console, t.handovers[d] =
    { s.handovers[d] with phase := s.handovers[d].phase.withItems (f d s.handovers[d].phase.items) }

/-- A list that an item of an area has joined, where its console owns the area: last, unseen, and late in REVIEW alone
(R172). -/
def joined (s : State) (a : Area) (ref : ItemRef) (d : Console) (l : List Item) : List Item :=
  if s.cfg.areas[a].owner = some d then
    l ++ [{ ref := ref, seen := false, late := s.handovers[d].phase.inReview }]
  else l

/-- A list that an item has been dropped from, seen or not (R172). -/
def dropped (ref : ItemRef) (l : List Item) : List Item := l.filter fun it => it.ref ≠ ref

/-- A list in which an item has to be seen again, in its place and late as it was (R172). -/
def unseenAgain (ref : ItemRef) (l : List Item) : List Item :=
  l.map fun it => if it.ref = ref then { it with seen := false } else it

/-- The weight of each priority (R100). -/
def weightOf : Priority → Nat
  | .p1 => 64
  | .p2 => 48
  | .p3 => 32
  | .p4 => 16

/-- The flood decision of a counting annunciation (R105): RAISED_UNACK, P3 or P4, and routed to a FLOODED console. -/
abbrev heldBack (s : State) (r : Record) : Prop :=
  r.state = .raisedUnack ∧ (r.priority = .p3 ∨ r.priority = .p4) ∧
    ∃ c, s.routes[r.area] = some c ∧ s.consoles[c].flooded = true

/-- The weight of an annunciated record has joined its route's second's sum, unless it is held back, and no other load
field has changed (R49 part 3, R100). -/
def weighed (s t : State) (r : Record) (held : Bool) : Prop :=
  ∀ c : Console, t.consoles[c].load = s.consoles[c].load ∧ t.consoles[c].flooded = s.consoles[c].flooded ∧
    t.consoles[c].secondTaken = s.consoles[c].secondTaken ∧
    t.consoles[c].secondSum =
      if s.routes[r.area] = some c ∧ held = false then min 65535 (s.consoles[c].secondSum + weightOf r.priority)
      else s.consoles[c].secondSum

/-- A record as its annunciation leaves it (R49, R105): its area's present route, annunciated now, nothing silenced,
stage 0, the flood decision, no acknowledgement carried into RAISED_UNACK. -/
def annunciation (s : State) (r : Record) (held : Bool) : Record :=
  { r with route := s.routes[r.area], annunciatedAt := s.partTime, silencedAtRoute := false,
           silencedAtSupervisor := false, stage := 0, floodHeld := held,
           acknowledgedBy := if r.state = .raisedUnack then none else r.acknowledgedBy }

/-- A record has been annunciated into a slot, and its weight counted (R49, R100, R105). -/
def annunciatedAt (s t : State) (i : Slot) (r : Record) : Prop :=
  ∃ held : Bool, (held = true ↔ heldBack s r) ∧
    t.live = s.live.set i.val (some (annunciation s r held)) i.isLt ∧ weighed s t r held

/-- The record of a point as it becomes live, before its annunciation sets the fields that R49 names: the point's
priority, area and class, nobody's acknowledgement and no shelf (R41, R55). -/
def newRecord (s : State) (p : Point) (cause : Cause) (k : Condition) (n : Nat) (first : Nat) : Record :=
  { point := p
    state := match k with
      | .active => .raisedUnack
      | .gone => .clearedUnack
    condition := k, cause := cause, priority := s.cfg.points[p].priority, area := s.cfg.points[p].area,
    cls := s.cfg.points[p].cls, occurrences := n, firstRaised := first, annunciatedAt := s.partTime, route := none,
    silencedAtRoute := false, silencedAtSupervisor := false, stage := 0, floodHeld := false, acknowledgedBy := none,
    shelvedBy := none, shelfEnd := none }

/-- The record of a waiting entry as it becomes live (R55). -/
def entryRecord (s : State) (e : Entry) : Record := newRecord s e.point e.cause e.condition e.occurrences e.arrival

/-- The record of a slot has left, and the head of the waiting queue, if any, has taken the slot; the drop of the
item is taken before the append (R51, R54, R55, R172). -/
def removedAt (s t : State) (i : Slot) (r : Record) : Prop :=
  match s.waiting with
  | [] =>
    t.live = s.live.set i.val none i.isLt ∧ t.waiting = [] ∧ s.same t .loads ∧
      listsAre s t fun _ l => dropped (.alarm r.point) l
  | e :: rest =>
    annunciatedAt s t i (entryRecord s e) ∧ t.waiting = rest ∧
      listsAre s t fun d l => joined s s.cfg.points[e.point].area (.alarm e.point) d (dropped (.alarm r.point) l)

/-- The records that a test names have all left in one event, and the heads of the waiting queue, in queue order,
have taken the empty slots, the lowest-numbered first, each annunciated, weighed and listed in its turn (R51, R54,
R55, R100, R172). Every other record stands. -/
def removedAll (s t : State) (goes : Record → Bool) : Prop :=
  let freed : List Slot := (List.finRange 64).filter fun i => s.live[i].all goes
  let come : List Entry := s.waiting.take freed.length
  (∀ (i : Slot) (r : Record), s.live[i] = some r → goes r = false → t.live[i] = some r) ∧
    (∀ (k : Nat) (i : Slot), freed[k]? = some i →
      t.live[i] = come[k]?.map fun e => annunciation s (entryRecord s e) (heldBack s (entryRecord s e))) ∧
    t.waiting = s.waiting.drop freed.length ∧
    (∀ d : Console, t.consoles[d].load = s.consoles[d].load ∧ t.consoles[d].flooded = s.consoles[d].flooded ∧
      t.consoles[d].secondTaken = s.consoles[d].secondTaken ∧
      t.consoles[d].secondSum = ((come.map (entryRecord s)).filter fun q =>
          s.routes[q.area] = some d ∧ ¬heldBack s q).foldl
        (fun sum q => min 65535 (sum + weightOf q.priority)) s.consoles[d].secondSum) ∧
    listsAre s t fun d l => come.foldl (fun l e => joined s s.cfg.points[e.point].area (.alarm e.point) d l)
      (l.filter fun it => ∀ r ∈ s.records, goes r = true → it.ref ≠ .alarm r.point)

/-- What a raise of a point with a cause leaves of the table, the queue, the loads and the item lists (R41 to R44,
R49, R52, R53, R172): a standing record takes the cause alone; a cleared one, and a new one in the lowest empty slot,
is annunciated with it; a SHELVED one whose condition is GONE, and an entry, take it with one occurrence more; with
every slot full a new entry waits behind those of its priority. -/
structure State.raised (s t : State) (p : Point) (k : Cause) : Prop where
  standing : ∀ i r, s.find p = some (i, r) →
    r.state = .raisedUnack ∨ r.state = .acked ∨ r.state = .shelved ∧ r.condition = .active →
    t.live = s.live.set i.val (some { r with cause := k }) i.isLt ∧ t.waiting = s.waiting ∧ s.same t .loads ∧
      t.handovers = s.handovers
  again : ∀ i r, s.find p = some (i, r) → r.state = .clearedUnack ∨ r.state = .resetWait →
    annunciatedAt s t i { r with state := .raisedUnack, condition := .active, cause := k,
                                 occurrences := min 255 (r.occurrences + 1) } ∧
      t.waiting = s.waiting ∧ listsAre s t fun _ l => unseenAgain (.alarm r.point) l
  shelved : ∀ i r, s.find p = some (i, r) → r.state = .shelved → r.condition = .gone →
    t.live = s.live.set i.val (some { r with condition := .active, cause := k,
                                             occurrences := min 255 (r.occurrences + 1) }) i.isLt ∧
      t.waiting = s.waiting ∧ s.same t .loads ∧ t.handovers = s.handovers
  entry : ∀ e, s.find p = none → s.entryOf p = some e →
    t.waiting = (s.waiting.map fun y => if y.point = p then
        { y with condition := .active, cause := k, occurrences := min 255 (y.occurrences + 1) } else y) ∧
      t.live = s.live ∧ s.same t .loads ∧ t.handovers = s.handovers
  fresh : ∀ i, s.statusOf p = .normal → s.lowestEmpty = some i →
    annunciatedAt s t i (newRecord s p k .active 1 s.partTime) ∧ t.waiting = s.waiting ∧
      listsAre s t fun d l => joined s s.cfg.points[p].area (.alarm p) d l
  queued : s.statusOf p = .normal → s.lowestEmpty = none →
    t.waiting = (s.waiting.takeWhile fun e => e.priority.rank ≤ s.cfg.points[p].priority.rank) ++
        { point := p, cause := k, priority := s.cfg.points[p].priority, condition := .active,
          occurrences := 1, arrival := s.partTime } ::
        s.waiting.dropWhile (fun e => e.priority.rank ≤ s.cfg.points[p].priority.rank) ∧
      t.live = s.live ∧ s.same t .loads ∧ t.handovers = s.handovers

/-- What a clear of a point leaves of the table, the queue, the loads and the item lists, by state and class (R45 to
R47, R53). -/
structure State.cleared (s t : State) (p : Point) : Prop where
  removed : ∀ i r, s.find p = some (i, r) →
    r.state = .raisedUnack ∧ r.cls = .selfClearing ∨ r.state = .acked ∧ r.cls ≠ .held → removedAt s t i r
  stays : ∀ i r, s.find p = some (i, r) → r.state = .raisedUnack → r.cls ≠ .selfClearing →
    t.live = s.live.set i.val
        (some (if r.floodHeld then
          { r with state := .clearedUnack, condition := .gone, floodHeld := false, annunciatedAt := s.partTime,
                   silencedAtRoute := false, silencedAtSupervisor := false, stage := 0 }
          else { r with state := .clearedUnack, condition := .gone })) i.isLt ∧
      t.waiting = s.waiting ∧ s.same t .loads ∧ t.handovers = s.handovers
  waits : ∀ i r, s.find p = some (i, r) → r.state = .acked → r.cls = .held →
    t.live = s.live.set i.val (some { r with state := .resetWait, condition := .gone }) i.isLt ∧
      t.waiting = s.waiting ∧ s.same t .loads ∧ t.handovers = s.handovers
  shelved : ∀ i r, s.find p = some (i, r) → r.state = .shelved →
    t.live = s.live.set i.val (some { r with condition := .gone }) i.isLt ∧
      t.waiting = s.waiting ∧ s.same t .loads ∧ t.handovers = s.handovers
  gone : ∀ i r, s.find p = some (i, r) → r.state = .clearedUnack ∨ r.state = .resetWait →
    t.live = s.live ∧ t.waiting = s.waiting ∧ s.same t .loads ∧ t.handovers = s.handovers
  entry : ∀ e, s.find p = none → s.entryOf p = some e →
    t.live = s.live ∧ s.same t .loads ∧ t.handovers = s.handovers ∧
      (e.condition = .gone → t.waiting = s.waiting) ∧
      (e.condition = .active → s.cfg.points[p].cls = .selfClearing →
        t.waiting = s.waiting.filter fun y => y.point != p) ∧
      (e.condition = .active → s.cfg.points[p].cls ≠ .selfClearing →
        t.waiting = s.waiting.map fun y => if y.point = p then { y with condition := .gone } else y)
  normal : s.statusOf p = .normal →
    t.live = s.live ∧ t.waiting = s.waiting ∧ s.same t .loads ∧ t.handovers = s.handovers

/-- Which refusal checks 5 and 6 of a request that names a record give it (R61 to R63): no session, another operator,
and the acceptance test. -/
def turnsAway (s : State) (c : Console) (o : Operator) (r : Record) (required : Level) (z : Reason) : Prop :=
  s.attachedAt c = none ∧ z = .notStaffed ∨
  (∃ q, s.attachedAt c = some q ∧ q ≠ o) ∧ z = .notInCharge ∨
  s.attachedAt c = some o ∧ s.acceptance c o r required = some z

/-- A handover in OFFERED or REVIEW has been aborted with an outcome; the other handovers stand (R176). -/
def abortedAt (s t : State) (c : Console) (outcome : HandoverOutcome) : Prop :=
  t.handovers = (upd s.handovers c fun _ => { phase := .none, lastOutcome := some outcome }) ∧
    marked t ((s.handovers[c].phase.incoming).toList.map Ref.operator ++ [.console c, .handover c])

/-- A session has ended with a cause, routing has followed, the other consoles' sessions and flags stand, and a
telegram is on its way whatever the panel shows of it (R150). -/
def sessionEnded (s t : State) (c : Console) (o : Operator) (cause : EndCause) : Prop :=
  t.consoles[c].session = .none ∧ t.consoles[c].lastEnd = some cause ∧ t.consoles[c].underQualified = false ∧
    t.consoles[c].hornFault = s.consoles[c].hornFault ∧
    otherConsolesSame (fun k => (k.session, k.lastEnd, k.hornFault, k.underQualified)) s t c ∧
    rerouted s t ∧ marked t [.console c, .operator o] ∧ (t.consoles[c].link ≠ .off → t.carries c)

/-! ### Numbers and codes as chapter 11 gives them -/

/-- A data byte at an offset holds a number. -/
abbrev byteAt (d : List Byte) (k n : Nat) : Prop := d[k]? = some (BitVec.ofNat 8 n)

/-- Two bytes at an offset hold a number, most significant first. -/
abbrev halfAt (d : List Byte) (k n : Nat) : Prop := byteAt d k (n / 256) ∧ byteAt d (k + 1) n

/-- Four bytes at an offset hold a number, most significant first. -/
abbrev wordAt (d : List Byte) (k n : Nat) : Prop := halfAt d k (n / 65536) ∧ halfAt d (k + 2) n

/-- Zeros from an offset on. -/
abbrev zerosAt (d : List Byte) (k n : Nat) : Prop := ∀ j : Fin n, byteAt d (k + j.val) 0

/-- A part-time value at an offset: four bytes of ticks. A value they cannot hold is left open (log entry 7). -/
abbrev timeAt (d : List Byte) (k t : Nat) : Prop := t < 4294967296 → wordAt d k t

/-- A time from now at an offset: two bytes of tenths of a second, FFFF for absent. A span they cannot hold is left open
(log entry 7). -/
abbrev spanAt (d : List Byte) (k now : Nat) (o : Option Nat) : Prop :=
  (o = none → halfAt d k 65535) ∧ ∀ t ∈ o, t - now < 65535 → halfAt d k (t - now)

/-- A flag: 1 for yes. -/
def flagCode (b : Bool) : Nat := if b = true then 1 else 0

/-- A console or a route: 255 for none or NONE. -/
def consoleCode : Option Console → Nat
  | some c => c.val
  | none => 255

/-- A roster slot, by its number 1 to 48: 0 for absent. -/
def operatorCode : Option Operator → Nat
  | some o => o.val + 1
  | none => 0

def groupCode : Option Group → Nat
  | some g => g.val
  | none => 255

def useCode : PointUse → Nat
  | .unused => 0
  | .line _ => 1
  | .link => 2

/-- The line byte of a point configuration: 255 when absent. -/
def useLineCode : PointUse → Nat
  | .line l => l.val
  | _ => 255

def priorityCode : Priority → Nat
  | .p1 => 1
  | .p2 => 2
  | .p3 => 3
  | .p4 => 4

def classCode : AlarmClass → Nat
  | .selfClearing => 0
  | .locking => 1
  | .held => 2

def senseCode : Sense → Nat
  | .closeToAlarm => 0
  | .openToAlarm => 1

def filterCode : FilterTime → Nat
  | .ms100 => 0
  | .ms500 => 1
  | .s2 => 2
  | .s5 => 3

def noteKindCode : NoteKind → Nat
  | .info => 0
  | .caution => 1

def itemKindCode : ItemRef → Nat
  | .alarm _ => 0
  | .note _ => 1

def itemNumber : ItemRef → Nat
  | .alarm p => p.val
  | .note n => n.val

def parameterCode : Parameter → Nat
  | .escalation i => i.val
  | .floodThresholds => 4
  | .windowPeriod => 5
  | .lockedFraction => 6
  | .failLimit => 7
  | .graceTime => 8
  | .offerTime => 9
  | .reviewTime => 10
  | .blankTime g => 11 + g.val

def stateCode : RecordState → Nat
  | .raisedUnack => 0
  | .acked => 1
  | .clearedUnack => 2
  | .resetWait => 3
  | .shelved => 4

def conditionCode : Condition → Nat
  | .gone => 0
  | .active => 1

def causeCode : Cause → Nat
  | .alarm => 0
  | .lineFault => 1

def bandCode : Band → Nat
  | .short => 0
  | .closed => 1
  | .opened => 2
  | .broken => 3

def lineStateCode : LineState → Nat
  | .normal => 0
  | .active => 1
  | .fault => 2

def linkCode : Link → Nat
  | .off => 0
  | .down => 1
  | .up _ => 2
  | .lost _ => 3

def sessionCode : Session → Nat
  | .none => 0
  | .attached _ => 1
  | .detached _ _ => 2

def patternCode : Pattern → Nat
  | .silent => 0
  | .sounding p => priorityCode p

def endCauseCode : Option EndCause → Nat
  | none => 0
  | some .signedOut => 1
  | some .forced => 2
  | some .suspended => 3
  | some .graceExpired => 4
  | some .moved => 5
  | some .handedOver => 6

def phaseCode : Phase → Nat
  | .none => 0
  | .offered _ _ _ => 1
  | .review _ _ _ _ => 2

def outcomeCode : Option HandoverOutcome → Nat
  | none => 0
  | some .accepted => 1
  | some .withdrawn => 2
  | some .incomingLeft => 3
  | some .lapsedOffer => 4
  | some .lapsedReview => 5
  | some .linkLost => 6
  | some .suspended => 7
  | some .forced => 8
  | some .restart => 9

def operatorStatusCode : OperatorStatus → Nat
  | .active => 0
  | .suspended => 1

/-- The kind of a reference of the change set. -/
def refKindCode : Ref → Nat
  | .point _ => 1
  | .console _ => 2
  | .area _ => 3
  | .note _ => 4
  | .operator _ => 5
  | .handover _ => 6

/-- The number of a reference of the change set. -/
def refNumber : Ref → Nat
  | .point p => p.val
  | .console c => c.val
  | .area a => a.val
  | .note n => n.val
  | .operator o => o.val + 1
  | .handover c => c.val

/-- An outcome byte: 0 for OK, or the reason code of 11.5. -/
def resultCode : Result → Nat
  | none => 0
  | some .unknownPoint => 1
  | some .wrongSource => 2
  | some .wrongState => 3
  | some .alreadyDone => 4
  | some .notRouted => 5
  | some .notStaffed => 6
  | some .notInCharge => 7
  | some .levelTooLow => 8
  | some .notShelvable => 9
  | some .unknownBadge => 10
  | some .suspended => 11
  | some .alreadySignedIn => 12
  | some .consoleOccupied => 13
  | some .notQualified => 14
  | some .handoverRequired => 15
  | some .handoverBusy => 16
  | some .itemsUnseen => 17
  | some .flooded => 18
  | some .nothingToDo => 19
  | some .rosterFull => 20
  | some .badgeInUse => 21
  | some .inSession => 22
  | some .notesFull => 23
  | some .noAuthority => 24
  | some .badValue => 26
  | some .badRequest => 27

/-! ### The layouts of 11.3, byte by byte -/

/-- The live record block of an occupied slot: 27 bytes from an offset on. -/
abbrev recordLayout (d : List Byte) (k : Nat) (i : Slot) (r : Record) : Prop :=
  byteAt d k i.val ∧ byteAt d (k + 1) 1 ∧ byteAt d (k + 2) r.point.val ∧ byteAt d (k + 3) (stateCode r.state) ∧
    byteAt d (k + 4) (conditionCode r.condition) ∧ byteAt d (k + 5) (causeCode r.cause) ∧
    byteAt d (k + 6) (priorityCode r.priority) ∧ byteAt d (k + 7) r.area.val ∧ byteAt d (k + 8) (classCode r.cls) ∧
    byteAt d (k + 9) r.occurrences ∧ timeAt d (k + 10) r.firstRaised ∧ timeAt d (k + 14) r.annunciatedAt ∧
    byteAt d (k + 18) (consoleCode r.route) ∧
    byteAt d (k + 19)
      (flagCode r.silencedAtRoute + 2 * flagCode r.silencedAtSupervisor + 4 * flagCode r.floodHeld) ∧
    byteAt d (k + 20) r.stage.val ∧ byteAt d (k + 21) (operatorCode r.acknowledgedBy) ∧
    byteAt d (k + 22) (operatorCode r.shelvedBy) ∧ (r.shelfEnd = none → zerosAt d (k + 23) 4) ∧
    ∀ e ∈ r.shelfEnd, timeAt d (k + 23) e

/-- READ_RECORD, 27 bytes; an empty slot has 0 for occupied and zeros after. -/
abbrev slotLayout (s : State) (i : Slot) (d : List Byte) : Prop :=
  d.length = 27 ∧ (s.live[i] = none → byteAt d 0 i.val ∧ zerosAt d 1 26) ∧
    ∀ r ∈ s.live[i], recordLayout d 0 i r

/-- A point configuration in POINT_WRITE order: the first 9 bytes. -/
abbrev configLayout (p : Point) (x : PointConfig) (d : List Byte) : Prop :=
  byteAt d 0 p.val ∧ byteAt d 1 (useCode x.use) ∧ byteAt d 2 (useLineCode x.use) ∧ byteAt d 3 x.area.val ∧
    byteAt d 4 (priorityCode x.priority) ∧ byteAt d 5 (classCode x.cls) ∧ byteAt d 6 (flagCode x.shelvable) ∧
    halfAt d 7 x.maxShelf

/-- READ_POINT, 47 bytes. -/
abbrev pointLayout (s : State) (p : Point) (d : List Byte) : Prop :=
  d.length = 47 ∧ configLayout p s.cfg.points[p] d ∧
    (s.find p = none → s.entryOf p = none → byteAt d 9 5 ∧ zerosAt d 10 34) ∧
    (s.find p = none → ∀ e ∈ s.entryOf p, byteAt d 9 6 ∧ zerosAt d 10 27 ∧ byteAt d 37 (causeCode e.cause) ∧
      byteAt d 38 (conditionCode e.condition) ∧ byteAt d 39 e.occurrences ∧ timeAt d 40 e.arrival) ∧
    (∀ x ∈ s.find p, byteAt d 9 (stateCode x.2.state) ∧ recordLayout d 10 x.1 x.2 ∧ zerosAt d 37 7) ∧
    (∀ l : Line, s.cfg.points[p].use = .line l → byteAt d 44 (bandCode s.lines[l].band) ∧
      byteAt d 45 (lineStateCode s.lines[l].candidate) ∧ byteAt d 46 (lineStateCode s.lines[l].qualified)) ∧
    ((∀ l : Line, s.cfg.points[p].use ≠ .line l) → byteAt d 44 255 ∧ byteAt d 45 255 ∧ byteAt d 46 255)

/-- The filter time of a line, in ticks (R24, R28). -/
def filterTicks : FilterTime → Nat
  | .ms100 => 1
  | .ms500 => 5
  | .s2 => 20
  | .s5 => 50

/-- The qualification deadline of a line: present while the candidate differs from the qualified state (R28). -/
abbrev State.deadlineOf (s : State) (l : Line) : Option Nat :=
  if s.lines[l].candidate = s.lines[l].qualified then none
  else some (s.lines[l].appeared + filterTicks s.cfg.lines[l].filter)

/-- The blank end of the group of a line, while its timer runs (R30, R32). -/
abbrev State.blankEndOf (s : State) (l : Line) : Option Nat := s.cfg.lines[l].group.bind fun g => s.blankEnds[g]

/-- A line configuration in LINE_WRITE order, after the line: the first 5 bytes. -/
abbrev lineConfigLayout (l : Line) (x : LineConfig) (d : List Byte) : Prop :=
  byteAt d 0 l.val ∧ byteAt d 1 (senseCode x.sense) ∧ byteAt d 2 (flagCode x.supervised) ∧
    byteAt d 3 (filterCode x.filter) ∧ byteAt d 4 (groupCode x.group)

/-- READ_LINE, 15 bytes. -/
abbrev lineLayout (s : State) (l : Line) (d : List Byte) : Prop :=
  d.length = 15 ∧ lineConfigLayout l s.cfg.lines[l] d ∧ (s.boundPoint l = none → halfAt d 5 65535) ∧
    (∀ p ∈ s.boundPoint l, halfAt d 5 p.val) ∧ byteAt d 7 (bandCode s.lines[l].band) ∧
    byteAt d 8 (lineStateCode s.lines[l].candidate) ∧ spanAt d 9 s.partTime (s.deadlineOf l) ∧
    byteAt d 11 (lineStateCode s.lines[l].qualified) ∧ byteAt d 12 (flagCode (s.blankEndOf l).isSome) ∧
    spanAt d 13 s.partTime (s.blankEndOf l)

/-- READ_AREA, 9 bytes. -/
abbrev areaLayout (s : State) (a : Area) (d : List Byte) : Prop :=
  d.length = 9 ∧ byteAt d 0 a.val ∧ byteAt d 1 (consoleCode s.cfg.areas[a].owner) ∧
    byteAt d 2 (consoleCode s.cfg.areas[a].fallback) ∧ byteAt d 3 s.cfg.areas[a].ackLevel.val ∧
    byteAt d 4 s.cfg.areas[a].shelveLevel.val ∧ byteAt d 5 s.cfg.areas[a].resetLevel.val ∧
    byteAt d 6 (consoleCode s.routes[a]) ∧ byteAt d 7 (s.records.filter fun r => r.area = a).length ∧
    byteAt d 8 (s.records.filter fun r => r.area = a ∧ r.state = .raisedUnack).length

/-- READ_CONSOLE, 20 bytes. -/
abbrev consoleLayout (s : State) (c : Console) (d : List Byte) : Prop :=
  d.length = 20 ∧ byteAt d 0 c.val ∧ byteAt d 1 (flagCode s.cfg.enabled[c]) ∧
    byteAt d 2 (linkCode s.consoles[c].link) ∧ byteAt d 3 s.consoles[c].count ∧
    byteAt d 4 (sessionCode s.consoles[c].session) ∧ byteAt d 5 (operatorCode s.consoles[c].session.inCharge) ∧
    spanAt d 6 s.partTime s.consoles[c].session.graceEnd ∧ byteAt d 8 (flagCode s.consoles[c].hornFault) ∧
    byteAt d 9 (flagCode s.consoles[c].underQualified) ∧ byteAt d 10 (patternCode s.consoles[c].pattern) ∧
    byteAt d 11 (endCauseCode s.consoles[c].lastEnd) ∧ halfAt d 12 s.consoles[c].load ∧
    byteAt d 14 (flagCode s.consoles[c].flooded) ∧
    byteAt d 15 (s.records.filter fun r => r.floodHeld = true ∧ r.route = some c).length ∧
    byteAt d 16 (phaseCode s.handovers[c].phase) ∧ byteAt d 17 (operatorCode s.handovers[c].phase.outgoing) ∧
    byteAt d 18 (operatorCode s.handovers[c].phase.incoming) ∧ byteAt d 19 0

/-- The place bytes of READ_OPERATOR (R122, R134): in charge at a console, ATTACHED or DETACHED; else incoming at
one; else none. In the last two the session byte is left open (log entry 20). -/
abbrev placeLayout (s : State) (o : Operator) (d : List Byte) : Prop :=
  ((∃ c : Console, s.consoles[c].session.inCharge = some o) →
      ∃ c : Console, s.consoles[c].session.inCharge = some o ∧ byteAt d 21 1 ∧ byteAt d 22 c.val ∧
        byteAt d 23 (sessionCode s.consoles[c].session)) ∧
    ((∀ c : Console, s.consoles[c].session.inCharge ≠ some o) →
      ((∃ c : Console, s.handovers[c].phase.incoming = some o) →
        ∃ c : Console, s.handovers[c].phase.incoming = some o ∧ byteAt d 21 2 ∧ byteAt d 22 c.val) ∧
      ((∀ c : Console, s.handovers[c].phase.incoming ≠ some o) → byteAt d 21 0 ∧ byteAt d 22 255))

/-- A roster slot in ROSTER_WRITE order, from one offset on for the slot and another for what follows the status byte
that READ_OPERATOR alone has. -/
abbrev rosterLayout (o : Operator) (r : OperatorRecord) (number badge grants : Nat) (d : List Byte) : Prop :=
  byteAt d number (o.val + 1) ∧ byteAt d badge (r.badge.toNat / 65536) ∧ halfAt d (badge + 1) r.badge.toNat ∧
    (∀ a : Area, byteAt d (grants + a.val) r.grants[a].val) ∧ (r.expiry = none → halfAt d (grants + 12) 0) ∧
    ∀ e ∈ r.expiry, halfAt d (grants + 12) e

/-- READ_OPERATOR, 24 bytes. Of an empty slot the bytes from 2 on are left open (log entry 8). -/
abbrev operatorLayout (s : State) (o : Operator) (d : List Byte) : Prop :=
  d.length = 24 ∧ byteAt d 0 (o.val + 1) ∧ (s.cfg.roster[o] = none → byteAt d 1 0) ∧
    ∀ r ∈ s.cfg.roster[o], byteAt d 1 1 ∧ rosterLayout o r 0 2 6 d ∧ byteAt d 5 (operatorStatusCode r.status) ∧
      byteAt d 20 (if s.day ≠ 0 ∧ ∃ e ∈ r.expiry, e < s.day then 1 else 0) ∧ placeLayout s o d

/-- READ_NOTE, 8 bytes and the text. Of an empty slot the bytes from 2 on are left open (log entry 8). -/
abbrev noteLayout (s : State) (n : Note) (d : List Byte) : Prop :=
  byteAt d 0 n.val ∧ (s.cfg.notes[n] = none → d.length = 8 ∧ byteAt d 1 0) ∧
    ∀ r ∈ s.cfg.notes[n], byteAt d 1 1 ∧ byteAt d 2 r.area.val ∧ byteAt d 3 (noteKindCode r.kind) ∧
      byteAt d 4 (operatorCode r.author) ∧ halfAt d 5 r.entryDay ∧ byteAt d 7 r.text.length ∧ d.drop 8 = r.text

/-- READ_HANDOVER, 12 bytes and the items of one page of sixteen, three bytes each. Bits 2 to 7 of an item's flags are
left open (log entry 32). -/
abbrev handoverLayout (s : State) (c : Console) (g : Fin 6) (d : List Byte) : Prop :=
  d.length = 12 + 3 * min 16 (s.handovers[c].phase.items.length - 16 * g.val) ∧ byteAt d 0 c.val ∧
    byteAt d 1 (phaseCode s.handovers[c].phase) ∧ byteAt d 2 (operatorCode s.handovers[c].phase.outgoing) ∧
    byteAt d 3 (operatorCode s.handovers[c].phase.incoming) ∧
    spanAt d 4 s.partTime s.handovers[c].phase.deadline ∧ byteAt d 6 (outcomeCode s.handovers[c].lastOutcome) ∧
    byteAt d 7 s.handovers[c].phase.items.length ∧
    byteAt d 8 (s.handovers[c].phase.items.filter fun it => it.seen = false).length ∧
    byteAt d 9 (s.handovers[c].phase.items.filter fun it => it.late = true).length ∧ byteAt d 10 g.val ∧
    byteAt d 11 (min 16 (s.handovers[c].phase.items.length - 16 * g.val)) ∧
    ∀ j : Fin 16, ∀ it ∈ s.handovers[c].phase.items[16 * g.val + j.val]?,
      byteAt d (12 + 3 * j.val) (itemKindCode it.ref) ∧ byteAt d (13 + 3 * j.val) (itemNumber it.ref) ∧
        ∃ b ∈ d[14 + 3 * j.val]?, b.getLsbD 0 = it.seen ∧ b.getLsbD 1 = it.late

/-- READ_STATUS, 34 bytes. -/
abbrev statusLayout (s : State) (d : List Byte) : Prop :=
  d.length = 34 ∧ timeAt d 0 s.partTime ∧ halfAt d 4 s.day ∧ byteAt d 6 (flagCode s.commissioning) ∧
    byteAt d 7 (flagCode s.store.storeLost) ∧ byteAt d 8 (flagCode s.store.storeFault) ∧
    byteAt d 9 s.records.length ∧ byteAt d 10 s.waiting.length ∧ byteAt d 11 (flagCode s.relay) ∧
    halfAt d 12 s.changeSet.length ∧ halfAt d 14 s.plantRx.discards ∧ halfAt d 16 s.busy ∧
    ∀ c : Console, halfAt d (18 + 2 * c.val) s.portRx[c].discards

/-- The two values of a parameter; the second is 0 for a parameter that carries one. -/
def parameterValues (p : Params) : Parameter → Nat × Nat
  | .escalation i => (p.escalation[i].t1, p.escalation[i].t2)
  | .floodThresholds => (p.floodOn, p.floodOff)
  | .windowPeriod => (p.window, 0)
  | .lockedFraction => (p.lockedPercent, 0)
  | .failLimit => (p.failLimit, 0)
  | .graceTime => (p.graceTime, 0)
  | .offerTime => (p.offerTime, 0)
  | .reviewTime => (p.reviewTime, 0)
  | .blankTime g => (p.blankTime[g], 0)

/-- READ_PARAM, and the values a PARAM_WRITE answers as stored: 5 bytes. -/
abbrev parameterLayout (p : Params) (which : Parameter) (d : List Byte) : Prop :=
  d.length = 5 ∧ byteAt d 0 (parameterCode which) ∧ halfAt d 1 (parameterValues p which).1 ∧
    halfAt d 3 (parameterValues p which).2

/-- READ_CHANGES: how many references, how many are left, the references by kind and number. -/
abbrev changesLayout (batch left : List Ref) (d : List Byte) : Prop :=
  d.length = 3 + 2 * batch.length ∧ byteAt d 0 batch.length ∧ halfAt d 1 left.length ∧
    ∀ j : Fin batch.length, byteAt d (3 + 2 * j.val) (refKindCode batch[j]) ∧
      byteAt d (4 + 2 * j.val) (refNumber batch[j])

/-- The data of an AREA_WRITE's answer: the area and its three levels as stored (R4, R193). -/
def levelsAnswer (a : Area) (x : AreaConfig) : List Byte :=
  [byteOf a.val, byteOf x.ackLevel.val, byteOf x.shelveLevel.val, byteOf x.resetLevel.val]

/-- The body of an answer (R193): code, sequence number, outcome, store flags, data. -/
abbrev answerLayout (a : Answer) (d : List Byte) : Prop :=
  d.length = 4 + a.data.length ∧ d[0]? = some a.code ∧ d[1]? = some a.seq ∧ byteAt d 2 (resultCode a.result) ∧
    byteAt d 3 (flagCode a.storeFault + 2 * flagCode a.storeLost) ∧ d.drop 4 = a.data

/-- The horn cadence byte of a pattern, step 1 in the most significant bit (R94, 11.4). -/
def cadenceCode : Pattern → Nat
  | .silent => 0
  | .sounding .p1 => 0xDA
  | .sounding .p2 => 0xCC
  | .sounding .p3 => 0xF0
  | .sounding .p4 => 0x80

/-- The last result source byte: 1 to 7 the key, 8 a badge, 9 an undefined telegram. -/
def sourceCode : ResultSource → Nat
  | .key .ack => 1
  | .key .silence => 2
  | .key .reset => 3
  | .key .handover => 4
  | .key .seen => 5
  | .key .accept => 6
  | .key .signOut => 7
  | .badge => 8
  | .undefinedTelegram => 9

def handoverLampCode : HandoverLamp → Nat
  | .off => 0
  | .flashing => 1
  | .steady => 2

/-- The LINK lamp: bit 7 for steady, bit 6 for off, neither for flashing. -/
def linkLampCode : LinkLamp → Nat
  | .steady => 128
  | .flashing => 0
  | .off => 64

/-- The body of a panel-state telegram, 8 bytes (11.4). -/
abbrev telegramLayout (x : Telegram) (d : List Byte) : Prop :=
  d.length = 8 ∧ byteAt d 0 0x81 ∧ byteAt d 1 (cadenceCode x.pattern) ∧ byteAt d 2 x.count ∧
    byteAt d 3 (flagCode x.reminder + 2 * flagCode x.flood + 4 * flagCode x.listFull +
      8 * flagCode x.underQualified + 16 * flagCode x.signedIn) ∧
    byteAt d 4 (handoverLampCode x.handover + linkLampCode x.link) ∧ d[5]? = some x.resultNumber ∧
    (x.lastResult = none → byteAt d 6 0 ∧ byteAt d 7 0) ∧
    ∀ y ∈ x.lastResult, byteAt d 6 (sourceCode y.1) ∧ byteAt d 7 (resultCode y.2)

/-! ### What a cold start loads (R190, R191) -/

/-- The defaults of T1 and T2, P1 to P4 (R83). -/
def defaultTimes (i : Fin 4) : EscalationTimes :=
  match i.val with
  | 0 => { t1 := 60, t2 := 180 }
  | 1 => { t1 := 120, t2 := 600 }
  | 2 => { t1 := 300, t2 := 1800 }
  | _ => { t1 := 0, t2 := 0 }

/-- The parameters as loaded from those of an image (R83, R102, R136, R164): a time above 7,200 is 7,200, and a pair
then out of order its defaults; an ON below 256 is 256, and an OFF not below ON half of ON (log entry 22); a value
that would be refused is its default; a blank time is as stored (log entry 22). -/
abbrev paramsFrom (p q : Params) : Prop :=
  (∀ i : Fin 4, q.escalation[i] =
    if p.escalation[i].t1 ≠ 0 ∧ p.escalation[i].t2 ≠ 0 ∧
        min p.escalation[i].t2 7200 ≤ min p.escalation[i].t1 7200 then defaultTimes i
    else { t1 := min p.escalation[i].t1 7200, t2 := min p.escalation[i].t2 7200 }) ∧
  q.floodOn = max 256 p.floodOn ∧
  q.floodOff = (if p.floodOff < max 256 p.floodOn then p.floodOff else max 256 p.floodOn / 2) ∧
  q.window = (if 10 ≤ p.window ∧ p.window ≤ 100 ∧ p.window % 5 = 0 then p.window else 20) ∧
  q.lockedPercent =
    (if p.lockedPercent = 0 ∨ p.lockedPercent = 25 ∨ p.lockedPercent = 50 then p.lockedPercent else 25) ∧
  q.failLimit = (if 4 ≤ p.failLimit ∧ p.failLimit ≤ 16 then p.failLimit else 8) ∧
  q.graceTime = (if 30 ≤ p.graceTime ∧ p.graceTime ≤ 600 then p.graceTime else 120) ∧
  q.offerTime = (if 60 ≤ p.offerTime ∧ p.offerTime ≤ 1800 then p.offerTime else 600) ∧
  q.reviewTime = (if 120 ≤ p.reviewTime ∧ p.reviewTime ≤ 3600 then p.reviewTime else 900) ∧
  q.blankTime = p.blankTime

/-- The roster as loaded (R117): a record with badge 0, or with a badge that a lower slot holds, is an empty slot; an
expiry of 0 is absent; anything else is as stored. -/
abbrev rosterFrom (m k : Settings) : Prop :=
  ∀ o : Operator, k.roster[o] = m.roster[o].bind fun r =>
    if r.badge = 0 ∨ ∃ q : Operator, q < o ∧ ∃ x ∈ m.roster[q], x.badge = r.badge then none
    else some { r with expiry := if r.expiry = some 0 then none else r.expiry }

/-- The areas as loaded (R1): levels clamped into their ranges, a fallback equal to the owner none. -/
abbrev areasFrom (m k : Settings) : Prop :=
  ∀ a : Area, k.areas[a] =
    { owner := m.areas[a].owner
      fallback := if m.areas[a].fallback = m.areas[a].owner then none else m.areas[a].fallback
      ackLevel := max 2 m.areas[a].ackLevel
      shelveLevel := max 3 m.areas[a].shelveLevel
      resetLevel := max 2 m.areas[a].resetLevel }

/-- The points as loaded (R23): P1 not shelvable, a maximum shelf time of 0 is 1 and above 480 is 480, a line that a
lower point has leaves the point UNUSED; anything else is as stored. -/
abbrev pointsFrom (m k : Settings) : Prop :=
  ∀ p : Point, k.points[p] =
    { use := if (∃ l : Line, m.points[p].use = .line l) ∧ ∃ q : Point, q < p ∧ m.points[q].use = m.points[p].use
        then .unused else m.points[p].use
      area := m.points[p].area
      priority := m.points[p].priority
      cls := m.points[p].cls
      shelvable := if m.points[p].priority = .p1 then false else m.points[p].shelvable
      maxShelf := if m.points[p].maxShelf = 0 then 1 else if 480 < m.points[p].maxShelf then 480
        else m.points[p].maxShelf }

/-- The notes as loaded, after the roster (R158): an empty text is an empty slot, a character outside 32 to 126 is
"?", and an author whose slot is empty as loaded is absent; anything else is as stored. -/
abbrev notesFrom (m k : Settings) : Prop :=
  ∀ n : Note, k.notes[n] = m.notes[n].bind fun r =>
    if r.text = [] then none
    else some
      { r with
        text := r.text.map fun b => if 32 ≤ b.toNat ∧ b.toNat ≤ 126 then b else 63
        author := if ∃ o ∈ r.author, k.roster[o] = none then none else r.author }

/-- The contents k of the blocks as loaded from the image m of a good copy: each block's part with its corrections,
and line configurations and enabled flags as stored (R24, R190). -/
abbrev loadedFrom (m k : Settings) : Prop :=
  paramsFrom m.params k.params ∧ k.enabled = m.enabled ∧ rosterFrom m k ∧ areasFrom m k ∧ pointsFrom m k ∧
    k.lines = m.lines ∧ notesFrom m k

/-- The eight CONSOLE references in their order (R183). -/
def consoleReferences : List Ref :=
  [.console 0, .console 1, .console 2, .console 3, .console 4, .console 5, .console 6, .console 7]

/-- The references that the corrections of a load add, in loading order (R183, R190): by number, of the roster, the
areas, the points and the notes. -/
def corrected (m k : Settings) : List Ref :=
  ((List.finRange 48).filter fun o => k.roster[o] ≠ m.roster[o]).map Ref.operator ++
    ((List.finRange 12).filter fun a => k.areas[a] ≠ m.areas[a]).map Ref.area ++
    ((List.finRange 256).filter fun p => k.points[p] ≠ m.points[p]).map Ref.point ++
    ((List.finRange 32).filter fun n => k.notes[n] ≠ m.notes[n]).map Ref.note

/-- The defaults that every block takes when neither copy is good (R1, R18, R24, R83, R102, R136, R164, R30, R191). -/
abbrev defaultsLoaded (k : Settings) : Prop :=
  (∀ p : Point, k.points[p] =
    { use := .unused, area := 0, priority := .p4, cls := .selfClearing, shelvable := false, maxShelf := 60 }) ∧
  (∀ l : Line, k.lines[l] = { sense := .openToAlarm, supervised := true, filter := .ms500, group := none }) ∧
  (∀ a : Area, k.areas[a] = { owner := none, fallback := none, ackLevel := 2, shelveLevel := 3, resetLevel := 3 }) ∧
  (∀ o : Operator, k.roster[o] = none) ∧ (∀ n : Note, k.notes[n] = none) ∧ (∀ c : Console, k.enabled[c] = true) ∧
  (∀ i : Fin 4, k.params.escalation[i] = defaultTimes i) ∧ k.params.floodOn = 1280 ∧ k.params.floodOff = 640 ∧
  k.params.window = 20 ∧ k.params.lockedPercent = 25 ∧ k.params.failLimit = 8 ∧ k.params.graceTime = 120 ∧
  k.params.offerTime = 600 ∧ k.params.reviewTime = 900 ∧ ∀ g : Group, k.params.blankTime[g] = 30

/-- A console record after cold start (R98, R99, R124, R135). -/
def consoleAtStart (enabled : Bool) : ConsoleRecord :=
  { link := if enabled = true then .down else .off, count := 0, session := .none, hornFault := false,
    underQualified := false, lastEnd := none, resultNumber := 0, lastResult := none, inFlight := none,
    pendingTelegram := none, load := 0, flooded := false, secondSum := 0, secondTaken := 0, pattern := .silent }

/-! ### The deadlines that part time has reached -/

/-- T1 and T2 of a priority (R83). -/
def timesAt (p : Params) : Priority → EscalationTimes
  | .p1 => p.escalation[0]
  | .p2 => p.escalation[1]
  | .p3 => p.escalation[2]
  | .p4 => p.escalation[3]

/-- A record holds stage deadlines: RAISED_UNACK or CLEARED_UNACK and not flood-held (R85). -/
abbrev holdsDeadlines (r : Record) : Prop :=
  (r.state = .raisedUnack ∨ r.state = .clearedUnack) ∧ r.floodHeld = false

/-- A record's reminder deadline exists and has been reached (R85, R86). -/
abbrev reminderReached (p : Params) (now : Nat) (r : Record) : Prop :=
  holdsDeadlines r ∧ r.stage = 0 ∧ (timesAt p r.priority).t1 ≠ 0 ∧
    r.annunciatedAt + 10 * (timesAt p r.priority).t1 ≤ now

/-- A record's escalation deadline exists and has been reached (R85, R87). -/
abbrev escalationReached (p : Params) (now : Nat) (r : Record) : Prop :=
  holdsDeadlines r ∧ r.stage ≠ 2 ∧ (timesAt p r.priority).t2 ≠ 0 ∧
    r.annunciatedAt + 10 * (timesAt p r.priority).t2 ≤ now

/-- A record as its reminder deadline leaves it (R86). -/
def reminded (r : Record) : Record := { r with stage := 1, silencedAtRoute := false }

/-- A record as its escalation deadline leaves it (R87). -/
def escalated (r : Record) : Record :=
  { r with stage := 2, silencedAtSupervisor := false,
           silencedAtRoute := if r.stage = 0 then false else r.silencedAtRoute }

/-- Which commands the deadlines that part time has reached are (R28, R32, R81, R86, R87, R101, R138, R154, R169,
R178). The second's end of a console is due at a whole second that has not been taken (log entry 10). -/
def State.due (s : State) : Instr → Prop
  | .qualificationDeadline l =>
    s.lines[l].candidate ≠ s.lines[l].qualified ∧
      s.lines[l].appeared + filterTicks s.cfg.lines[l].filter ≤ s.partTime
  | .blankEnd g => ∃ e, s.blankEnds[g] = some e ∧ e ≤ s.partTime
  | .shelfExpiry p =>
    ∃ r ∈ s.records, r.point = p ∧ r.state = .shelved ∧ ∃ e, r.shelfEnd = some e ∧ e ≤ s.partTime
  | .reminderDeadline p => ∃ r ∈ s.records, r.point = p ∧ reminderReached s.cfg.params s.partTime r
  | .escalationDeadline p => ∃ r ∈ s.records, r.point = p ∧ escalationReached s.cfg.params s.partTime r
  | .secondsEnd c => s.partTime % 10 = 0 ∧ s.consoles[c].secondTaken < s.partTime
  | .windowEnd c =>
    ∃ w, (s.consoles[c].link = .up w ∨ s.consoles[c].link = .lost w) ∧ w.finish ≤ s.partTime
  | .graceEnd c => ∃ o g, s.consoles[c].session = .detached o g ∧ g ≤ s.partTime
  | .offerDeadline c => ∃ o d l, s.handovers[c].phase = .offered o d l ∧ d ≤ s.partTime
  | .reviewDeadline c => ∃ o i d l, s.handovers[c].phase = .review o i d l ∧ d ≤ s.partTime
  | _ => False

/-! ### Frames and their check (R180) -/

/-- The check register of R180 after one bit: the polynomial x^16 + x^12 + x^5 + 1, most significant bit first. -/
def checkBit (r : Half) (b : Bool) : Half :=
  if (r.msb ^^ b) = true then (r <<< 1) ^^^ 0x1021#16 else r <<< 1

/-- The check register after a byte, its most significant bit first. -/
def checkByte (r : Half) (b : Byte) : Half :=
  [7, 6, 5, 4, 3, 2, 1, 0].foldl (fun r i => checkBit r (b.getLsbD i)) r

/-- The check of R180: initial value all ones, no final inversion. -/
def frameCheck (bytes : List Byte) : Half := bytes.foldl checkByte 0xFFFF#16

/-- The bytes after the sync byte are LENGTH, LENGTH body bytes and their check, high byte first. -/
def goodFrame (bytes : List Byte) : Prop :=
  ∃ (len : Byte) (body : List Byte), body.length = len.toNat ∧
    bytes = len :: body ++ [BitVec.ofNat 8 ((frameCheck (len :: body)).toNat / 256),
      BitVec.ofNat 8 (frameCheck (len :: body)).toNat]

/-! ### Authority (R123 to R127) -/

/-- An engineering request may be taken: in the commissioning state, or with the operator in charge of the acting
console's ATTACHED session as acting operator, who meets the request's requirement (R126). -/
abbrev State.mayEngineer (s : State) (c : Console) (o : Option Operator) (meets : Operator → Prop) : Prop :=
  s.commissioning = true ∨ ∃ op, o = some op ∧ s.consoles[c].session = .attached op ∧ meets op

/-- An operator has a level in some area. -/
abbrev State.levelSomewhere (s : State) (op : Operator) (level : Level) : Prop :=
  ∃ a : Area, level ≤ s.effectiveLevel op a

/-- An operator has a level in every area of a set; in some area, where the set is empty (R127, R153). -/
abbrev State.levelIn (s : State) (op : Operator) (level : Level) (areas : Area → Prop) : Prop :=
  (∀ a : Area, areas a → level ≤ s.effectiveLevel op a) ∧ ((∀ a : Area, ¬areas a) → s.levelSomewhere op level)

/-- LEAD in the area of every point bound to a line of a group; in some area, where no line of it is bound (R31). -/
abbrev State.mayBlank (s : State) (g : Group) (op : Operator) : Prop :=
  (∀ l : Line, s.cfg.lines[l].group = some g → ∀ p ∈ s.boundPoint l, 3 ≤ s.effectiveLevel op s.cfg.points[p].area) ∧
    ((∀ l : Line, s.cfg.lines[l].group = some g → s.boundPoint l = none) → s.levelSomewhere op 3)

/-- SUPERVISOR in the area of the point bound to a line; in some area, where the line is unbound (R25). -/
abbrev State.mayWriteLine (s : State) (l : Line) (op : Operator) : Prop :=
  (∀ p ∈ s.boundPoint l, s.effectiveLevel op s.cfg.points[p].area = 4) ∧
    (s.boundPoint l = none → s.levelSomewhere op 4)

/-- The areas in which a ROSTER_WRITE needs SUPERVISOR (R127), by the record its target slot holds. -/
abbrev rosterNeeds (old : Option OperatorRecord) (grants : Vector Level 12) (expiry : Option Nat) (a : Area) : Prop :=
  (old = none → grants[a] ≠ 0) ∧
    ∀ r ∈ old, grants[a] ≠ r.grants[a] ∨ r.expiry ≠ expiry ∧ (grants[a] ≠ 0 ∨ r.grants[a] ≠ 0)

/-- Who may edit a roster slot: SUPERVISOR wherever the target's grant is not 0 (R126, R127). -/
abbrev State.mayEditSlot (s : State) (c : Console) (o : Option Operator) (slot : Operator) : Prop :=
  s.mayEngineer c o fun op => s.levelIn op 4 fun a => ∃ r ∈ s.cfg.roster[slot], r.grants[a] ≠ 0

/-! ### Acknowledging and resetting by key (R66, R73) -/

/-- A record that the ACK key of a console considers: routed there, unacknowledged and not flood-held. -/
abbrev waitsFor (c : Console) (r : Record) : Prop :=
  r.route = some c ∧ (r.state = .raisedUnack ∨ r.state = .clearedUnack) ∧ r.floodHeld = false

/-- An operator has the acknowledge level of a record's area. -/
abbrev State.mayAck (s : State) (o : Operator) (r : Record) : Prop :=
  s.cfg.areas[r.area].ackLevel ≤ s.effectiveLevel o r.area

/-- The order of the ACK key: priority, then annunciated at, then point (R66). -/
abbrev noLater (r q : Record) : Prop :=
  priorityCode r.priority < priorityCode q.priority ∨ priorityCode r.priority = priorityCode q.priority ∧
    (r.annunciatedAt < q.annunciatedAt ∨ r.annunciatedAt = q.annunciatedAt ∧ r.point ≤ q.point)

/-- A RESET_WAIT record routed to a console. -/
abbrev resetWaitsAt (c : Console) (r : Record) : Prop := r.route = some c ∧ r.state = .resetWait

/-- An operator has the reset level of a record's area. -/
abbrev State.hasResetLevel (s : State) (o : Operator) (r : Record) : Prop :=
  s.cfg.areas[r.area].resetLevel ≤ s.effectiveLevel o r.area

/-! ### The laws of the device -/

/-- R39 with its classes, R48, R88, R105 and the presence columns of R38, for one record. -/
structure Record.lawful (r : Record) : Prop where
  standing : r.state = .raisedUnack ∨ r.state = .acked → r.condition = .active
  returned : r.state = .clearedUnack ∨ r.state = .resetWait → r.condition = .gone
  staged : r.stage ≠ 0 → r.unacknowledged = true
  held : r.floodHeld = true → r.state = .raisedUnack ∧ r.priority.high = false ∧ r.stage = 0
  shelf : r.state = .shelved ↔ r.shelfEnd.isSome = true
  shelver : r.state = .shelved ↔ r.shelvedBy.isSome = true
  fresh : r.state = .raisedUnack → r.acknowledgedBy = none
  counted : 1 ≤ r.occurrences ∧ r.occurrences ≤ 255
  selfClearing : r.cls = .selfClearing → r.state = .raisedUnack ∨ r.state = .acked ∨ r.state = .shelved
  locking : r.cls = .locking → r.state ≠ .resetWait

/-- The law of the live records, and of the waiting entries that become such: their counts, and that no entry of a
SELF_CLEARING point waits with its condition gone (R39, R48, R53). -/
def State.recordLaw (s : State) : Prop :=
  (∀ r ∈ s.records, r.lawful) ∧
  ∀ e ∈ s.waiting, 1 ≤ e.occurrences ∧ e.occurrences ≤ 255 ∧
    (e.condition = .gone → s.cfg.points[e.point].cls ≠ .selfClearing)

/-- R37, R41, R52: a point has at most one record, or one entry and no record; the queue is empty unless every slot is
full, and in order of priority, and of arrival within a priority; no entry arrived after now. -/
structure State.tableLaw (s : State) : Prop where
  once : (s.records.map Record.point).Nodup
  queued : (s.waiting.map Entry.point).Nodup
  apart : ∀ e ∈ s.waiting, ∀ r ∈ s.records, r.point ≠ e.point
  full : s.waiting ≠ [] → s.lowestEmpty = none
  ordered : s.waiting.Pairwise fun x y =>
    x.priority.rank < y.priority.rank ∨ x.priority.rank = y.priority.rank ∧ x.arrival ≤ y.arrival
  arrived : ∀ e ∈ s.waiting, e.arrival ≤ s.partTime

/-- R20, R38, R40, R41: a record and an entry are of a point in use, and agree with its configuration, which is written
only while the point is NORMAL. -/
def State.configLaw (s : State) : Prop :=
  (∀ r ∈ s.records, s.cfg.points[r.point].use ≠ .unused ∧ r.priority = s.cfg.points[r.point].priority ∧
    r.area = s.cfg.points[r.point].area ∧ r.cls = s.cfg.points[r.point].cls) ∧
  ∀ e ∈ s.waiting, s.cfg.points[e.point].use ≠ .unused ∧ e.priority = s.cfg.points[e.point].priority

/-- R11 and R12: the present routes are the routing function's, and every live record carries its area's route. -/
structure State.routeLaw (s : State) : Prop where
  present : ∀ a : Area, s.routes[a] = s.routeOf a
  carried : ∀ r ∈ s.records, r.route = s.routes[r.area]

/-- R105: every flood-held record is RAISED_UNACK, P3 or P4, at stage 0, and routed to a FLOODED console. -/
def State.heldLaw (s : State) : Prop :=
  ∀ r ∈ s.records, r.floodHeld = true →
    r.state = .raisedUnack ∧ r.priority.high = false ∧ r.stage = 0 ∧
      ∃ c, r.route = some c ∧ s.consoles[c].flooded = true

/-- R93 and R96: while the module has power, the relay and every horn pattern are what the live table gives. -/
def State.soundLaw (s : State) : Prop :=
  s.powered = true → s.relay = s.relayWanted ∧ ∀ c : Console, s.consoles[c].pattern = s.patternOf c

/-- R99 and R100: loads and sums lie within 0 to 65,535. -/
def State.loadLaw (s : State) : Prop :=
  ∀ c : Console, s.consoles[c].load ≤ 65535 ∧ s.consoles[c].secondSum ≤ 65535

/-- R135 to R137, R156: the counts against the fail limit, LOST only above 0, OFF exactly where disabled, no DETACHED
session at an UP link and no ATTACHED one elsewhere. -/
structure State.linkLaw (s : State) : Prop where
  limit : 4 ≤ s.cfg.params.failLimit ∧ s.cfg.params.failLimit ≤ 16
  bound : ∀ c : Console, s.consoles[c].count ≤ s.cfg.params.failLimit + 1
  lost : ∀ (c : Console) (w : Window), s.consoles[c].link = .lost w → 0 < s.consoles[c].count
  off : ∀ c : Console, s.consoles[c].link = .off ↔ s.cfg.enabled[c] = false
  attached : ∀ c : Console, (s.attachedAt c).isSome = true → s.linkUp c = true
  detached : ∀ c : Console, s.linkUp c = true → s.consoles[c].session.graceEnd = none

/-- R163: a handover stands only at a console that owns an area, whose link is UP and whose session is ATTACHED under
its outgoing operator. -/
def State.handoverLaw (s : State) : Prop :=
  ∀ c : Console, s.handovers[c].phase.active = true →
    s.linkUp c = true ∧ s.attachedAt c = s.handovers[c].phase.outgoing ∧ s.ownedAreas c ≠ []

/-- A roster slot is in charge at a console, or incoming there (R122). -/
def State.engaged (s : State) (c : Console) (o : Operator) : Prop :=
  s.consoles[c].session.inCharge = some o ∨ s.handovers[c].phase.incoming = some o

/-- R122: each roster slot is in charge at, or incoming at, no more than one console, not both at one, and an empty or
SUSPENDED slot is at none. -/
structure State.placeLaw (s : State) : Prop where
  once : ∀ (o : Operator) (c d : Console), s.engaged c o → s.engaged d o → c = d
  apart : ∀ (o : Operator) (c : Console),
    ¬(s.consoles[c].session.inCharge = some o ∧ s.handovers[c].phase.incoming = some o)
  active : ∀ (o : Operator) (c : Console), s.engaged c o → ∃ r, s.cfg.roster[o] = some r ∧ r.status = .active

/-- R167: an item list holds no point and no note twice, at most 96 items, and only live records and notes of areas that
its console owns. -/
structure State.itemLaw (s : State) : Prop where
  distinct : ∀ c : Console, (s.handovers[c].phase.items.map Item.ref).Nodup
  few : ∀ c : Console, s.handovers[c].phase.items.length ≤ 96
  alarms : ∀ (c : Console) (p : Point), ItemRef.alarm p ∈ s.handovers[c].phase.items.map Item.ref →
    ∃ r ∈ s.records, r.point = p ∧ s.cfg.areas[r.area].owner = some c
  notes : ∀ (c : Console) (n : Note), ItemRef.note n ∈ s.handovers[c].phase.items.map Item.ref →
    ∃ r, s.cfg.notes[n] = some r ∧ s.cfg.areas[r.area].owner = some c

/-- The ranges of 10.4 that a load corrects (R83, R102, R136, R164). -/
structure Params.lawful (p : Params) : Prop where
  times : ∀ i : Fin 4, p.escalation[i].t1 ≤ 7200 ∧ p.escalation[i].t2 ≤ 7200 ∧
    (p.escalation[i].t1 = 0 ∨ p.escalation[i].t2 = 0 ∨ p.escalation[i].t1 < p.escalation[i].t2)
  flood : 256 ≤ p.floodOn ∧ p.floodOff < p.floodOn
  window : 10 ≤ p.window ∧ p.window ≤ 100 ∧ p.window % 5 = 0
  locked : p.lockedPercent = 0 ∨ p.lockedPercent = 25 ∨ p.lockedPercent = 50
  failLimit : 4 ≤ p.failLimit ∧ p.failLimit ≤ 16
  grace : 30 ≤ p.graceTime ∧ p.graceTime ≤ 600
  offer : 60 ≤ p.offerTime ∧ p.offerTime ≤ 1800
  review : 120 ≤ p.reviewTime ∧ p.reviewTime ≤ 3600

/-- R1, R6, R18, R19, R115, R116, R158 and the ranges of 10.4: the conditions kept on the stored contents, which a load
restores whatever the image holds. -/
structure Settings.lawful (m : Settings) : Prop where
  fallback : ∀ a : Area, m.areas[a].owner = none ∨ m.areas[a].fallback ≠ m.areas[a].owner
  levels : ∀ a : Area, 2 ≤ m.areas[a].ackLevel ∧ 3 ≤ m.areas[a].shelveLevel ∧ 2 ≤ m.areas[a].resetLevel
  unshelvable : ∀ p : Point, m.points[p].priority = .p1 → m.points[p].shelvable = false
  shelf : ∀ p : Point, 1 ≤ m.points[p].maxShelf ∧ m.points[p].maxShelf ≤ 480
  bound : ∀ (p q : Point) (l : Line), m.points[p].use = .line l → m.points[q].use = .line l → p = q
  badges : ∀ (o q : Operator) (x y : OperatorRecord),
    m.roster[o] = some x → m.roster[q] = some y → x.badge = y.badge → o = q
  badged : ∀ (o : Operator) (x : OperatorRecord), m.roster[o] = some x → x.badge ≠ 0
  expiries : ∀ (o : Operator) (x : OperatorRecord), m.roster[o] = some x → x.expiry ≠ some 0
  texts : ∀ (n : Note) (r : NoteRecord), m.notes[n] = some r →
    r.text ≠ [] ∧ ∀ b ∈ r.text, 32 ≤ b.toNat ∧ b.toNat ≤ 126
  params : m.params.lawful

/-- What no rule corrects at a load, so that it is kept of the image too: a note's length (R158), the blank times
(R30, log entry 22) and the width of ON (R102). -/
structure Settings.storable (m : Settings) : Prop where
  noteLength : ∀ (n : Note) (r : NoteRecord), m.notes[n] = some r → r.text.length ≤ 48
  blank : ∀ g : Group, 1 ≤ m.params.blankTime[g] ∧ m.params.blankTime[g] ≤ 600
  floodOn : m.params.floodOn ≤ 65535

/-- Every good copy of the store holds what a load does not correct. -/
def Store.storable (st : Store) : Prop :=
  ∀ (w : CopyName) (k : StoredCopy), st.copy w = some k → k.image.storable

/-- The stored contents, as the blocks and the copies hold them, keep their conditions. -/
structure State.settingsLaw (s : State) : Prop where
  blocks : s.cfg.lawful
  storable : s.cfg.storable
  copies : s.store.storable

/-- R183 and R184: the change set names no record twice, and the attention output is on exactly while the module has
power and the set holds a reference. -/
def State.changeLaw (s : State) : Prop :=
  s.changeSet.Nodup ∧ s.attention = (s.powered && !s.changeSet.isEmpty)

/-- A safe step: one that answers a next state. No command of this machine may end in a fault or a refusal. -/
def Safe (s : State) : Prop := ∃ t, step s = .next t

end Sys2Proof.Machine
end

