-- ==== Sys2Proof/WellFormed.lean ====
section
/-! DEFINITION. When a command is well formed: a plant link request whose coded fields lie within the ranges of R194
and of its own rule, and a discarded frame, undefined request or undefined telegram that really is one. A request that
is not well formed is answered REFUSED BAD_REQUEST (R182, R194). -/

namespace Sys2Proof

namespace Acting

/-- Acting console 0 to 7, acting slot 1 to 48: a request that always acts for an operator (R61). -/
def person (w : Acting) : Bool :=
  w.console.toNat < 8 && 1 ≤ w.slot.toNat && w.slot.toNat ≤ 48

/-- Acting console 0 to 7, acting slot 0 to 48, where 0 stands for no acting operator (R126, R159). -/
def engineering (w : Acting) : Bool :=
  w.console.toNat < 8 && w.slot.toNat ≤ 48

end Acting

namespace Instr

/-- Whether a command is well formed. -/
def wf : Instr → Bool
  | .frameDiscarded _ bytes => !Frame.good bytes
  | .undefinedRequest body => (decodeBody body).isNone && body.length ≤ 255
  | .undefinedTelegram c body => decodeTelegram c body = .undefinedTelegram c body && body.length ≤ 255
  | .ack _ w _ | .resetHeld _ w _ | .shelve _ w _ _ | .unshelve _ w _ => w.person
  | .pointWrite _ w _ use line area priority cls shelvable _ =>
    w.engineering && use.toNat ≤ 2 && (use.toNat != 1 || line.toNat < 32) && area.toNat < 12 &&
      (1 ≤ priority.toNat && priority.toNat ≤ 4) && cls.toNat ≤ 2 && shelvable.toNat ≤ 1
  | .lineWrite _ w line sense supervised filter group =>
    w.engineering && line.toNat < 32 && sense.toNat ≤ 1 && supervised.toNat ≤ 1 && filter.toNat ≤ 3 &&
      (group.toNat < 4 || group.toNat == 255)
  | .blankGroup _ w group => w.engineering && group.toNat < 4
  | .readLine _ line => line.toNat < 32
  | .areaWrite _ w area k h r =>
    w.engineering && area.toNat < 12 && k.toNat ≤ 4 && h.toNat ≤ 4 && r.toNat ≤ 4
  | .moveArea _ w area owner fallback =>
    w.engineering && area.toNat < 12 && (owner.toNat < 8 || owner.toNat == 255) &&
      (fallback.toNat < 8 || fallback.toNat == 255)
  | .readArea _ area => area.toNat < 12
  | .readRecord _ slot => slot.toNat < 64
  | .rosterWrite _ w slot number grants _ =>
    w.engineering && slot.toNat ≤ 48 && number.toNat != 0 && grants.toList.all (·.toNat ≤ 4)
  | .rosterSuspend _ w slot | .rosterRestore _ w slot | .rosterRetire _ w slot =>
    w.engineering && 1 ≤ slot.toNat && slot.toNat ≤ 48
  | .readOperator _ slot => 1 ≤ slot.toNat && slot.toNat ≤ 48
  | .signOut _ w | .handoverOffer _ w | .handoverAccept _ w | .handoverWithdraw _ w => w.person
  | .forceSignOut _ w target => w.person && target.toNat < 8
  | .portRestart _ w console => w.engineering && console.toNat < 8
  | .portEnable _ w console setting => w.engineering && console.toNat < 8 && setting.toNat ≤ 1
  | .readConsole _ console => console.toNat < 8
  | .noteEnter _ w area kind text => w.engineering && area.toNat < 12 && kind.toNat ≤ 1 && text.length ≤ 249
  | .noteClear _ w note => w.engineering && note.toNat < 32
  | .readNote _ note => note.toNat < 32
  | .handoverSeen _ w kind number => w.person && kind.toNat ≤ 1 && (kind.toNat == 0 || number.toNat < 32)
  | .readHandover _ console page => console.toNat < 8 && page.toNat ≤ 5
  | .paramWrite _ w parameter _ _ => w.engineering && parameter.toNat ≤ 14
  | .readParam _ parameter => parameter.toNat ≤ 14
  | .coldStart _ | .bandChange _ _ | .qualificationDeadline _ | .blankEnd _ | .shelfExpiry _
  | .reminderDeadline _ | .escalationDeadline _ | .secondsEnd _ | .windowEnd _ | .graceEnd _
  | .offerDeadline _ | .reviewDeadline _ | .frameTime _ _ | .busyDiscard | .telegramSent _ | .heartbeat _ _
  | .ackKey _ | .silenceKey _ | .resetKey _ | .handoverKey _ | .seenKey _ | .acceptKey _ | .signOutKey _
  | .badge _ _ | .raise _ _ | .clear _ _ | .readPoint _ _ | .setDay _ _ | .readChanges _ | .readStatus _
  | .frameStart _ _ | .idleEndGap _ | .answerSent | .powerLoss _ => true

end Instr

end Sys2Proof
end

