-- ==== Sys2Proof/Certificates/Slice0/Obligations.lean ====
section
/-! DEFINITION. What is claimed of the NSC-8, for the provers: one Prop each. Hypotheses are on the state and the
operands alone; `s` is the state before a command and `t` the state after it. -/

open Sys2Proof Sys2Proof.Machine

/-! ### The machine -/

/-- One step takes the command at the front of the queue and is exec of it on the state with the queue's rest. -/
def Obligations.StepRunsTheFrontCommand : Prop :=
  ∀ (c : Instr) (rest : List Instr) (s : State), s.pending = c :: rest → step s = exec c { s with pending := rest }

/-- The model's choice (log entry 6): with nothing waiting, a powered module takes one tick of part time, and the
commands whose deadlines are then reached wait, each once, in an order that is left free; which those are, State.due
says deadline by deadline (R28, R32, R81, R85 to R87, R101, R138, R154, R169, R178); without power nothing happens;
past the last tick a cold start waits, and whether it cuts off a store write is a free value (log entries 6 and 13).
The second's end is due once a whole second, by the model's own field (log entry 10). -/
def Obligations.IdleStepTicks : Prop :=
  ∀ s : State, s.pending = [] →
    (s.powered = true → s.partTime < lastTick →
      ∃ t, step s = .next t ∧ t.partTime = s.partTime + 1 ∧
        t.pending.Perm { s with partTime := s.partTime + 1 }.dueCommands ∧
        (∀ i : Instr, i ∈ t.pending ↔ { s with partTime := s.partTime + 1 }.due i) ∧
        ((s.records.map Record.point).Nodup → t.pending.Nodup) ∧
        changesOnly s t [.time, .commands, .draws]) ∧
    (s.powered = true → lastTick ≤ s.partTime →
      ∃ (cut : Bool) (t : State), step s = .next t ∧ t.pending = [.coldStart cut] ∧
        changesOnly s t [.commands, .draws]) ∧
    (s.powered = false → step s = .next s)

/-- No command ends in a fault or a refusal: every command, on any state, has a next state; and no command touches
the queue of waiting commands. -/
def Obligations.EveryCommandCompletes : Prop :=
  ((∀ (i : Instr) (s : State), ∃ t, exec i s = .next t) ∧ ∀ s : State, Safe s) ∧
  (∀ (i : Instr) (s t : State), exec i s = .next t → t.pending = s.pending)

/-- R183: whatever a command changes of what the reads return, the reference of each changed record stands in the
change set after it; only a cold start, which starts the set afresh, is excepted. The second clause says it of the
data that READ_POINT, READ_CONSOLE, READ_AREA, READ_NOTE, READ_OPERATOR and READ_HANDOVER answer (R17, R59, R134,
R157, R162, R179). -/
def Obligations.EveryChangeIsMarked : Prop :=
  (∀ (i : Instr) (s t : State), exec i s = .next t → (∀ m, i ≠ .coldStart m) →
    ∀ r ∈ changedRefs s t, r ∈ t.changeSet) ∧
  ∀ (i : Instr) (s t : State), exec i s = .next t → (∀ m, i ≠ .coldStart m) →
    (∀ p : Point, t.pointData p ≠ s.pointData p → Ref.point p ∈ t.changeSet) ∧
    (∀ c : Console, t.consoleData c ≠ s.consoleData c → Ref.console c ∈ t.changeSet) ∧
    (∀ a : Area, t.areaData a ≠ s.areaData a → Ref.area a ∈ t.changeSet) ∧
    (∀ n : Note, t.noteData n ≠ s.noteData n → Ref.note n ∈ t.changeSet) ∧
    (∀ o : Operator, t.operatorData o ≠ s.operatorData o → Ref.operator o ∈ t.changeSet) ∧
    ∀ (c : Console) (g : Fin 6), t.handoverData c g ≠ s.handoverData c g → Ref.handover c ∈ t.changeSet

/-- R140, R144, R145, R150: whatever a command changes of a console's panel-visible values or of its link state, and
whenever its session ends, a telegram with the values as they stand after it is in flight or waiting for a console
that is not OFF; only a cold start is excepted. The values are those of R143, row by row. -/
def Obligations.EveryPanelChangeIsSent : Prop :=
  (∀ (i : Instr) (s t : State), exec i s = .next t → (∀ m, i ≠ .coldStart m) →
    ∀ c : Console, t.consoles[c].link ≠ .off →
      (s.telegramOf c ≠ t.telegramOf c ∨ linkCode s.consoles[c].link ≠ linkCode t.consoles[c].link ∨
        s.consoles[c].session ≠ .none ∧ t.consoles[c].session = .none) → t.carries c) ∧
  ∀ (s : State) (c : Console), s.shows c (s.telegramOf c)

/-- R126, R127 and the authority checks of chapters 1, 2, 7, 8 and 10, in a weaker form that holds of all of them:
the stored points, lines, areas, roster, parameters and port settings (of R188's contents, all but the notes, for
which NOTE_ENTER needs OPERATE only) change only at a cold start, in the commissioning state, or while some operator
in charge of some ATTACHED session has SUPERVISOR in some area. The second clause says when the commissioning state
holds (R125): no ACTIVE record of the roster has a grant of SUPERVISOR in any area. -/
def Obligations.StoredContentsNeedASupervisor : Prop :=
  (∀ (i : Instr) (s t : State), exec i s = .next t → (∀ m, i ≠ .coldStart m) →
    (t.cfg.points = s.cfg.points ∧ t.cfg.lines = s.cfg.lines ∧ t.cfg.areas = s.cfg.areas ∧ t.cfg.roster = s.cfg.roster ∧
      t.cfg.params = s.cfg.params ∧ t.cfg.enabled = s.cfg.enabled) ∨
    s.commissioning = true ∨
    ∃ (c : Console) (o : Operator) (a : Area), s.consoles[c].session = .attached o ∧ s.effectiveLevel o a = 4) ∧
  ∀ s : State, s.commissioning = true ↔
    ∀ (o : Operator) (r : OperatorRecord), s.cfg.roster[o] = some r → r.status = .active →
      ∀ a : Area, r.grants[a] ≠ 4

/-- R182 and "Outcomes" of the scope: a request that is answered with a refusal changes nothing but the exchange. The
one request whose refusal carries an effect, a RAISE that brings a new cause to a standing alarm (R42), can do so
only to a record of a LINK point with another cause; the hypothesis shuts out states that hold one, and
RaiseOfAStandingAlarm claims that effect. -/
def Obligations.RefusedRequestsChangeNothing : Prop :=
  ∀ (i : Instr) (s t : State) (a : Answer), (encodeBody i).isSome = true → s.linkReady = true →
    (∀ r ∈ s.records, s.cfg.points[r.point].use = .link → r.cause = .alarm) →
    exec i s = .next t → t.inHand = some a → a.result ≠ none → changesOnly s t linkParts

/-! ### Requests as frames -/

/-- R193: every request reads back from the body that carries it, with every field at every value a frame can hold.
-/
def Obligations.BodiesDecodeToTheirRequests : Prop :=
  ∀ (i : Instr) (body : List Byte), encodeBody i = some body → body.length ≤ 255 → decodeBody body = some i

/-- The fields of requests, as the table of R194 codes them: which byte stands for which value, and no other does. -/
def Sys2Proof.Machine.fieldsDecode : Prop :=
  (∀ (n : Nat) (b : Byte) (i : Fin n), decodeNumber n b = some i ↔ b.toNat = i.val) ∧
  (∀ (b : Byte) (x : Option Console), decodeOwner b = some x ↔ b.toNat = consoleCode x) ∧
  (∀ (b : Byte) (o : Operator), decodeOperator b = some o ↔ b.toNat = o.val + 1) ∧
  (∀ (b : Byte) (x : Option Operator), decodeOperatorOrNone b = some x ↔ b.toNat = operatorCode x) ∧
  (∀ (w : Acting) (c : Console) (o : Operator), decodePerson w = some (c, o) ↔
    w.console.toNat = c.val ∧ w.slot.toNat = o.val + 1) ∧
  (∀ (w : Acting) (c : Console) (o : Option Operator), decodeEngineer w = some (c, o) ↔
    w.console.toNat = c.val ∧ w.slot.toNat = operatorCode o) ∧
  (∀ (b : Byte) (x : Bool), decodeFlag b = some x ↔ b.toNat = flagCode x) ∧
  (∀ (b : Byte) (x : Level), decodeLevel b = some x ↔ b.toNat = x.val) ∧
  (∀ (b : Byte) (x : NoteKind), decodeNoteKind b = some x ↔ b.toNat = noteKindCode x) ∧
  (∀ (b n : Byte) (x : ItemRef), decodeItem b n = some x ↔ b.toNat = itemKindCode x ∧ n.toNat = itemNumber x) ∧
  (∀ (g : Vector Byte 12) (x : Vector Level 12), decodeGrants g = some x ↔ ∀ a : Area, g[a].toNat = x[a].val) ∧
  (∀ e : Half, decodeExpiry e = if e = 0 then none else some e.toNat) ∧
  (∀ (b : Byte) (x : Parameter), decodeParameter b = some x ↔ b.toNat = parameterCode x) ∧
  (∀ (x1 x2 x3 x4 : Byte) (x : LineConfig), decodeLineConfig x1 x2 x3 x4 = some x ↔
    x1.toNat = senseCode x.sense ∧ x2.toNat = flagCode x.supervised ∧ x3.toNat = filterCode x.filter ∧
      x4.toNat = groupCode x.group) ∧
  ∀ (x1 x2 x3 x4 x5 x6 : Byte) (m : Half) (x : PointConfig), decodePointConfig x1 x2 x3 x4 x5 x6 m = some x ↔
    x1.toNat = useCode x.use ∧ (∀ l, x.use = .line l → x2.toNat = l.val) ∧ x3.toNat = x.area.val ∧
      x4.toNat = priorityCode x.priority ∧ x5.toNat = classCode x.cls ∧ x6.toNat = flagCode x.shelvable ∧
      m.toNat = x.maxShelf

/-- R194, R182: a request with a field outside its coded range, and a good frame that carries no request, are
answered REFUSED BAD_REQUEST under the code and the sequence number received, and nothing else happens; and which
codes the fields accept (R194's table). Of a NOTE_ENTER whose text is longer than the 249 characters a frame can
carry, this answer is the model's choice (log entry 18). -/
def Obligations.BadRequestsAreRefused : Prop :=
  fieldsDecode ∧
  (∀ (i : Instr) (code seq : Byte) (rest : List Byte) (s : State), encodeBody i = some (code :: seq :: rest) →
    i.wf = false → s.linkReady = true →
      ∃ t, exec i s = .next t ∧ onlyAnswered s t code seq (some .badRequest) []) ∧
  ∀ (body : List Byte) (s : State), decodeBody body = none → s.linkReady = true →
    ∃ t, exec (.undefinedRequest body) s = .next t ∧
      onlyAnswered s t (body.headD 0) (body.tail.headD 0) (some .badRequest) []

/-- R180, R181: the frame receivers. A sync byte in HUNTING starts a frame and stamps its start; a frame that is no
good frame is discarded at its end gap and counted, saturating at 65,535; a frame that has run for its frame time is
discarded, counted and ignored to the next end gap; the end gap ends the ignoring; the end of an answer frees the
exchange. While a request is in hand, every request and every frame start on the plant link is one busy discard, and
the request in hand stands; on a line already ignored nothing is counted. A frame is good when its bytes are LENGTH,
as many body bytes and their check, high byte first, the check being R180's cyclic code over LENGTH and the body
(goodFrame), which over the nine bytes 31 to 39 is 29B1. The last clauses say when a request and a panel telegram can
be taken. That a whole request command during a
request in hand is one busy discard, and leaves the receiver ignoring, is the model's reading (log entry 11), and
that clock readings come as operands and are kept in the receiver is its choice (log entry 12). -/
def Obligations.FramesAreReceived : Prop :=
  ((∀ (rx : Rx) (clock : Nat) (s : State), s.listens rx = true → s.lineBusy rx = false →
     (s.receiver rx).mode = .hunting →
     ∃ t, exec (.frameStart rx clock) s = .next t ∧
       t.receiver rx = { mode := .receiving clock, clock := clock, discards := (s.receiver rx).discards } ∧
       (∀ q, q ≠ rx → t.receiver q = s.receiver q) ∧ changesOnly s t [.plantReceiver, .portReceivers]) ∧
   (∀ (rx : Rx) (bytes : List Byte) (s : State), s.listens rx = true → s.lineBusy rx = false →
     Frame.good bytes = false → (s.receiver rx).mode ≠ .ignoring →
     ∃ t, exec (.frameDiscarded rx bytes) s = .next t ∧
       t.receiver rx = { mode := .hunting, clock := (s.receiver rx).clock,
                         discards := min 65535 ((s.receiver rx).discards + 1) } ∧
       (∀ q, q ≠ rx → t.receiver q = s.receiver q) ∧ changesOnly s t [.plantReceiver, .portReceivers]) ∧
   (∀ (rx : Rx) (start clock : Nat) (s : State), s.listens rx = true → (s.receiver rx).mode = .receiving start →
     start + frameTimeOf rx ≤ clock →
     ∃ t, exec (.frameTime rx clock) s = .next t ∧
       t.receiver rx = { mode := .ignoring, clock := clock, discards := min 65535 ((s.receiver rx).discards + 1) } ∧
       (∀ q, q ≠ rx → t.receiver q = s.receiver q) ∧ changesOnly s t [.plantReceiver, .portReceivers]) ∧
   (∀ (rx : Rx) (s : State), s.listens rx = true → (s.receiver rx).mode = .ignoring →
     ∃ t, exec (.idleEndGap rx) s = .next t ∧ t.receiver rx = { (s.receiver rx) with mode := .hunting } ∧
       (∀ q, q ≠ rx → t.receiver q = s.receiver q) ∧ changesOnly s t [.plantReceiver, .portReceivers]) ∧
   (∀ s : State, s.powered = true →
     ∃ t, exec .answerSent s = .next t ∧ t.inHand = none ∧ t.store = { s.store with writing := none } ∧
       changesOnly s t [.exchange, .store])) ∧
  (∀ (i : Instr) (s : State), s.powered = true → s.inHand.isSome = true →
     ((encodeBody i).isSome = true ∨ i = .busyDiscard ∨ (∃ body, i = .undefinedRequest body ∧ decodeBody body = none) ∨
       (∃ clock, i = .frameStart .plant clock ∧ s.plantRx.mode = .hunting)) →
     ∃ t, exec i s = .next t ∧ t.plantRx = { s.plantRx with mode := .ignoring } ∧
       t.busy = (if s.plantRx.mode = .ignoring then s.busy else min 65535 (s.busy + 1)) ∧
       changesOnly s t [.plantReceiver, .busyCount]) ∧
  (∀ bytes : List Byte, Frame.good bytes = true ↔ goodFrame bytes) ∧
  frameCheck [0x31, 0x32, 0x33, 0x34, 0x35, 0x36, 0x37, 0x38, 0x39] = 0x29B1#16 ∧
  (∀ s : State, s.linkReady = true ↔ s.powered = true ∧ s.plantRx.mode ≠ .ignoring ∧ s.inHand = none) ∧
  ∀ (s : State) (c : Console),
    (s.hears c = true ↔ s.powered = true ∧ s.consoles[c].link ≠ .off ∧ s.portRx[c].mode ≠ .ignoring) ∧
    (s.linkUp c = true ↔ ∃ w, s.consoles[c].link = .up w) ∧
    ∀ o : Operator, s.attachedAt c = some o ↔ s.consoles[c].session = .attached o

/-! ### Laws of the device, step by step -/

/-- R39 (conditions and classes), R48, R88 and R38's presence columns: every step keeps every live record lawful,
every count between 1 and 255, and no entry of a SELF_CLEARING point waiting with its condition gone. -/
def Obligations.StepsKeepRecordsLawful : Prop :=
  ∀ s t : State, s.recordLaw → step s = .next t → t.recordLaw

/-- R37, R41, R52, R54: every step keeps one record or one entry a point, the queue in order of priority and, within
a priority, of arrival, and the queue empty while a slot is free. -/
def Obligations.StepsKeepTheTable : Prop :=
  ∀ s t : State, s.tableLaw → step s = .next t → t.tableLaw

/-- R20, R38, R40, R41: every step keeps every record and every entry in agreement with the configuration of a point
in use; so an UNUSED point is always NORMAL. -/
def Obligations.StepsKeepRecordsConfigured : Prop :=
  ∀ s t : State, s.configLaw → step s = .next t → t.configLaw

/-- R11, R12 ("every live record's route equals the routing function of its area"): every step keeps the routes the
routing function's, given the law of handovers (an accept hands over an ATTACHED session). -/
def Obligations.StepsKeepTheRoutes : Prop :=
  ∀ s t : State, s.routeLaw → s.handoverLaw → step s = .next t → t.routeLaw

/-- R93, R96, R97: every step leaves the relay and every horn pattern what the live table and the links give. -/
def Obligations.StepsKeepHornsAndRelay : Prop :=
  ∀ s t : State, s.soundLaw → step s = .next t → t.soundLaw

/-- R122, R135 to R137, R140, R156, R163 and R167: every step keeps the links, counts and sessions in their law;
every handover at a console that owns an area, whose link is UP and whose session is ATTACHED under its outgoing
operator; each roster slot in charge or incoming at no more than one console, and an empty or SUSPENDED one at none;
and every item list free of repeats, of at most 96 items, and of live records and notes of areas its console owns
alone. The law of the table is a premise, for an admitted point must not be live already. -/
def Obligations.StepsKeepLinksAndHandovers : Prop :=
  (∀ s t : State, s.linkLaw → s.handoverLaw → step s = .next t → t.linkLaw ∧ t.handoverLaw) ∧
  (∀ s t : State, s.linkLaw → s.handoverLaw → s.placeLaw → step s = .next t → t.placeLaw) ∧
  ∀ s t : State, s.tableLaw → s.handoverLaw → s.itemLaw → step s = .next t → t.itemLaw

/-- R99 to R101, R105, R107: every step keeps every flood-held record RAISED_UNACK, P3 or P4, at stage 0 and routed
to a FLOODED console, and every load and every second's sum between 0 and 65,535. -/
def Obligations.StepsKeepLoadsAndFloods : Prop :=
  (∀ s t : State, s.heldLaw → step s = .next t → t.heldLaw) ∧
  (∀ s t : State, s.loadLaw → step s = .next t → t.loadLaw)

/-- R1, R6, R18 to R20, R115 to R117, R128, R158 and the ranges of 10.4: every step keeps the conditions on the
stored contents: no fallback equal to its owner, the levels in their ranges, no shelvable P1 point, every maximum
shelf time 1 to 480, one point a line, one slot a badge, every note of 1 to 48 printing characters, every parameter
in its range. That a copy's image holds no longer note, no blank time and no ON out of range is part of the law,
since no rule corrects those at a load (log entry 22). -/
def Obligations.StepsKeepTheSettings : Prop :=
  ∀ s t : State, s.settingsLaw → step s = .next t → t.settingsLaw

/-- R183, R184: every step keeps the change set free of repeats, and the attention output on exactly while the module
has power and the set holds a reference. -/
def Obligations.StepsKeepTheChangeSet : Prop :=
  ∀ s t : State, s.changeLaw → step s = .next t → t.changeLaw

/-- The laws of the device hold right after reset. The reset image itself is the model's choice (log entries 1 and
2). -/
def Obligations.ResetKeepsTheLaws : Prop :=
  State.reset.recordLaw ∧ State.reset.tableLaw ∧ State.reset.routeLaw ∧ State.reset.heldLaw ∧ State.reset.soundLaw ∧
    State.reset.linkLaw ∧ State.reset.handoverLaw ∧ State.reset.loadLaw ∧ State.reset.settingsLaw ∧
    State.reset.configLaw ∧ State.reset.changeLaw ∧ State.reset.placeLaw ∧ State.reset.itemLaw

/-! ### What is derived at the moment it is asked -/

/-- R10: the routing function, step by step, and that nothing but owners, fallbacks, links and sessions enters it. -/
def Obligations.RoutingFunction : Prop :=
  (∀ (s : State) (a : Area) (o : Console), s.cfg.areas[a].owner = some o → s.linkUp o = true →
    (s.attachedAt o).isSome = true → s.routeOf a = some o) ∧
  (∀ (s : State) (a : Area) (f : Console),
    (∀ o, s.cfg.areas[a].owner = some o → s.linkUp o = false ∨ s.attachedAt o = none) →
    s.cfg.areas[a].fallback = some f → s.linkUp f = true → (s.attachedAt f).isSome = true → s.routeOf a = some f) ∧
  (∀ (s : State) (a : Area),
    (∀ o, s.cfg.areas[a].owner = some o → s.linkUp o = false ∨ s.attachedAt o = none) →
    (∀ f, s.cfg.areas[a].fallback = some f → s.linkUp f = false ∨ s.attachedAt f = none) →
    s.routeOf a = if s.linkUp 0 then some 0 else none) ∧
  (∀ (s u : State) (a : Area), u.cfg.areas[a].owner = s.cfg.areas[a].owner →
    u.cfg.areas[a].fallback = s.cfg.areas[a].fallback →
    (∀ c : Console, u.consoles[c].link = s.consoles[c].link ∧ u.consoles[c].session = s.consoles[c].session) →
    u.routeOf a = s.routeOf a)

/-- R118: the effective level, row by row of its table. -/
def Obligations.EffectiveLevels : Prop :=
  ∀ (s : State) (o : Operator) (a : Area),
    (s.cfg.roster[o] = none → s.effectiveLevel o a = 0) ∧
    ∀ r : OperatorRecord, s.cfg.roster[o] = some r →
      (r.status = .suspended → s.effectiveLevel o a = 0) ∧
      (r.status = .active →
        (r.expiry = none → s.effectiveLevel o a = r.grants[a]) ∧
        ∀ e, r.expiry = some e →
          (s.day = 0 → s.effectiveLevel o a = r.grants[a]) ∧
          (1 ≤ s.day → s.day ≤ e → s.effectiveLevel o a = r.grants[a]) ∧
          (1 ≤ s.day → e < s.day → s.effectiveLevel o a = min r.grants[a] 1))

/-- R90, R92, R93, R96: the horn pattern names the highest priority of the sounding set, and SILENT stands for an
empty set; a record is in the set of its route while RAISED_UNACK, not flood-held and not silenced there, and in
console 0's while co-annunciated, RAISED_UNACK and not silenced at supervisor; and the relay is wanted while some
RAISED_UNACK record has route NONE or some record is co-annunciated while console 0's link is not UP. -/
def Obligations.HornPatternIsTheHighest : Prop :=
  (∀ (s : State) (c : Console),
    (s.patternOf c = .silent ↔ ∀ r ∈ s.records, s.soundsAt c r = false) ∧
    ∀ p, s.patternOf c = .sounding p ↔
      (∃ r ∈ s.records, s.soundsAt c r = true ∧ r.priority = p) ∧
        ∀ r ∈ s.records, s.soundsAt c r = true → p.rank ≤ r.priority.rank) ∧
  (∀ (s : State) (c : Console) (r : Record), s.soundsAt c r = true ↔
    r.route = some c ∧ r.state = .raisedUnack ∧ r.floodHeld = false ∧ r.silencedAtRoute = false ∨
      c = 0 ∧ s.coHeard r ∧ r.state = .raisedUnack ∧ r.silencedAtSupervisor = false) ∧
  ∀ s : State, s.relayWanted = true ↔
    (∃ r ∈ s.records, r.state = .raisedUnack ∧ r.route = none) ∨
      (∃ r ∈ s.records, s.coHeard r) ∧ ∀ w, s.consoles[(0 : Console)].link ≠ .up w

/-! ### Start and supply -/

/-- R36, R60, R98, R99, R119, R135, R163, R180, R183, R184, R188 to R191: a cold start takes the contents of the good
copy with the higher generation number, A when they are equal, or of the one that is good, corrected, or the
defaults; everything volatile starts afresh; the pins, the line clocks and the waiting commands stand. A write that
it cuts off costs the copy being written. A good image is loaded as stored but for the corrections of R1, R23, R83,
R102, R117, R136, R158 and R164, spelled block by block in `loadedFrom`; the change set holds the eight CONSOLE
references and then those of the corrections, in loading order; on the store-lost path every block takes the defaults
of R191. The contents are lawful whatever the copies hold, and the parameters within their ranges. The model's
choices in it: STORE_FAULT is clear on the store-lost path too (log entry 1), numbers 2^31 apart leave the copy open
(5), the line clocks stand (12), the cut is an operand and the copy being written a field (13), OFF is corrected
against ON as loaded (22), the count of draws and the waiting commands are kept (31). -/
def Obligations.ColdStartLoadsTheStore : Prop :=
  (∀ (cut : Bool) (s : State),
     ∃ t, exec (.coldStart cut) s = .next t ∧ t.powered = true ∧ t.partTime = 0 ∧ t.day = 0 ∧ t.relay = false ∧
       t.attention = true ∧ t.lastBatch = none ∧ t.inHand = none ∧ t.busy = 0 ∧ t.waiting = [] ∧
       (∀ i : Slot, t.live[i] = none) ∧ (∀ a : Area, t.routes[a] = none) ∧ (∀ g : Group, t.blankEnds[g] = none) ∧
       (∀ c : Console, t.consoles[c] = consoleAtStart t.cfg.enabled[c] ∧
         t.handovers[c] = { phase := .none, lastOutcome := none }) ∧
       (∀ l : Line, t.lines[l] =
         { band := bandOf s.loops[l], candidate := t.cfg.lines[l].read (bandOf s.loops[l]), appeared := 0,
           qualified := .normal }) ∧
       t.plantRx = { mode := .hunting, clock := s.plantRx.clock, discards := 0 } ∧
       (∀ c : Console, t.portRx[c] = { mode := .hunting, clock := s.portRx[c].clock, discards := 0 }) ∧
       t.store.copyA = (if cut = true ∧ s.store.writing = some .a then none else s.store.copyA) ∧
       t.store.copyB = (if cut = true ∧ s.store.writing = some .b then none else s.store.copyB) ∧
       t.store.storeFault = false ∧ t.store.writing = none ∧
       (∃ loaded, loadsFrom t.store loaded ∧
         match loaded with
         | some k => loadedFrom k.image t.cfg ∧ t.store.generation = k.generation ∧ t.store.storeLost = false ∧
             t.changeSet = consoleReferences ++ corrected k.image t.cfg
         | none => defaultsLoaded t.cfg ∧ t.store.generation = 0 ∧ t.store.storeLost = true ∧
             t.changeSet = consoleReferences) ∧
       t.loops = s.loops ∧ t.draws = s.draws ∧ t.pending = s.pending) ∧
  (∀ (cut : Bool) (s t : State), exec (.coldStart cut) s = .next t →
     t.cfg.lawful ∧ (s.store.storable → t.settingsLaw))

/-- R96, R184, R189: the loss of the supply releases the relay and turns the attention output off; a copy being
written is left without a good check, and the other copy stands. Without power every command but COLD_START,
POWER_LOSS and BAND_CHANGE (which moves the pin alone) leaves the state as it was (log entry 14). That the cut is an
operand, and the copy being written a field until its answer is sent, is the model's reading (log entry 13). -/
def Obligations.PowerLossStopsTheModule : Prop :=
  (∀ (cut : Bool) (s : State),
     ∃ t, exec (.powerLoss cut) s = .next t ∧ t.powered = false ∧ t.relay = false ∧ t.attention = false ∧
       t.changeSet = s.changeSet ∧
       t.store.copyA = (if cut = true ∧ s.store.writing = some .a then none else s.store.copyA) ∧
       t.store.copyB = (if cut = true ∧ s.store.writing = some .b then none else s.store.copyB) ∧
       t.store.generation = s.store.generation ∧ t.store.storeFault = s.store.storeFault ∧
       t.store.storeLost = s.store.storeLost ∧ t.store.writing = none ∧
       changesOnly s t [.supply, .relay, .changes, .store]) ∧
  (∀ (i : Instr) (s : State), s.powered = false →
     (∀ m, i ≠ .coldStart m) → (∀ m, i ≠ .powerLoss m) → (∀ l x, i ≠ .bandChange l x) → exec i s = .next s)

/-! ### Lines, blanking and points (chapter 2) -/

/-- R26, R28, R32, R192: a loop that leaves its band gives the line its new band and candidate, appearing now or, for
an ACTIVE candidate of a blanked line, at the blank end; a loop that stays in its band moves nothing but the pin, and
neither does any loop of a module without power (the model's reading, log entry 14). Then the rows: the limits of the
bands (R192), what a band reads as under supervision and sense (R26), and when a candidate appears (R28, R32). -/
def Obligations.BandChangeSetsTheCandidate : Prop :=
  (∀ (l : Line) (ohms : Nat) (s : State),
    (s.powered = true → bandOf ohms ≠ s.lines[l].band →
      ∃ t, exec (.bandChange l ohms) s = .next t ∧ t.loops = s.loops.set l.val ohms l.isLt ∧
        t.lines = (upd s.lines l fun x =>
          { band := bandOf ohms, candidate := s.cfg.lines[l].read (bandOf ohms),
            appeared := s.appearance s.cfg.lines[l] (s.cfg.lines[l].read (bandOf ohms)), qualified := x.qualified }) ∧
        changesOnly s t ([.loops, .lines] ++ derivedParts)) ∧
    (s.powered = false ∨ bandOf ohms = s.lines[l].band →
      ∃ t, exec (.bandChange l ohms) s = .next t ∧ t.loops = s.loops.set l.val ohms l.isLt ∧
        changesOnly s t [.loops])) ∧
  (∀ ohms : Nat, (ohms < 400 → bandOf ohms = .short) ∧ (400 ≤ ohms → ohms < 2200 → bandOf ohms = .closed) ∧
    (2200 ≤ ohms → ohms < 12000 → bandOf ohms = .opened) ∧ (12000 ≤ ohms → bandOf ohms = .broken)) ∧
  (∀ k : LineConfig,
    (k.supervised = true → k.read .short = .fault ∧ k.read .broken = .fault) ∧
    (k.supervised = false → k.read .short = k.read .closed ∧ k.read .broken = k.read .opened) ∧
    (k.sense = .closeToAlarm → k.read .closed = .active ∧ k.read .opened = .normal) ∧
    (k.sense = .openToAlarm → k.read .closed = .normal ∧ k.read .opened = .active)) ∧
  ∀ (s : State) (k : LineConfig) (x : LineState),
    (∀ g e, x = .active → k.group = some g → s.blankEnds[g] = some e → s.appearance k x = e) ∧
    (x ≠ .active ∨ (∀ g, k.group = some g → s.blankEnds[g] = none) → s.appearance k x = s.partTime)

/-- The live table, the queue, the loads and the handovers of a state are those that an event of a point has left. -/
def Sys2Proof.Machine.hasTable (event t : State) : Prop :=
  t.live = event.live ∧ t.waiting = event.waiting ∧ event.same t .loads ∧ t.handovers = event.handovers

/-- R28, R29, R41 to R47, R49, R51 to R55, R172: at its qualification deadline the candidate becomes the qualified
state, and a bound point takes one event of it: ACTIVE a raise with cause ALARM, FAULT a raise with cause LINE_FAULT,
which a standing record takes as its new cause and a new record or entry carries, and NORMAL a clear. The table, the
queue, the loads and the lists are left as the raise or the clear leaves them (spelled by State.raised, and by
State.cleared under the law of the table); an unbound line has no event. The point bound to a line is the lowest
whose configuration names it (R19: at most one does). -/
def Obligations.QualificationTakesTheCandidate : Prop :=
  (∀ (s : State) (l : Line) (p : Point), s.boundPoint l = some p ↔
    s.cfg.points[p].use = .line l ∧ ∀ q : Point, q < p → s.cfg.points[q].use ≠ .line l) ∧
  ∀ (l : Line) (s : State), s.powered = true → s.lines[l].candidate ≠ s.lines[l].qualified →
    s.lines[l].appeared + filterTicks s.cfg.lines[l].filter ≤ s.partTime →
    ∃ t, exec (.qualificationDeadline l) s = .next t ∧
      t.lines = (upd s.lines l fun x => { x with qualified := x.candidate }) ∧
      (s.boundPoint l = none → changesOnly s t ([.lines] ++ derivedParts)) ∧
      (∀ p, s.boundPoint l = some p →
        (s.lines[l].candidate = .active → s.raised t p .alarm) ∧
        (s.lines[l].candidate = .fault → s.raised t p .lineFault) ∧
        (s.lines[l].candidate = .normal →
          hasTable ((s.clearPoint p).after s) t ∧ (s.tableLaw → s.cleared t p))) ∧
      changesOnly s t ([.lines, .table, .queue, .loads, .handovers] ++ derivedParts)

/-- R30, R31, R32: BLANK_GROUP starts or restarts the group's timer and defers the group's pending ACTIVE candidates
to its end, which the answer carries from now; it needs LEAD in the area of every point bound to a line of the group,
or in some area where no line is bound, and without that it is NO_AUTHORITY; BLANK_END stops the timer and does nothing
else. -/
def Obligations.BlankingDefersAlarms : Prop :=
  (∀ (seq : Byte) (w : Acting) (x : Byte) (c : Console) (o : Option Operator) (g : Group) (s : State),
    s.linkReady = true → decodeEngineer w = some (c, o) → decodeNumber 4 x = some g →
    ¬s.mayEngineer c o (s.mayBlank g) →
    ∃ t, exec (.blankGroup seq w x) s = .next t ∧ onlyAnswered s t 0x24 seq (some .noAuthority) []) ∧
  (∀ (seq : Byte) (w : Acting) (x : Byte) (c : Console) (o : Option Operator) (g : Group) (s : State),
    s.linkReady = true → decodeEngineer w = some (c, o) → decodeNumber 4 x = some g →
    s.mayEngineer c o (s.mayBlank g) →
    ∃ t, exec (.blankGroup seq w x) s = .next t ∧
      t.blankEnds = s.blankEnds.set g.val (some (s.partTime + 10 * s.cfg.params.blankTime[g])) g.isLt ∧
      (∀ l : Line, t.lines[l] =
        if s.cfg.lines[l].group = some g ∧ s.lines[l].candidate = .active ∧ s.lines[l].qualified ≠ .active then
          { s.lines[l] with appeared := s.partTime + 10 * s.cfg.params.blankTime[g] }
        else s.lines[l]) ∧
      ∃ d, d.length = 2 ∧ spanAt d 0 s.partTime (some (s.partTime + 10 * s.cfg.params.blankTime[g])) ∧
        accepted s t 0x24 seq d [.blanking, .lines]) ∧
  ∀ (g : Group) (e : Nat) (s : State), s.powered = true → s.blankEnds[g] = some e → e ≤ s.partTime →
    ∃ t, exec (.blankEnd g) s = .next t ∧ t.blankEnds = s.blankEnds.set g.val none g.isLt ∧ changesOnly s t [.blanking]

/-- R33, R41, R49, R50, R52, R172: a raise of a NORMAL point of the plant link makes a live record in the lowest empty
slot, annunciated to its area's route and appended to the handover list of the area's owner; with every slot full it
makes a waiting entry behind those of its priority. The first clause says which slot is the lowest empty one (R37). -/
def Obligations.RaiseOfANormalPoint : Prop :=
  (∀ (s : State) (i : Slot), s.lowestEmpty = some i ↔
    s.live[i] = none ∧ ∀ j : Slot, j < i → s.live[j] ≠ none) ∧
  ∀ (seq x : Byte) (p : Point) (s : State), s.linkReady = true → decodeNumber 256 x = some p →
    s.cfg.points[p].use = .link → s.statusOf p = .normal →
    (∀ i, s.lowestEmpty = some i →
      ∃ t, exec (.raise seq x) s = .next t ∧ annunciatedAt s t i (newRecord s p .alarm .active 1 s.partTime) ∧
        marked t [.point p, .area s.cfg.points[p].area] ∧
        (listsAre s t fun d l => joined s s.cfg.points[p].area (.alarm p) d l) ∧
        accepted s t 0x01 seq [] [.table, .loads, .handovers]) ∧
    (s.lowestEmpty = none →
      ∃ t, exec (.raise seq x) s = .next t ∧
        t.waiting =
          (s.waiting.takeWhile fun e => e.priority.rank ≤ s.cfg.points[p].priority.rank) ++
            { point := p, cause := .alarm, priority := s.cfg.points[p].priority, condition := .active,
              occurrences := 1, arrival := s.partTime } ::
            s.waiting.dropWhile (fun e => e.priority.rank ≤ s.cfg.points[p].priority.rank) ∧
        marked t [.point p] ∧
        accepted s t 0x01 seq [] [.queue])

/-- R42, R43, R44, R49, R53, R172: a raise of a point that has a record or an entry. A standing alarm is
ALREADY_DONE, and takes a new cause only; a cleared one is raised again in its slot, with one occurrence more and a
fresh annunciation, and its item must be seen again; a SHELVED one whose condition is GONE, and an entry, take the
occurrence without a sound. -/
def Obligations.RaiseOfAStandingAlarm : Prop :=
  ∀ (seq x : Byte) (p : Point) (s : State), s.linkReady = true → decodeNumber 256 x = some p →
    s.cfg.points[p].use = .link →
    (∀ i r, s.find p = some (i, r) →
      ((r.state = .raisedUnack ∨ r.state = .acked ∨ r.state = .shelved ∧ r.condition = .active) →
        ∃ t, exec (.raise seq x) s = .next t ∧ t.live = s.live.set i.val (some { r with cause := .alarm }) i.isLt ∧
          answered s t 0x01 seq (some .alreadyDone) [] ∧
          changesOnly s t (linkParts ++ if r.cause = .alarm then [] else .table :: derivedParts)) ∧
      ((r.state = .clearedUnack ∨ r.state = .resetWait) →
        ∃ t, exec (.raise seq x) s = .next t ∧
          annunciatedAt s t i { r with state := .raisedUnack, condition := .active, cause := .alarm,
                                       occurrences := min 255 (r.occurrences + 1) } ∧
          (listsAre s t fun _ l => unseenAgain (.alarm r.point) l) ∧
          accepted s t 0x01 seq [] [.table, .loads, .handovers]) ∧
      (r.state = .shelved → r.condition = .gone →
        ∃ t, exec (.raise seq x) s = .next t ∧
          t.live = s.live.set i.val (some { r with condition := .active, cause := .alarm,
                                                   occurrences := min 255 (r.occurrences + 1) }) i.isLt ∧
          accepted s t 0x01 seq [] [.table])) ∧
    (∀ e, s.find p = none → s.entryOf p = some e →
      ∃ t, exec (.raise seq x) s = .next t ∧
        t.waiting = (s.waiting.map fun y => if y.point = p then
          { y with condition := .active, cause := .alarm, occurrences := min 255 (y.occurrences + 1) } else y) ∧
        accepted s t 0x01 seq [] [.queue])

/-- R34, R45, R46, R47, R51 to R55, R172: a clear by state and class. -/
def Obligations.ClearByStateAndClass : Prop :=
  ∀ (seq x : Byte) (p : Point) (s : State), s.linkReady = true → decodeNumber 256 x = some p →
    s.cfg.points[p].use = .link → s.tableLaw →
    (∀ i r, s.find p = some (i, r) →
      (r.state = .raisedUnack ∧ r.cls = .selfClearing ∨ r.state = .acked ∧ r.cls ≠ .held →
        ∃ t, exec (.clear seq x) s = .next t ∧ removedAt s t i r ∧
          marked t [.point p, .area r.area] ∧
          accepted s t 0x02 seq [] [.table, .queue, .loads, .handovers]) ∧
      (r.state = .raisedUnack → r.cls ≠ .selfClearing →
        ∃ t, exec (.clear seq x) s = .next t ∧
          t.live = s.live.set i.val
            (some (if r.floodHeld then
              { r with state := .clearedUnack, condition := .gone, floodHeld := false, annunciatedAt := s.partTime,
                       silencedAtRoute := false, silencedAtSupervisor := false, stage := 0 }
              else { r with state := .clearedUnack, condition := .gone })) i.isLt ∧
          accepted s t 0x02 seq [] [.table]) ∧
      (r.state = .acked → r.cls = .held →
        ∃ t, exec (.clear seq x) s = .next t ∧
          t.live = s.live.set i.val (some { r with state := .resetWait, condition := .gone }) i.isLt ∧
          accepted s t 0x02 seq [] [.table]) ∧
      (r.state = .shelved → r.condition = .active →
        ∃ t, exec (.clear seq x) s = .next t ∧
          t.live = s.live.set i.val (some { r with condition := .gone }) i.isLt ∧ accepted s t 0x02 seq [] [.table]) ∧
      (r.state = .clearedUnack ∨ r.state = .resetWait ∨ r.state = .shelved ∧ r.condition = .gone →
        ∃ t, exec (.clear seq x) s = .next t ∧ onlyAnswered s t 0x02 seq (some .alreadyDone) [])) ∧
    (s.statusOf p = .normal →
      ∃ t, exec (.clear seq x) s = .next t ∧ onlyAnswered s t 0x02 seq (some .alreadyDone) []) ∧
    (∀ e, s.find p = none → s.entryOf p = some e →
      (e.condition = .gone →
        ∃ t, exec (.clear seq x) s = .next t ∧ onlyAnswered s t 0x02 seq (some .alreadyDone) []) ∧
      (e.condition = .active → s.cfg.points[p].cls = .selfClearing →
        ∃ t, exec (.clear seq x) s = .next t ∧ t.waiting = (s.waiting.filter fun y => y.point != p) ∧
          accepted s t 0x02 seq [] [.queue]) ∧
      (e.condition = .active → s.cfg.points[p].cls ≠ .selfClearing →
        ∃ t, exec (.clear seq x) s = .next t ∧
          t.waiting = (s.waiting.map fun y => if y.point = p then { y with condition := .gone } else y) ∧
          accepted s t 0x02 seq [] [.queue]))

/-- R19, R20, R21, R29, R41, R49, R52, R126, R172: POINT_WRITE. The first check that fails gives the refusal:
authority, the point NORMAL, the maximum shelf time 1 to 480, the line unbound or the point's own; an accepted write
stores the configuration, with P1 never shelvable, in one store write; a newly bound line that stands ACTIVE or FAULT
raises the point at once, under its new configuration, with cause ALARM or LINE_FAULT (State.raised); what leaves the
point as it was writes nothing. A store write is spelled by `stored`, with the choices of log entries 3, 4, 5 and 13.
-/
def Obligations.PointWriteConfigures : Prop :=
  (∀ (seq : Byte) (w : Acting) (x x1 x2 x3 x4 x5 x6 : Byte) (m : Half) (c : Console) (o : Option Operator) (p : Point)
     (given new : PointConfig) (s : State),
     s.linkReady = true → decodeEngineer w = some (c, o) → decodeNumber 256 x = some p →
     decodePointConfig x1 x2 x3 x4 x5 x6 m = some given →
     new = { given with shelvable := given.shelvable && given.priority != .p1 } →
     (∀ r, s.pointWriteRefusal c o p new = some r →
       ∃ t, exec (.pointWrite seq w x x1 x2 x3 x4 x5 x6 m) s = .next t ∧ onlyAnswered s t 0x20 seq (some r) []) ∧
     (s.pointWriteRefusal c o p new = none → new = s.cfg.points[p] →
       ∃ t, exec (.pointWrite seq w x x1 x2 x3 x4 x5 x6 m) s = .next t ∧
         onlyAnswered s t 0x20 seq none (pointBytes p new)) ∧
     (s.pointWriteRefusal c o p new = none → new ≠ s.cfg.points[p] →
       ∃ t, exec (.pointWrite seq w x x1 x2 x3 x4 x5 x6 m) s = .next t ∧
         t.cfg = { s.cfg with points := s.cfg.points.set p.val new p.isLt } ∧ stored s t ∧ marked t [.point p] ∧
         (∀ l, new.use = .line l → s.cfg.points[p].use ≠ .line l → s.lines[l].qualified ≠ .normal →
           (s.lines[l].qualified = .active → (s.setPoint p new).raised t p .alarm) ∧
             (s.lines[l].qualified = .fault → (s.setPoint p new).raised t p .lineFault)) ∧
         ((∀ l, new.use = .line l → s.cfg.points[p].use = .line l ∨ s.lines[l].qualified = .normal) →
           changesOnly s t (linkParts ++ derivedParts ++ storeParts)) ∧
         accepted s t 0x20 seq (pointBytes p new) (storeParts ++ [.table, .queue, .loads, .handovers]))) ∧
  (∀ (p : Point) (x : PointConfig), (pointBytes p x).length = 9 ∧ configLayout p x (pointBytes p x)) ∧
  (∀ (s : State) (c : Console) (o : Option Operator) (p : Point) (new : PointConfig) (may : Prop),
     (may ↔ s.mayEngineer c o fun op =>
       s.effectiveLevel op s.cfg.points[p].area = 4 ∧ s.effectiveLevel op new.area = 4) →
     (¬may → s.pointWriteRefusal c o p new = some .noAuthority) ∧
     (may → s.statusOf p ≠ .normal → s.pointWriteRefusal c o p new = some .wrongState) ∧
     (may → s.statusOf p = .normal → new.maxShelf < 1 ∨ 480 < new.maxShelf →
       s.pointWriteRefusal c o p new = some .badValue) ∧
     (may → s.statusOf p = .normal → 1 ≤ new.maxShelf → new.maxShelf ≤ 480 →
       (∀ l, new.use = .line l → s.cfg.points[p].use ≠ .line l → (∃ q : Point, s.cfg.points[q].use = .line l) →
         s.pointWriteRefusal c o p new = some .badValue) ∧
       ((∀ (l : Line) (q : Point), new.use = .line l → s.cfg.points[q].use = .line l → q = p) →
         s.pointWriteRefusal c o p new = none)))

/-- R25, R32: LINE_WRITE stores the configuration and restarts the line's qualification from its present band. It
needs SUPERVISOR in the area of the bound point, or in some area for an unbound line. The answer carries the
configuration as stored (R193). A store write is spelled by `stored`, with the choices of log entries 3, 4, 5 and 13.
-/
def Obligations.LineWriteRestartsTheLine : Prop :=
  (∀ (l : Line) (x : LineConfig), (byteOf l.val :: lineConfigBytes x).length = 5 ∧
    lineConfigLayout l x (byteOf l.val :: lineConfigBytes x)) ∧
  ∀ (seq : Byte) (w : Acting) (x x1 x2 x3 x4 : Byte) (c : Console) (o : Option Operator) (l : Line) (new : LineConfig)
    (s : State),
    s.linkReady = true → decodeEngineer w = some (c, o) → decodeNumber 32 x = some l →
    decodeLineConfig x1 x2 x3 x4 = some new →
    (¬s.mayEngineer c o (s.mayWriteLine l) →
      ∃ t, exec (.lineWrite seq w x x1 x2 x3 x4) s = .next t ∧ onlyAnswered s t 0x21 seq (some .noAuthority) []) ∧
    (s.mayEngineer c o (s.mayWriteLine l) → (∃ p, s.boundPoint l = some p ∧ s.statusOf p ≠ .normal) →
      ∃ t, exec (.lineWrite seq w x x1 x2 x3 x4) s = .next t ∧ onlyAnswered s t 0x21 seq (some .wrongState) []) ∧
    (s.mayEngineer c o (s.mayWriteLine l) → (∀ p, s.boundPoint l = some p → s.statusOf p = .normal) →
      (new = s.cfg.lines[l] →
        ∃ t, exec (.lineWrite seq w x x1 x2 x3 x4) s = .next t ∧
          onlyAnswered s t 0x21 seq none (byteOf l.val :: lineConfigBytes new)) ∧
      (new ≠ s.cfg.lines[l] →
        ∃ t, exec (.lineWrite seq w x x1 x2 x3 x4) s = .next t ∧
          t.cfg = { s.cfg with lines := s.cfg.lines.set l.val new l.isLt } ∧ stored s t ∧
          t.lines = (upd s.lines l fun y =>
            { band := y.band, candidate := new.read y.band, appeared := s.appearance new (new.read y.band),
              qualified := .normal }) ∧
          (∀ p, s.boundPoint l = some p → marked t [.point p]) ∧
          accepted s t 0x21 seq (byteOf l.val :: lineConfigBytes new) (storeParts ++ [.lines])))

/-! ### Acknowledging, silencing, resetting, shelving (chapter 4) and the stage deadlines (chapter 5) -/

/-- What an accepted acknowledgement leaves (R64, R65): from RAISED_UNACK an ACKED record, from CLEARED_UNACK a
RESET_WAIT record of class HELD or a removal. -/
def Sys2Proof.Machine.acknowledgedAt (s t : State) (i : Slot) (r : Record) (o : Operator) : Prop :=
  if r.state = .clearedUnack ∧ r.cls ≠ .held then removedAt s t i r
  else
    t.live = s.live.set i.val
      (some { r with state := if r.state = .clearedUnack then .resetWait else .acked, stage := 0, floodHeld := false,
                     acknowledgedBy := some o }) i.isLt ∧
    t.waiting = s.waiting ∧ s.same t .loads ∧ t.handovers = s.handovers

/-- R51 to R55, R61 to R67, R172: ACK by an operator in charge who meets the acceptance test acknowledges the named
record; the ACK key acknowledges, of the unacknowledged records routed to its console that are not flood-held and whose
acknowledge level the operator in charge meets, the first by priority, then by annunciation, then by point; with none
it is LEVEL_TOO_LOW where some such record waits for want of level alone, else NOTHING_TO_DO; at a desk without an
operator in charge it is NOT_STAFFED. -/
def Obligations.AcknowledgementsByRequestAndKey : Prop :=
  (∀ (seq : Byte) (w : Acting) (x : Byte) (c : Console) (o : Operator) (p : Point) (i : Slot) (r : Record) (s : State),
     s.linkReady = true → decodePerson w = some (c, o) → decodeNumber 256 x = some p → s.tableLaw →
     s.cfg.points[p].use ≠ .unused → s.find p = some (i, r) → r.state = .raisedUnack ∨ r.state = .clearedUnack →
     s.attachedAt c = some o →
     s.acceptance c o r s.cfg.areas[r.area].ackLevel = none →
     ∃ t, exec (.ack seq w x) s = .next t ∧ acknowledgedAt s t i r o ∧ marked t [.point p] ∧
       accepted s t 0x30 seq [] [.table, .queue, .loads, .handovers]) ∧
  (∀ (c : Console) (s : State), s.hears c = true → s.linkUp c = true → s.attachedAt c = none →
     ∃ t, exec (.ackKey c) s = .next t ∧ keyed s t c (.key .ack) (some .notStaffed) []) ∧
  (∀ (c : Console) (o : Operator) (s : State), s.hears c = true → s.linkUp c = true → s.attachedAt c = some o →
     s.tableLaw →
     (∀ (i : Slot) (r : Record), s.live[i] = some r → waitsFor c r → s.mayAck o r →
       (∀ q ∈ s.records, waitsFor c q → s.mayAck o q → noLater r q) →
       ∃ t, exec (.ackKey c) s = .next t ∧ acknowledgedAt s t i r o ∧
         keyed s t c (.key .ack) none [.table, .queue, .loads, .handovers]) ∧
     ((∀ q ∈ s.records, waitsFor c q → ¬s.mayAck o q) → (∃ q ∈ s.records, waitsFor c q) →
       ∃ t, exec (.ackKey c) s = .next t ∧ keyed s t c (.key .ack) (some .levelTooLow) []) ∧
     ((∀ q ∈ s.records, ¬waitsFor c q) →
       ∃ t, exec (.ackKey c) s = .next t ∧ keyed s t c (.key .ack) (some .nothingToDo) []))

/-- R70, R71: the SILENCE key silences, at its route, every record sounding at the console where it is pressed, and
at console 0 every record heard there by co-annunciation; it changes nothing else of any record. At a desk without an
operator in charge it is NOT_STAFFED. -/
def Obligations.SilenceKeyStopsTheHorn : Prop :=
  (∀ (c : Console) (s : State), s.hears c = true → s.linkUp c = true → s.attachedAt c = none →
    ∃ t, exec (.silenceKey c) s = .next t ∧ keyed s t c (.key .silence) (some .notStaffed) []) ∧
  ∀ (c : Console) (o : Operator) (s : State), s.hears c = true → s.linkUp c = true → s.attachedAt c = some o →
    ((∃ r ∈ s.records, s.soundsAt c r = true) →
      ∃ t, exec (.silenceKey c) s = .next t ∧
        (∀ i : Slot, t.live[i] = s.live[i].map fun r =>
          { r with
            silencedAtRoute :=
              if r.route = some c ∧ r.state = .raisedUnack ∧ r.floodHeld = false then true else r.silencedAtRoute
            silencedAtSupervisor :=
              if c = 0 ∧ s.coHeard r ∧ r.state = .raisedUnack then true else r.silencedAtSupervisor }) ∧
        t.consoles[c].pattern = .silent ∧ keyed s t c (.key .silence) none [.table]) ∧
    ((∀ r ∈ s.records, s.soundsAt c r = false) →
      ∃ t, exec (.silenceKey c) s = .next t ∧ keyed s t c (.key .silence) (some .nothingToDo) [])

/-- R49, R51 to R55, R61, R62, R73, R74, R172: RESET_HELD by an operator in charge who meets the acceptance test
removes the named RESET_WAIT record, and the head of the waiting queue takes its slot; the RESET key removes every
RESET_WAIT record routed to its console whose reset level the operator in charge meets, and the heads of the queue,
in queue order, are admitted to the freed slots, the lowest-numbered first (R54, R55); its outcome tells whether one
stayed for want of level, or none waited, or the desk has no operator in charge. -/
def Obligations.ResetsRemoveTheRecords : Prop :=
  (∀ (seq : Byte) (w : Acting) (x : Byte) (c : Console) (o : Operator) (p : Point) (i : Slot) (r : Record) (s : State),
     s.linkReady = true → decodePerson w = some (c, o) → decodeNumber 256 x = some p → s.tableLaw →
     s.cfg.points[p].use ≠ .unused → s.find p = some (i, r) → r.state = .resetWait → s.attachedAt c = some o →
     s.acceptance c o r s.cfg.areas[r.area].resetLevel = none →
     ∃ t, exec (.resetHeld seq w x) s = .next t ∧ removedAt s t i r ∧ marked t [.point p, .area r.area] ∧
       accepted s t 0x31 seq [] [.table, .queue, .loads, .handovers]) ∧
  (∀ (c : Console) (s : State), s.hears c = true → s.linkUp c = true → s.attachedAt c = none →
     ∃ t, exec (.resetKey c) s = .next t ∧ keyed s t c (.key .reset) (some .notStaffed) []) ∧
  (∀ (c : Console) (o : Operator) (s : State), s.hears c = true → s.linkUp c = true → s.attachedAt c = some o →
     s.tableLaw →
     ((∃ r ∈ s.records, resetWaitsAt c r) →
       ∃ t, exec (.resetKey c) s = .next t ∧
         (∀ r ∈ s.records, resetWaitsAt c r → s.hasResetLevel o r →
           marked t [.point r.point, .area r.area] ∧ ∀ q ∈ t.records, q.point ≠ r.point) ∧
         (removedAll s t fun r => resetWaitsAt c r ∧ s.hasResetLevel o r) ∧
         keyed s t c (.key .reset)
           (if ∃ r ∈ s.records, resetWaitsAt c r ∧ ¬s.hasResetLevel o r then some .levelTooLow else none)
           [.table, .queue, .loads, .handovers]) ∧
     ((∀ r ∈ s.records, ¬resetWaitsAt c r) →
       ∃ t, exec (.resetKey c) s = .next t ∧ keyed s t c (.key .reset) (some .nothingToDo) []))

/-- R49, R51 to R55, R61, R62, R76 to R81, R172: SHELVE of a shelvable record shelves it for the named minutes,
clamped to the point's maximum, and the answer carries the minutes applied and the shelf's end; the end of a shelf,
by UNSHELVE or at its deadline, annunciates a standing alarm afresh as RAISED_UNACK, whose item must be seen again,
and removes a gone one. -/
def Obligations.ShelvesStartAndEnd : Prop :=
  (∀ (seq : Byte) (w : Acting) (x : Byte) (m : Half) (c : Console) (o : Operator) (p : Point) (i : Slot) (r : Record)
     (n : Nat) (s : State),
     s.linkReady = true → decodePerson w = some (c, o) → decodeNumber 256 x = some p → m ≠ 0 →
     n = min m.toNat s.cfg.points[p].maxShelf →
     s.cfg.points[p].use ≠ .unused → s.cfg.points[p].shelvable = true → s.find p = some (i, r) →
     (r.state = .raisedUnack ∨ r.state = .acked) → s.attachedAt c = some o →
     s.acceptance c o r s.cfg.areas[r.area].shelveLevel = none →
     ∃ t, exec (.shelve seq w x m) s = .next t ∧
       t.live = s.live.set i.val
         (some { r with state := .shelved, shelvedBy := some o, shelfEnd := some (s.partTime + 600 * n), stage := 0,
                        floodHeld := false }) i.isLt ∧
       ∃ d, d.length = 7 ∧ byteAt d 0 p.val ∧ halfAt d 1 n ∧ timeAt d 3 (s.partTime + 600 * n) ∧
         accepted s t 0x32 seq d [.table]) ∧
  ((∀ (seq : Byte) (w : Acting) (x : Byte) (c : Console) (o : Operator) (p : Point) (i : Slot) (r : Record) (s : State),
     s.linkReady = true → decodePerson w = some (c, o) → decodeNumber 256 x = some p → s.tableLaw →
     s.cfg.points[p].use ≠ .unused → s.find p = some (i, r) → r.state = .shelved → s.attachedAt c = some o →
     s.acceptance c o r s.cfg.areas[r.area].shelveLevel = none →
     ∃ t, exec (.unshelve seq w x) s = .next t ∧
       (r.condition = .active →
         annunciatedAt s t i { r with state := .raisedUnack, shelvedBy := none, shelfEnd := none } ∧
           t.waiting = s.waiting ∧ listsAre s t fun _ l => unseenAgain (.alarm r.point) l) ∧
       (r.condition = .gone → removedAt s t i r) ∧ marked t [.point p] ∧
       accepted s t 0x33 seq [match r.condition with | .active => 0 | .gone => 5]
         [.table, .queue, .loads, .handovers]) ∧
   ∀ (p : Point) (i : Slot) (r : Record) (e : Nat) (s : State), s.powered = true → s.tableLaw →
     s.find p = some (i, r) → r.state = .shelved → r.shelfEnd = some e → e ≤ s.partTime →
     ∃ t, exec (.shelfExpiry p) s = .next t ∧
       (r.condition = .active →
         annunciatedAt s t i { r with state := .raisedUnack, shelvedBy := none, shelfEnd := none } ∧
           t.waiting = s.waiting ∧ listsAre s t fun _ l => unseenAgain (.alarm r.point) l) ∧
       (r.condition = .gone → removedAt s t i r) ∧ marked t [.point p] ∧
       changesOnly s t ([.table, .queue, .loads, .handovers] ++ derivedParts))

/-- R33, R34, R61 to R63, R67, R74, R76, R80: a request that names a point and acts for a person is refused by the
first check that fails: the point's use, the request's own field, the record's state, the configuration, the session,
the operator, the place and the level; RAISE and CLEAR of a point that is UNUSED or fed by a line are refused; and
the acceptance test (R62): a record at the console needs the level, SUPERVISOR at console 0 is enough anywhere, a
record elsewhere is NOT_ROUTED. The first clauses say what the record, the entry and the status of a point are (R40):
a record in its slot, else an entry in the queue, else NORMAL. -/
def Obligations.NamedPointRefusals : Prop :=
  (∀ (s : State) (r : Record), r ∈ s.records ↔ ∃ i : Slot, s.live[i] = some r) ∧
  (∀ (s : State) (p : Point),
     (∀ i r, s.find p = some (i, r) → s.live[i] = some r ∧ r.point = p) ∧
     (s.find p = none ↔ ∀ r ∈ s.records, r.point ≠ p) ∧
     (∀ e, s.entryOf p = some e → e ∈ s.waiting ∧ e.point = p) ∧
     (s.entryOf p = none ↔ ∀ e ∈ s.waiting, e.point ≠ p) ∧
     (∀ k, s.statusOf p = .live k ↔ ∃ i r, s.find p = some (i, r) ∧ r.state = k) ∧
     (s.statusOf p = .waiting ↔ s.find p = none ∧ s.entryOf p ≠ none) ∧
     (s.statusOf p = .normal ↔ s.find p = none ∧ s.entryOf p = none)) ∧
  (∀ (seq : Byte) (w : Acting) (x : Byte) (m : Half) (c : Console) (o : Operator) (p : Point) (s : State),
     s.linkReady = true → decodePerson w = some (c, o) → decodeNumber 256 x = some p →
     (s.cfg.points[p].use = .unused →
       (∃ t, exec (.ack seq w x) s = .next t ∧ onlyAnswered s t 0x30 seq (some .unknownPoint) []) ∧
       (∃ t, exec (.resetHeld seq w x) s = .next t ∧ onlyAnswered s t 0x31 seq (some .unknownPoint) []) ∧
       (∃ t, exec (.shelve seq w x m) s = .next t ∧ onlyAnswered s t 0x32 seq (some .unknownPoint) []) ∧
       ∃ t, exec (.unshelve seq w x) s = .next t ∧ onlyAnswered s t 0x33 seq (some .unknownPoint) []) ∧
     (s.cfg.points[p].use ≠ .unused →
       (∃ t, exec (.shelve seq w x 0) s = .next t ∧ onlyAnswered s t 0x32 seq (some .badValue) []) ∧
       (m ≠ 0 → s.statusOf p = .live .shelved ∨ s.statusOf p = .normal →
         ∃ t, exec (.shelve seq w x m) s = .next t ∧ onlyAnswered s t 0x32 seq (some .alreadyDone) []) ∧
       (m ≠ 0 → s.statusOf p = .live .clearedUnack ∨ s.statusOf p = .live .resetWait ∨ s.statusOf p = .waiting →
         ∃ t, exec (.shelve seq w x m) s = .next t ∧ onlyAnswered s t 0x32 seq (some .wrongState) []) ∧
       (m ≠ 0 → s.statusOf p = .live .raisedUnack ∨ s.statusOf p = .live .acked →
         s.cfg.points[p].shelvable = false →
         ∃ t, exec (.shelve seq w x m) s = .next t ∧ onlyAnswered s t 0x32 seq (some .notShelvable) []) ∧
       (s.statusOf p = .normal →
         ∃ t, exec (.resetHeld seq w x) s = .next t ∧ onlyAnswered s t 0x31 seq (some .alreadyDone) []) ∧
       (s.statusOf p ≠ .normal → s.statusOf p ≠ .live .resetWait →
         ∃ t, exec (.resetHeld seq w x) s = .next t ∧ onlyAnswered s t 0x31 seq (some .wrongState) []) ∧
       (s.statusOf p = .live .shelved ∨ s.statusOf p = .waiting →
         ∃ t, exec (.ack seq w x) s = .next t ∧ onlyAnswered s t 0x30 seq (some .wrongState) []) ∧
       (s.statusOf p = .live .acked ∨ s.statusOf p = .live .resetWait ∨ s.statusOf p = .normal →
         ∃ t, exec (.ack seq w x) s = .next t ∧ onlyAnswered s t 0x30 seq (some .alreadyDone) []) ∧
       (s.statusOf p ≠ .live .shelved →
         ∃ t, exec (.unshelve seq w x) s = .next t ∧ onlyAnswered s t 0x33 seq (some .alreadyDone) []) ∧
       ∀ i r z, s.find p = some (i, r) →
         (r.state = .raisedUnack ∨ r.state = .clearedUnack → turnsAway s c o r s.cfg.areas[r.area].ackLevel z →
           ∃ t, exec (.ack seq w x) s = .next t ∧ onlyAnswered s t 0x30 seq (some z) []) ∧
         (r.state = .resetWait → turnsAway s c o r s.cfg.areas[r.area].resetLevel z →
           ∃ t, exec (.resetHeld seq w x) s = .next t ∧ onlyAnswered s t 0x31 seq (some z) []) ∧
         (m ≠ 0 → r.state = .raisedUnack ∨ r.state = .acked → s.cfg.points[p].shelvable = true →
           turnsAway s c o r s.cfg.areas[r.area].shelveLevel z →
           ∃ t, exec (.shelve seq w x m) s = .next t ∧ onlyAnswered s t 0x32 seq (some z) []) ∧
         (r.state = .shelved → turnsAway s c o r s.cfg.areas[r.area].shelveLevel z →
           ∃ t, exec (.unshelve seq w x) s = .next t ∧ onlyAnswered s t 0x33 seq (some z) []))) ∧
  (∀ (seq x : Byte) (p : Point) (s : State), s.linkReady = true → decodeNumber 256 x = some p →
     (s.cfg.points[p].use = .unused →
       (∃ t, exec (.raise seq x) s = .next t ∧ onlyAnswered s t 0x01 seq (some .unknownPoint) []) ∧
       ∃ t, exec (.clear seq x) s = .next t ∧ onlyAnswered s t 0x02 seq (some .unknownPoint) []) ∧
     ∀ l, s.cfg.points[p].use = .line l →
       (∃ t, exec (.raise seq x) s = .next t ∧ onlyAnswered s t 0x01 seq (some .wrongSource) []) ∧
       ∃ t, exec (.clear seq x) s = .next t ∧ onlyAnswered s t 0x02 seq (some .wrongSource) []) ∧
  (∀ (s : State) (c : Console) (o : Operator) (r : Record) (level : Level) (placed : Prop),
     (placed ↔ r.route = some c ∨ c = 0 ∧ s.coHeard r) →
     (s.acceptance c o r level = none ↔
       placed ∧ level ≤ s.effectiveLevel o r.area ∨ c = 0 ∧ s.effectiveLevel o r.area = 4) ∧
     (s.acceptance c o r level = some .levelTooLow ↔
       placed ∧ s.effectiveLevel o r.area < level ∧ ¬(c = 0 ∧ s.effectiveLevel o r.area = 4)) ∧
     (s.acceptance c o r level = some .notRouted ↔ ¬placed ∧ ¬(c = 0 ∧ s.effectiveLevel o r.area = 4)))

/-- R85, R86, R87: at the reminder deadline a record is at stage 1 and heard at its route again; at the escalation
deadline it is at stage 2 and heard at console 0, and at its route too where it skipped the reminder. -/
def Obligations.StageDeadlines : Prop :=
  (∀ (p : Point) (i : Slot) (r : Record) (s : State), s.powered = true → s.find p = some (i, r) →
    reminderReached s.cfg.params s.partTime r →
    ∃ t, exec (.reminderDeadline p) s = .next t ∧ t.live = s.live.set i.val (some (reminded r)) i.isLt ∧
      changesOnly s t ([.table] ++ derivedParts)) ∧
  ∀ (p : Point) (i : Slot) (r : Record) (s : State), s.powered = true → s.find p = some (i, r) →
    escalationReached s.cfg.params s.partTime r →
    ∃ t, exec (.escalationDeadline p) s = .next t ∧ t.live = s.live.set i.val (some (escalated r)) i.isLt ∧
      changesOnly s t ([.table] ++ derivedParts)

/-! ### Load and floods (chapter 6) -/

/-- R101, R103, R108: a second's end decays the load by a thirty-second part rounded up, adds the second's sum,
judges the flood state against the thresholds, and at a flood's end releases every record held at the console. That a
second's end is taken once, at a part time later than the last one taken, is the model's own field (log entries 10
and 31). -/
def Obligations.SecondsEndMovesTheLoad : Prop :=
  ∀ (c : Console) (s : State) (load : Nat) (flooded : Bool), s.powered = true → s.partTime % 10 = 0 →
    s.consoles[c].secondTaken < s.partTime →
    load = min 65535 (s.consoles[c].load - (s.consoles[c].load + 31) / 32 + s.consoles[c].secondSum) →
    (flooded = true ↔
      s.consoles[c].flooded = true ∧ s.cfg.params.floodOff < load ∨
        s.consoles[c].flooded = false ∧ s.cfg.params.floodOn ≤ load) →
    ∃ t, exec (.secondsEnd c) s = .next t ∧ t.consoles[c].load = load ∧ t.consoles[c].flooded = flooded ∧
      t.consoles[c].secondSum = 0 ∧ t.consoles[c].secondTaken = s.partTime ∧
      otherConsolesSame (fun k => (k.load, k.flooded, k.secondSum, k.secondTaken)) s t c ∧
      (∀ i : Slot, t.live[i] = s.live[i].map fun r =>
        if s.consoles[c].flooded = true ∧ flooded = false ∧ r.floodHeld = true ∧ r.route = some c then
          { r with floodHeld := false, annunciatedAt := s.partTime, silencedAtRoute := false,
                   silencedAtSupervisor := false, stage := 0 }
        else r) ∧
      changesOnly s t ([.table, .loads] ++ derivedParts)

/-! ### Areas (chapter 1) -/

/-- R4, R5, R126: AREA_WRITE, with SUPERVISOR in the area, stores the three levels, each clamped into its range,
answers them as stored, and leaves routes, records and the store's other contents alone. A store write is spelled by
`stored`, with the choices of log entries 3, 4, 5 and 13. -/
def Obligations.AreaWriteClampsTheLevels : Prop :=
  ∀ (seq : Byte) (w : Acting) (x x1 x2 x3 : Byte) (c : Console) (o : Option Operator) (a : Area) (k h r : Level)
    (new : AreaConfig) (s : State),
    s.linkReady = true → decodeEngineer w = some (c, o) → decodeNumber 12 x = some a → decodeLevel x1 = some k →
    decodeLevel x2 = some h → decodeLevel x3 = some r →
    new = { s.cfg.areas[a] with ackLevel := max 2 k, shelveLevel := max 3 h, resetLevel := max 2 r } →
    (¬s.mayEngineer c o (fun op => s.effectiveLevel op a = 4) →
      ∃ t, exec (.areaWrite seq w x x1 x2 x3) s = .next t ∧ onlyAnswered s t 0x22 seq (some .noAuthority) []) ∧
    (s.mayEngineer c o (fun op => s.effectiveLevel op a = 4) → new = s.cfg.areas[a] →
      ∃ t, exec (.areaWrite seq w x x1 x2 x3) s = .next t ∧ onlyAnswered s t 0x22 seq none (levelsAnswer a new)) ∧
    (s.mayEngineer c o (fun op => s.effectiveLevel op a = 4) → new ≠ s.cfg.areas[a] →
      ∃ t, exec (.areaWrite seq w x x1 x2 x3) s = .next t ∧
        t.cfg = { s.cfg with areas := upd s.cfg.areas a fun _ => new } ∧ stored s t ∧ marked t [.area a] ∧
        accepted s t 0x22 seq (levelsAnswer a new) storeParts)

/-- R6 to R9, R12, R13, R109, R124: MOVE_AREA is refused by the first of its four checks that fails, a refused one
changes nothing, and one that passes all four is not refused; an accepted one that changes the area stores its owner
and fallback, reroutes, re-derives the under-qualified flags of the two owners and writes the store; one that changes
nothing is only answered. A store write is spelled by `stored`, with the choices of log entries 3, 4, 5 and 13. -/
def Obligations.MoveAreaReroutes : Prop :=
  (∀ (seq : Byte) (w : Acting) (x x1 x2 : Byte) (c : Console) (o : Option Operator) (a : Area) (y z : Option Console)
     (s : State) (may busy : Prop),
     s.linkReady = true → decodeEngineer w = some (c, o) → decodeNumber 12 x = some a → decodeOwner x1 = some y →
     decodeOwner x2 = some z →
     (may ↔ s.mayEngineer c o fun op => s.effectiveLevel op a = 4) →
     (busy ↔ ∃ d, (s.cfg.areas[a].owner = some d ∨ y = some d) ∧ s.handovers[d].phase.active = true) →
     (¬may → ∃ t, exec (.moveArea seq w x x1 x2) s = .next t ∧ onlyAnswered s t 0x23 seq (some .noAuthority) []) ∧
     (may → y.isSome = true → y = z →
       ∃ t, exec (.moveArea seq w x x1 x2) s = .next t ∧ onlyAnswered s t 0x23 seq (some .badValue) []) ∧
     (may → (y = none ∨ y ≠ z) → busy →
       ∃ t, exec (.moveArea seq w x x1 x2) s = .next t ∧ onlyAnswered s t 0x23 seq (some .handoverBusy) []) ∧
     (may → (y = none ∨ y ≠ z) → ¬busy →
       (∃ d op, y = some d ∧ s.attachedAt d = some op ∧ s.effectiveLevel op a < 2) →
       ∃ t, exec (.moveArea seq w x x1 x2) s = .next t ∧ onlyAnswered s t 0x23 seq (some .notQualified) []) ∧
     (may → (y = none ∨ y ≠ z) → ¬busy →
       (∀ d op, y = some d → s.attachedAt d = some op → 2 ≤ s.effectiveLevel op a) →
       s.moveRefusal c o a y z = none)) ∧
  (∀ (seq : Byte) (w : Acting) (x x1 x2 : Byte) (c : Console) (o : Option Operator) (a : Area) (y z : Option Console)
     (s : State),
     s.linkReady = true → decodeEngineer w = some (c, o) → decodeNumber 12 x = some a → decodeOwner x1 = some y →
     decodeOwner x2 = some z → s.moveRefusal c o a y z = none →
     (s.cfg.areas[a].owner = y → s.cfg.areas[a].fallback = z →
       ∃ t, exec (.moveArea seq w x x1 x2) s = .next t ∧
         onlyAnswered s t 0x23 seq none [byteOf a.val, byteOf (consoleCode y), byteOf (consoleCode z)]) ∧
     (s.cfg.areas[a].owner ≠ y ∨ s.cfg.areas[a].fallback ≠ z →
       ∃ t, exec (.moveArea seq w x x1 x2) s = .next t ∧
         t.cfg = { s.cfg with areas := upd s.cfg.areas a fun k => { k with owner := y, fallback := z } } ∧
         rerouted s t ∧ stored s t ∧ marked t [.area a] ∧
         (∀ d : Console, t.consoles[d].hornFault = s.consoles[d].hornFault ∧ t.consoles[d].underQualified =
           if s.cfg.areas[a].owner ≠ y ∧ (s.cfg.areas[a].owner = some d ∨ y = some d) then t.deriveUnderQualified d
           else s.consoles[d].underQualified) ∧
         accepted s t 0x23 seq [byteOf a.val, byteOf (consoleCode y), byteOf (consoleCode z)]
           (storeParts ++ [.table, .routes, .flags])))

/-! ### The calendar day and the roster (chapter 7) -/

/-- R120: SET_DAY refuses day 0; another day is held, each slot whose expired state changes is marked, and the
under-qualified flag is re-derived wherever someone is in charge; no session, record or stored content changes. The
last clause says when the derived flag is yes (R124): someone is in charge, ATTACHED or DETACHED, whose effective level
is below OPERATE in some area the console owns. -/
def Obligations.SetDayRederivesTheFlags : Prop :=
  (∀ (seq : Byte) (d : Half) (s : State), s.linkReady = true →
    (d = 0 → ∃ t, exec (.setDay seq d) s = .next t ∧ onlyAnswered s t 0x03 seq (some .badValue) []) ∧
    (d ≠ 0 → d.toNat = s.day →
      ∃ t, exec (.setDay seq d) s = .next t ∧ onlyAnswered s t 0x03 seq none [byteOf (d.toNat / 256), byteOf d.toNat]) ∧
    (d ≠ 0 → d.toNat ≠ s.day →
      ∃ t, exec (.setDay seq d) s = .next t ∧ t.day = d.toNat ∧
        (∀ (o : Operator) (r : OperatorRecord) (e : Nat), s.cfg.roster[o] = some r → r.expiry = some e →
          ¬(s.day ≠ 0 ∧ e < s.day ↔ e < d.toNat) → marked t [.operator o]) ∧
        (∀ c : Console, t.consoles[c].hornFault = s.consoles[c].hornFault ∧ t.consoles[c].underQualified =
          if (s.consoles[c].session.inCharge).isSome then t.deriveUnderQualified c
          else s.consoles[c].underQualified) ∧
        (∀ c : Console, t.consoles[c].underQualified ≠ s.consoles[c].underQualified → marked t [.console c]) ∧
        accepted s t 0x03 seq [byteOf (d.toNat / 256), byteOf d.toNat] [.day, .flags])) ∧
  ∀ (s : State) (c : Console), s.deriveUnderQualified c = true ↔
    ∃ o, (s.consoles[c].session = .attached o ∨ ∃ g, s.consoles[c].session = .detached o g) ∧
      ∃ a : Area, s.cfg.areas[a].owner = some c ∧ s.effectiveLevel o a < 2

/-- R126 to R129: ROSTER_WRITE is refused by the first of its checks that fails, in the order of R128; an accepted
one writes the named slot, or the lowest empty one for slot 0, keeps the status of a slot it replaces, re-derives the
flag where the slot is in charge and writes the store once; one that changes nothing is only answered. The last
clauses spell the checks: SUPERVISOR in every area of R127's set, or in some area where the set is empty; a free slot;
the slot's own badge; a badge no other slot holds. A store write is spelled by `stored`, with the choices of log
entries 3, 4, 5 and 13. -/
def Obligations.RosterWriteStoresTheRecord : Prop :=
  (∀ (seq : Byte) (w : Acting) (x : Byte) (b : Badge) (g : Vector Byte 12) (e : Half) (c : Console)
     (o named : Option Operator) (grants : Vector Level 12) (s : State),
     s.linkReady = true → decodeEngineer w = some (c, o) → decodeOperatorOrNone x = some named → b ≠ 0 →
     decodeGrants g = some grants →
     (∀ z, s.rosterWriteRefusal c o named b grants (decodeExpiry e) = some z →
       ∃ t, exec (.rosterWrite seq w x b g e) s = .next t ∧ onlyAnswered s t 0x28 seq (some z) []) ∧
     (s.rosterWriteRefusal c o named b grants (decodeExpiry e) = none →
       ∀ (slot : Operator) (r : OperatorRecord),
         (named = some slot ∨
           named = none ∧ s.cfg.roster[slot] = none ∧ ∀ q : Operator, q < slot → s.cfg.roster[q] ≠ none) →
         r = { badge := b, grants := grants, expiry := decodeExpiry e,
               status := match s.cfg.roster[slot] with
                 | some q => q.status
                 | none => .active } →
         (s.cfg.roster[slot] = some r →
           ∃ t, exec (.rosterWrite seq w x b g e) s = .next t ∧ onlyAnswered s t 0x28 seq none (rosterBytes slot r)) ∧
         (s.cfg.roster[slot] ≠ some r →
           ∃ t, exec (.rosterWrite seq w x b g e) s = .next t ∧
             t.cfg = { s.cfg with roster := s.cfg.roster.set slot.val (some r) slot.isLt } ∧ stored s t ∧
             marked t [.operator slot] ∧
             (∀ d : Console, t.consoles[d].hornFault = s.consoles[d].hornFault ∧ t.consoles[d].underQualified =
               if s.consoles[d].session.inCharge = some slot then t.deriveUnderQualified d
               else s.consoles[d].underQualified) ∧
             accepted s t 0x28 seq (rosterBytes slot r) (storeParts ++ [.flags])))) ∧
  (∀ (slot : Operator) (r : OperatorRecord), (rosterBytes slot r).length = 18 ∧
     rosterLayout slot r 0 1 4 (rosterBytes slot r)) ∧
  (∀ (s : State) (c : Console) (o named : Option Operator) (old : Option OperatorRecord) (b : Badge)
     (grants : Vector Level 12) (e : Option Nat) (may : Prop),
     (old = named.bind fun q => s.cfg.roster[q]) →
     (may ↔ s.mayEngineer c o fun op => s.levelIn op 4 (rosterNeeds old grants e)) →
     (¬may → s.rosterWriteRefusal c o named b grants e = some .noAuthority) ∧
     (may → named = none → (∀ slot : Operator, s.cfg.roster[slot] ≠ none) →
       s.rosterWriteRefusal c o named b grants e = some .rosterFull) ∧
     (may → ∀ slot r, named = some slot → s.cfg.roster[slot] = some r → r.badge ≠ b →
       s.rosterWriteRefusal c o named b grants e = some .badValue) ∧
     (may → ∀ slot : Operator,
       (named = some slot ∨
         named = none ∧ s.cfg.roster[slot] = none ∧ ∀ q : Operator, q < slot → s.cfg.roster[q] ≠ none) →
       (∀ q r, named = some q → s.cfg.roster[q] = some r → r.badge = b) →
       ((∃ q r, q ≠ slot ∧ s.cfg.roster[q] = some r ∧ r.badge = b) →
         s.rosterWriteRefusal c o named b grants e = some .badgeInUse) ∧
       ((∀ q r, q ≠ slot → s.cfg.roster[q] = some r → r.badge ≠ b) →
         s.rosterWriteRefusal c o named b grants e = none)))

/-- R126, R127, R130, R131, R132, R150, R176: ROSTER_SUSPEND aborts the slot's handovers and ends its sessions with
cause SUSPENDED, and the routes and the records follow where one ends (R12, R13, R109) and stand where none does;
ROSTER_RESTORE makes it ACTIVE; ROSTER_RETIRE, of a slot with no place, empties it and leaves its notes without an
author. Each marks the slot and writes the store once; and what refuses each. They need SUPERVISOR in every area where
the slot's record has a grant, or in some area where it has none. That the answer carries the slot is the
model's reading of R193 (log entry 19): section 7.5 says no more than that it is OK. A store write is spelled by
`stored`, with the choices of log entries 3, 4, 5 and 13. -/
def Obligations.RosterEditsTakeEffect : Prop :=
  (∀ (seq : Byte) (w : Acting) (x : Byte) (c : Console) (o : Option Operator) (slot : Operator) (r : OperatorRecord)
     (s : State),
     s.linkReady = true → decodeEngineer w = some (c, o) → decodeOperator x = some slot → s.mayEditSlot c o slot →
     s.cfg.roster[slot] = some r →
     (r.status = .active →
       ∃ t, exec (.rosterSuspend seq w x) s = .next t ∧
         t.cfg = { s.cfg with roster := s.cfg.roster.set slot.val (some { r with status := .suspended }) slot.isLt } ∧
         stored s t ∧ marked t [.operator slot] ∧
         (∀ d : Console, t.handovers[d] =
           if s.handovers[d].phase.outgoing = some slot ∨ s.handovers[d].phase.incoming = some slot then
             { phase := .none, lastOutcome := some .suspended }
           else s.handovers[d]) ∧
         (∀ d : Console,
           (s.consoles[d].session.inCharge = some slot →
             t.consoles[d].session = .none ∧ t.consoles[d].lastEnd = some .suspended ∧
               t.consoles[d].underQualified = false) ∧
           (s.consoles[d].session.inCharge ≠ some slot →
             t.consoles[d].session = s.consoles[d].session ∧ t.consoles[d].lastEnd = s.consoles[d].lastEnd ∧
               t.consoles[d].underQualified = s.consoles[d].underQualified) ∧
           t.consoles[d].hornFault = s.consoles[d].hornFault) ∧
         ((∃ d : Console, s.consoles[d].session.inCharge = some slot) → rerouted s t) ∧
         ((∀ d : Console, s.consoles[d].session.inCharge ≠ some slot) → routesStand s t) ∧
         (∀ d : Console, s.consoles[d].session.inCharge = some slot → t.consoles[d].link ≠ .off → t.carries d) ∧
         accepted s t 0x29 seq [byteOf (slot.val + 1)]
           (storeParts ++ [.handovers, .sessions, .flags, .routes, .table])) ∧
     (r.status = .suspended →
       ∃ t, exec (.rosterRestore seq w x) s = .next t ∧
         t.cfg = { s.cfg with roster := s.cfg.roster.set slot.val (some { r with status := .active }) slot.isLt } ∧
         stored s t ∧ marked t [.operator slot] ∧ accepted s t 0x2A seq [byteOf (slot.val + 1)] storeParts) ∧
     ((∀ d : Console, s.consoles[d].session.inCharge ≠ some slot ∧ s.handovers[d].phase.incoming ≠ some slot) →
       ∃ t, exec (.rosterRetire seq w x) s = .next t ∧
         t.cfg.roster = s.cfg.roster.set slot.val none slot.isLt ∧
         (∀ n : Note, t.cfg.notes[n] = s.cfg.notes[n].map fun k =>
           if k.author = some slot then { k with author := none } else k) ∧
         t.cfg = { s.cfg with roster := t.cfg.roster, notes := t.cfg.notes } ∧
         stored s t ∧ marked t [.operator slot] ∧ accepted s t 0x2B seq [byteOf (slot.val + 1)] storeParts)) ∧
  (∀ (seq : Byte) (w : Acting) (x : Byte) (c : Console) (o : Option Operator) (slot : Operator) (s : State),
     s.linkReady = true → decodeEngineer w = some (c, o) → decodeOperator x = some slot →
     (¬s.mayEditSlot c o slot →
       (∃ t, exec (.rosterSuspend seq w x) s = .next t ∧ onlyAnswered s t 0x29 seq (some .noAuthority) []) ∧
       (∃ t, exec (.rosterRestore seq w x) s = .next t ∧ onlyAnswered s t 0x2A seq (some .noAuthority) []) ∧
       ∃ t, exec (.rosterRetire seq w x) s = .next t ∧ onlyAnswered s t 0x2B seq (some .noAuthority) []) ∧
     (s.mayEditSlot c o slot → s.cfg.roster[slot] = none →
       (∃ t, exec (.rosterSuspend seq w x) s = .next t ∧ onlyAnswered s t 0x29 seq (some .badValue) []) ∧
       (∃ t, exec (.rosterRestore seq w x) s = .next t ∧ onlyAnswered s t 0x2A seq (some .badValue) []) ∧
       ∃ t, exec (.rosterRetire seq w x) s = .next t ∧ onlyAnswered s t 0x2B seq (some .alreadyDone) []) ∧
     ∀ r, s.mayEditSlot c o slot → s.cfg.roster[slot] = some r →
       (r.status = .suspended →
         ∃ t, exec (.rosterSuspend seq w x) s = .next t ∧ onlyAnswered s t 0x29 seq (some .alreadyDone) []) ∧
       (r.status = .active →
         ∃ t, exec (.rosterRestore seq w x) s = .next t ∧ onlyAnswered s t 0x2A seq (some .alreadyDone) []) ∧
       ((∃ d : Console, s.consoles[d].session.inCharge = some slot ∨ s.handovers[d].phase.incoming = some slot) →
         ∃ t, exec (.rosterRetire seq w x) s = .next t ∧ onlyAnswered s t 0x2B seq (some .inSession) []))

/-! ### Links, windows and sessions (chapter 8) -/

/-- What a fail of the window test leaves (R138, R140, R141, R152): the count two higher, to at most the fail limit
plus one, and a window from a given start; an UP link whose count then reaches the limit is LOST, its handover
aborted LINK_LOST, its session on grace, and the routes and the records follow (R12, R13, R109). Otherwise routes and
records stand. A horn fault newly reported with it is then heard (R91): no rule orders the two, and that order is the
model's choice (log entry 15). -/
def Sys2Proof.Machine.windowFailed (s t : State) (c : Console) (start : Nat) (newFault : Bool) : Prop :=
  t.consoles[c].count = min (s.consoles[c].count + 2) (s.cfg.params.failLimit + 1) ∧
    otherConsolesSame (fun k => (k.link, k.count, k.session, k.lastEnd, k.underQualified)) s t c ∧
    t.consoles[c].lastEnd = s.consoles[c].lastEnd ∧ t.consoles[c].underQualified = s.consoles[c].underQualified ∧
    if s.linkUp c = true ∧ s.cfg.params.failLimit ≤ t.consoles[c].count then
      t.consoles[c].link = .lost (s.newWindow start) ∧
        (∀ o, s.consoles[c].session = .attached o →
          t.consoles[c].session = .detached o (s.partTime + 10 * s.cfg.params.graceTime)) ∧
        (s.attachedAt c = none → t.consoles[c].session = s.consoles[c].session) ∧
        (s.handovers[c].phase.active = true → abortedAt s t c .linkLost) ∧
        (s.handovers[c].phase.active = false → t.handovers = s.handovers) ∧
        reroutedThen s t (heardAt newFault c) ∧ marked t [.console c]
    else
      t.consoles[c].link = s.consoles[c].link.withWindow (s.newWindow start) ∧
        t.consoles[c].session = s.consoles[c].session ∧ t.handovers = s.handovers ∧ t.routes = s.routes ∧
        ∀ i : Slot, t.live[i] = s.live[i].map (heardAt newFault c)

/-- R12, R13, R91, R109, R136 to R138, R140, R141, R142, R152, R176: a window that ends unanswered, and a heartbeat in
the locked part of its window, are fails, the heartbeat with its horn report, taken after the fail (the model's
choice, log entry 15). The first clauses give the window that a start begins (R137), and that a link has a window
while it is UP or LOST. -/
def Obligations.FailsRaiseTheCount : Prop :=
  (∀ (s : State) (x : Nat), s.newWindow x =
    { start := x, lockedEnd := x + s.cfg.params.window * s.cfg.params.lockedPercent / 100,
      finish := x + s.cfg.params.window }) ∧
  (∀ w x : Window, Link.withWindow w (.up x) = .up w ∧ Link.withWindow w (.lost x) = .lost w ∧
    Link.withWindow w .down = .down ∧ Link.withWindow w .off = .off ∧ (Link.up w).window = some w ∧
    (Link.lost w).window = some w ∧ Link.down.window = none ∧ Link.off.window = none) ∧
  (∀ (c : Console) (w : Window) (s : State), s.powered = true → s.consoles[c].link.window = some w →
    w.finish ≤ s.partTime →
    ∃ t, exec (.windowEnd c) s = .next t ∧ windowFailed s t c w.finish false ∧
      changesOnly s t ([.links, .sessions, .handovers, .routes, .table] ++ derivedParts) ∧
      (s.linkUp c = false → changesOnly s t ([.links] ++ derivedParts))) ∧
  ∀ (c : Console) (w : Window) (report : Byte) (s : State), s.hears c = true → s.consoles[c].link.window = some w →
    s.partTime < w.lockedEnd →
    ∃ t, exec (.heartbeat c report) s = .next t ∧
      windowFailed s t c s.partTime (report.getLsbD 0 && !s.consoles[c].hornFault) ∧
      t.portRx = (upd s.portRx c fun x => { x with mode := .hunting }) ∧
      t.consoles[c].hornFault = (s.consoles[c].hornFault || report.getLsbD 0) ∧
      (report.getLsbD 0 = true → s.consoles[c].hornFault = false → faultHeard t c) ∧
      otherConsolesSame (fun k => k.hornFault) s t c ∧
      changesOnly s t ([.links, .sessions, .handovers, .routes, .table, .flags, .portReceivers] ++ derivedParts)

/-- R12, R13, R91, R109, R139, R140, R142, R144, R145, R154: a heartbeat in the open part lowers the count by one and
restarts the window; at a DOWN console, and at a LOST one whose count falls to 0, the link comes UP, a session on
grace is ATTACHED again, and the routes follow. Each is answered with a telegram. A horn fault newly reported with it
is heard after this (the model's choice, log entry 15). -/
def Obligations.HeartbeatsBringTheLinkUp : Prop :=
  ((∀ (o : Operator) (g : Nat), (Session.detached o g).reattach = .attached o) ∧
    (∀ o : Operator, (Session.attached o).reattach = .attached o) ∧ Session.none.reattach = .none) ∧
  ∀ (c : Console) (report : Byte) (s : State), s.hears c = true →
    (∀ w, s.consoles[c].link.window = some w → w.lockedEnd ≤ s.partTime →
      s.linkUp c = true ∨ 1 < s.consoles[c].count →
      ∃ t, exec (.heartbeat c report) s = .next t ∧ t.consoles[c].count = s.consoles[c].count - 1 ∧
        t.consoles[c].link = s.consoles[c].link.withWindow (s.newWindow s.partTime) ∧
        otherConsolesSame (fun k => (k.link, k.count)) s t c ∧
        t.portRx = (upd s.portRx c fun x => { x with mode := .hunting }) ∧ t.carries c ∧
        t.consoles[c].hornFault = (s.consoles[c].hornFault || report.getLsbD 0) ∧
        (∀ d : Console, t.consoles[d].underQualified = s.consoles[d].underQualified) ∧
        otherConsolesSame (fun k => k.hornFault) s t c ∧
        (∀ i : Slot, t.live[i] = s.live[i].map (heardAt (report.getLsbD 0 && !s.consoles[c].hornFault) c)) ∧
        (report.getLsbD 0 = true → s.consoles[c].hornFault = false → faultHeard t c) ∧
        changesOnly s t ([.links, .flags, .table, .portReceivers] ++ derivedParts)) ∧
    ((s.consoles[c].link = .down ∨
        ∃ w, s.consoles[c].link = .lost w ∧ w.lockedEnd ≤ s.partTime ∧ s.consoles[c].count ≤ 1) →
      ∃ t, exec (.heartbeat c report) s = .next t ∧ t.consoles[c].count = 0 ∧
        t.consoles[c].link = .up (s.newWindow s.partTime) ∧ t.consoles[c].session = s.consoles[c].session.reattach ∧
        otherConsolesSame (fun k => (k.link, k.count, k.session)) s t c ∧
        (∀ d : Console, t.consoles[d].lastEnd = s.consoles[d].lastEnd ∧
          t.consoles[d].underQualified = s.consoles[d].underQualified) ∧
        t.portRx = (upd s.portRx c fun x => { x with mode := .hunting }) ∧ t.carries c ∧
        t.consoles[c].hornFault = (s.consoles[c].hornFault || report.getLsbD 0) ∧
        otherConsolesSame (fun k => k.hornFault) s t c ∧
        reroutedThen s t (heardAt (report.getLsbD 0 && !s.consoles[c].hornFault) c) ∧
        (report.getLsbD 0 = true → s.consoles[c].hornFault = false → faultHeard t c) ∧
        changesOnly s t ([.links, .sessions, .flags, .table, .routes, .portReceivers] ++ derivedParts))

/-- R145, R147, R195: when the telegram in flight has gone, the waiting one follows it while the link is UP or LOST,
and waits on otherwise; a good telegram of an undefined kind, code or length has outcome BAD_REQUEST; at a console
whose link is not UP, keys, badges and undefined telegrams are ignored but for the receiver's own state. A panel-state
telegram is sent in the eight bytes of 11.4, its cadence as R94 gives it; and the bodies of heartbeats, keys and
badges, beside which every body is undefined (R195). -/
def Obligations.PanelTelegrams : Prop :=
  (∀ x : Telegram, telegramLayout x x.bytes) ∧
  (∀ (c : Console) (x y z : Byte), decodeTelegram c [1, x] = .heartbeat c x ∧
    decodeTelegram c [2, 1] = .ackKey c ∧ decodeTelegram c [2, 2] = .silenceKey c ∧
    decodeTelegram c [2, 3] = .resetKey c ∧ decodeTelegram c [2, 4] = .handoverKey c ∧
    decodeTelegram c [2, 5] = .seenKey c ∧ decodeTelegram c [2, 6] = .acceptKey c ∧
    decodeTelegram c [2, 7] = .signOutKey c ∧ decodeTelegram c [3, x, y, z] = .badge c (x ++ y ++ z)) ∧
  (∀ (c : Console) (body : List Byte), decodeTelegram c body = .undefinedTelegram c body ↔
    (∀ x, body ≠ [1, x]) ∧ (∀ x, body = [2, x] → x = 0 ∨ 7 < x.toNat) ∧ ∀ x y z, body ≠ [3, x, y, z]) ∧
  ((∀ (c : Console) (x : Telegram) (s : State), s.powered = true → s.consoles[c].inFlight = some x →
     ∃ t, exec (.telegramSent c) s = .next t ∧
       (s.consoles[c].link.window.isSome = true →
         t.consoles[c].inFlight = s.consoles[c].pendingTelegram ∧ t.consoles[c].pendingTelegram = none) ∧
       (s.consoles[c].link.window = none →
         t.consoles[c].inFlight = none ∧ t.consoles[c].pendingTelegram = s.consoles[c].pendingTelegram) ∧
       otherConsolesSame (fun k => (k.inFlight, k.pendingTelegram)) s t c ∧ changesOnly s t [.telegrams]) ∧
   ∀ (c : Console) (s : State), s.powered = true → s.consoles[c].inFlight = none →
     ∃ t, exec (.telegramSent c) s = .next t ∧ changesOnly s t []) ∧
  (∀ (c : Console) (body : List Byte) (s : State), decodeTelegram c body = .undefinedTelegram c body →
     s.hears c = true → s.linkUp c = true →
     ∃ t, exec (.undefinedTelegram c body) s = .next t ∧ outcomeAt s t c .undefinedTelegram (some .badRequest) ∧
       changesOnly s t [.portReceivers, .results, .telegrams]) ∧
  (∀ (c : Console) (i : Instr) (s : State), s.linkUp c = false →
     (i = .ackKey c ∨ i = .silenceKey c ∨ i = .resetKey c ∨ i = .handoverKey c ∨ i = .seenKey c ∨ i = .acceptKey c ∨
       i = .signOutKey c ∨ (∃ n, i = .badge c n) ∨ (∃ body, i = .undefinedTelegram c body)) →
     ∃ t, exec i s = .next t ∧ changesOnly s t [.portReceivers])

/-- R116, R123, R148, R149: a badge at a console without an operator in charge signs its holder in, if the holder is
ACTIVE, not engaged elsewhere and qualified for the desk; a session the holder has on grace elsewhere ends MOVED, the
flag is derived and the routes follow; and what a badge is refused for. The first clauses say which slot holds a badge
(R116), none holding 0, and who is qualified for a desk (R123): OPERATE in every area it owns, or VIEW in some area
where it owns none. -/
def Obligations.BadgeSignsIn : Prop :=
  (∀ (s : State) (n : Badge),
     (∀ o r, s.holderOf n = some (o, r) → n ≠ 0 ∧ s.cfg.roster[o] = some r ∧ r.badge = n) ∧
     (s.holderOf n = none ↔ n = 0 ∨ ∀ (o : Operator) (r : OperatorRecord), s.cfg.roster[o] = some r → r.badge ≠ n)) ∧
  (∀ (s : State) (o : Operator) (c : Console),
     ((∃ a : Area, s.cfg.areas[a].owner = some c) →
       (s.qualifies o c = true ↔ ∀ a : Area, s.cfg.areas[a].owner = some c → 2 ≤ s.effectiveLevel o a)) ∧
     ((∀ a : Area, s.cfg.areas[a].owner ≠ some c) →
       (s.qualifies o c = true ↔ ∃ a : Area, 1 ≤ s.effectiveLevel o a))) ∧
  (∀ (c : Console) (n : Badge) (o : Operator) (r : OperatorRecord) (s : State), s.hears c = true → s.linkUp c = true →
     s.consoles[c].session = .none → s.holderOf n = some (o, r) → r.status = .active →
     (∀ d : Console, s.handovers[d].phase.incoming ≠ some o ∧ (d ≠ c → s.attachedAt d ≠ some o)) →
     s.qualifies o c = true →
     ∃ t, exec (.badge c n) s = .next t ∧ t.consoles[c].session = .attached o ∧
       t.consoles[c].lastEnd = s.consoles[c].lastEnd ∧ t.consoles[c].underQualified = t.deriveUnderQualified c ∧
       (∀ d : Console, d ≠ c → ∀ g, s.consoles[d].session = .detached o g →
         t.consoles[d].session = .none ∧ t.consoles[d].lastEnd = some .moved ∧ t.consoles[d].underQualified = false ∧
           marked t [.console d] ∧ (t.consoles[d].link ≠ .off → t.carries d)) ∧
       (∀ d : Console, d ≠ c → (∀ g, s.consoles[d].session ≠ .detached o g) →
         t.consoles[d].session = s.consoles[d].session ∧ t.consoles[d].lastEnd = s.consoles[d].lastEnd ∧
           t.consoles[d].underQualified = s.consoles[d].underQualified) ∧
       (∀ d : Console, t.consoles[d].hornFault = s.consoles[d].hornFault) ∧
       rerouted s t ∧ marked t [.console c, .operator o] ∧
       keyed s t c .badge none [.sessions, .flags, .routes, .table]) ∧
  (∀ (c : Console) (n : Badge) (s : State), s.hears c = true → s.linkUp c = true →
     (s.consoles[c].session = .none → s.holderOf n = none →
       ∃ t, exec (.badge c n) s = .next t ∧ keyed s t c .badge (some .unknownBadge) []) ∧
     (∀ o r, s.consoles[c].session = .none → s.holderOf n = some (o, r) →
       (r.status = .suspended →
         ∃ t, exec (.badge c n) s = .next t ∧ keyed s t c .badge (some .suspended) []) ∧
       (r.status = .active →
         (∃ d : Console, s.handovers[d].phase.incoming = some o ∨ d ≠ c ∧ s.attachedAt d = some o) →
         ∃ t, exec (.badge c n) s = .next t ∧ keyed s t c .badge (some .alreadySignedIn) []) ∧
       (r.status = .active →
         (∀ d : Console, s.handovers[d].phase.incoming ≠ some o ∧ (d ≠ c → s.attachedAt d ≠ some o)) →
         s.qualifies o c = false →
         ∃ t, exec (.badge c n) s = .next t ∧ keyed s t c .badge (some .notQualified) [])) ∧
     (∀ o r, s.consoles[c].session.inCharge = some o → s.cfg.roster[o] = some r →
       (r.badge = n → ∃ t, exec (.badge c n) s = .next t ∧ keyed s t c .badge (some .alreadySignedIn) []) ∧
       (r.badge ≠ n → (∀ p d l, s.handovers[c].phase ≠ .offered p d l) →
         ∃ t, exec (.badge c n) s = .next t ∧ keyed s t c .badge (some .consoleOccupied) [])))

/-- R150, R151, R153, R154: a session ends by the SIGN-OUT key or SIGN_OUT at a desk that owns no area, by the end of
its grace, or by FORCE_SIGN_OUT, which aborts the desk's handover first and needs SUPERVISOR in every area the desk
owns, or in some area where it owns none; and what refuses each. -/
def Obligations.SessionsEnd : Prop :=
  ((∀ (c : Console) (o : Operator) (s : State), s.hears c = true → s.linkUp c = true → s.attachedAt c = some o →
     s.handovers[c].phase.inReview = false → (∀ a : Area, s.cfg.areas[a].owner ≠ some c) →
     ∃ t, exec (.signOutKey c) s = .next t ∧ sessionEnded s t c o .signedOut ∧
       keyed s t c (.key .signOut) none [.sessions, .flags, .routes, .table]) ∧
   (∀ (seq : Byte) (w : Acting) (c : Console) (o : Operator) (s : State), s.linkReady = true →
     decodePerson w = some (c, o) → s.handovers[c].phase.incoming ≠ some o → s.attachedAt c = some o →
     (∀ a : Area, s.cfg.areas[a].owner ≠ some c) →
     ∃ t, exec (.signOut seq w) s = .next t ∧ sessionEnded s t c o .signedOut ∧
       accepted s t 0x34 seq [] [.sessions, .flags, .routes, .table]) ∧
   (∀ (c : Console) (o : Operator) (g : Nat) (s : State), s.powered = true → s.consoles[c].session = .detached o g →
     g ≤ s.partTime →
     ∃ t, exec (.graceEnd c) s = .next t ∧ sessionEnded s t c o .graceExpired ∧
       changesOnly s t ([.sessions, .flags, .routes, .table] ++ derivedParts)) ∧
   ∀ (seq : Byte) (w : Acting) (x : Byte) (c d : Console) (o q : Operator) (s : State), s.linkReady = true →
     decodePerson w = some (c, o) → decodeNumber 8 x = some d → s.attachedAt c = some o →
     (s.levelIn o 4 fun a => s.cfg.areas[a].owner = some d) → s.consoles[d].session.inCharge = some q →
     ∃ t, exec (.forceSignOut seq w x) s = .next t ∧ sessionEnded s t d q .forced ∧
       (s.handovers[d].phase.active = true → abortedAt s t d .forced) ∧
       (s.handovers[d].phase.active = false → t.handovers = s.handovers) ∧
       accepted s t 0x35 seq [] [.sessions, .flags, .routes, .table, .handovers]) ∧
  ((∀ (c : Console) (s : State), s.hears c = true → s.linkUp c = true → s.handovers[c].phase.inReview = false →
     (s.attachedAt c = none →
       ∃ t, exec (.signOutKey c) s = .next t ∧ keyed s t c (.key .signOut) (some .notStaffed) []) ∧
     ((s.attachedAt c).isSome = true → (∃ a : Area, s.cfg.areas[a].owner = some c) →
       ∃ t, exec (.signOutKey c) s = .next t ∧ keyed s t c (.key .signOut) (some .handoverRequired) [])) ∧
   (∀ (seq : Byte) (w : Acting) (c : Console) (o : Operator) (s : State), s.linkReady = true →
     decodePerson w = some (c, o) → s.handovers[c].phase.incoming ≠ some o →
     (s.attachedAt c = none →
       ∃ t, exec (.signOut seq w) s = .next t ∧ onlyAnswered s t 0x34 seq (some .notStaffed) []) ∧
     (∀ q, s.attachedAt c = some q → q ≠ o →
       ∃ t, exec (.signOut seq w) s = .next t ∧ onlyAnswered s t 0x34 seq (some .notInCharge) []) ∧
     (s.attachedAt c = some o → (∃ a : Area, s.cfg.areas[a].owner = some c) →
       ∃ t, exec (.signOut seq w) s = .next t ∧ onlyAnswered s t 0x34 seq (some .handoverRequired) [])) ∧
   ∀ (seq : Byte) (w : Acting) (x : Byte) (c d : Console) (o : Operator) (s : State), s.linkReady = true →
     decodePerson w = some (c, o) → decodeNumber 8 x = some d →
     (s.attachedAt c ≠ some o ∨ ¬(s.levelIn o 4 fun a => s.cfg.areas[a].owner = some d) →
       ∃ t, exec (.forceSignOut seq w x) s = .next t ∧ onlyAnswered s t 0x35 seq (some .noAuthority) []) ∧
     (s.attachedAt c = some o → (s.levelIn o 4 fun a => s.cfg.areas[a].owner = some d) → s.consoles[d].session = .none →
       ∃ t, exec (.forceSignOut seq w x) s = .next t ∧ onlyAnswered s t 0x35 seq (some .alreadyDone) []))

/-- R126, R155, R156: PORT_RESTART puts an enabled console DOWN with its records cleared, its handover aborted
RESTART and its session on grace; of an OFF port it is WRONG_STATE. PORT_ENABLE of a disabled port puts it DOWN, and
of an enabled one without a session OFF, in one store write. The routes follow each; without SUPERVISOR in some area
each is NO_AUTHORITY. That a port going OFF has its receiver HUNTING at once is the model's reading (log entry 17),
and what a restart leaves pending is its reading too (log entry 23); the answer's data is log entry 19's. A store
write is spelled by `stored`, with the choices of log entries 3, 4, 5 and 13. -/
def Obligations.PortsRestartAndToggle : Prop :=
  ∀ (seq : Byte) (w : Acting) (x : Byte) (c d : Console) (o : Option Operator) (s : State), s.linkReady = true →
    decodeEngineer w = some (c, o) → decodeNumber 8 x = some d →
    (¬s.mayEngineer c o (s.levelSomewhere · 4) →
      (∃ t, exec (.portRestart seq w x) s = .next t ∧ onlyAnswered s t 0x27 seq (some .noAuthority) []) ∧
      ∀ y on, decodeFlag y = some on →
        ∃ t, exec (.portEnable seq w x y) s = .next t ∧ onlyAnswered s t 0x26 seq (some .noAuthority) []) ∧
    (s.mayEngineer c o (s.levelSomewhere · 4) → s.consoles[d].link = .off →
      ∃ t, exec (.portRestart seq w x) s = .next t ∧ onlyAnswered s t 0x27 seq (some .wrongState) []) ∧
    (s.mayEngineer c o (s.levelSomewhere · 4) → s.consoles[d].link ≠ .off →
      ∃ t, exec (.portRestart seq w x) s = .next t ∧ t.consoles[d].link = .down ∧ t.consoles[d].count = 0 ∧
        t.consoles[d].hornFault = false ∧ t.consoles[d].resultNumber = 0 ∧ t.consoles[d].lastResult = none ∧
        t.consoles[d].inFlight = none ∧
        (t.consoles[d].pendingTelegram = none ∨ t.consoles[d].pendingTelegram = some (t.telegramOf d)) ∧
        (s.consoles[d].link ≠ .down → t.consoles[d].pendingTelegram = some (t.telegramOf d)) ∧
        t.consoles[d].underQualified = s.consoles[d].underQualified ∧
        t.consoles[d].lastEnd = s.consoles[d].lastEnd ∧
        (∀ q, s.consoles[d].session = .attached q →
          t.consoles[d].session = .detached q (s.partTime + 10 * s.cfg.params.graceTime)) ∧
        (s.attachedAt d = none → t.consoles[d].session = s.consoles[d].session) ∧
        (s.handovers[d].phase.active = true → abortedAt s t d .restart) ∧
        (s.handovers[d].phase.active = false → t.handovers = s.handovers) ∧
        otherConsolesSame (fun k => (k.link, k.count, k.session, k.lastEnd, k.hornFault, k.underQualified,
          k.resultNumber, k.lastResult)) s t d ∧
        rerouted s t ∧ marked t [.console d] ∧
        accepted s t 0x27 seq [] [.links, .sessions, .flags, .results, .handovers, .routes, .table]) ∧
    (∀ y on, s.mayEngineer c o (s.levelSomewhere · 4) → decodeFlag y = some on →
      (s.cfg.enabled[d] = on →
        ∃ t, exec (.portEnable seq w x y) s = .next t ∧
          onlyAnswered s t 0x26 seq none [byteOf d.val, byteOf (flagCode on)]) ∧
      (s.cfg.enabled[d] ≠ on → on = true ∨ s.consoles[d].session = .none →
        ∃ t, exec (.portEnable seq w x y) s = .next t ∧
          t.cfg = { s.cfg with enabled := s.cfg.enabled.set d.val on d.isLt } ∧ stored s t ∧
          t.consoles[d].link = (if on then .down else .off) ∧ t.consoles[d].count = 0 ∧
          (on = false → t.consoles[d].hornFault = false ∧ t.consoles[d].resultNumber = 0 ∧
            t.consoles[d].lastResult = none ∧ t.consoles[d].inFlight = none ∧ t.consoles[d].pendingTelegram = none ∧
            t.portRx[d].mode = .hunting) ∧
          otherConsolesSame (fun k => (k.link, k.count, k.hornFault, k.resultNumber, k.lastResult)) s t d ∧
          (∀ q : Console, t.consoles[q].underQualified = s.consoles[q].underQualified) ∧ rerouted s t ∧
          accepted s t 0x26 seq [byteOf d.val, byteOf (flagCode on)]
            (storeParts ++ [.links, .flags, .results, .portReceivers, .routes, .table])) ∧
      (s.cfg.enabled[d] = true → on = false → s.consoles[d].session ≠ .none →
        ∃ t, exec (.portEnable seq w x y) s = .next t ∧ onlyAnswered s t 0x26 seq (some .inSession) []))

/-! ### Notes and handovers (chapter 9) -/

/-- R158 to R161, R172: NOTE_ENTER stores, in the lowest empty slot, the text cut to 48 characters with "?" for what
is no printing character, and appends the note to the list of the handover of its area's owner; NOTE_CLEAR, by the
author, by LEAD in the note's area or without an author in the commissioning state, empties the slot and drops the
item. That the answer of NOTE_CLEAR carries the note is the model's reading of R193 (log entry 19): R161 says no more
than that it is OK. A store write is spelled by `stored`, with the choices of log entries 3, 4, 5 and 13. -/
def Obligations.NotesAreEnteredAndCleared : Prop :=
  (∀ (s : State) (n : Note), s.lowestFreeNote = some n ↔
    s.cfg.notes[n] = none ∧ ∀ m : Note, m < n → s.cfg.notes[m] ≠ none) ∧
  (∀ text : List Byte, noteText text = (text.take 48).map fun b => if 32 ≤ b.toNat ∧ b.toNat ≤ 126 then b else 63) ∧
  (∀ (seq : Byte) (w : Acting) (x y : Byte) (text : List Byte) (c : Console) (o : Option Operator) (a : Area)
    (k : NoteKind) (s : State), s.linkReady = true → decodeEngineer w = some (c, o) → decodeNumber 12 x = some a →
    decodeNoteKind y = some k → text.length ≤ 249 →
    (o = none → s.commissioning = true) →
    (∀ op, o = some op → s.attachedAt c = some op ∧ 2 ≤ s.effectiveLevel op a) →
    (text = [] →
      ∃ t, exec (.noteEnter seq w x y text) s = .next t ∧ onlyAnswered s t 0x36 seq (some .badValue) []) ∧
    (text ≠ [] → (∀ n : Note, s.cfg.notes[n] ≠ none) →
      ∃ t, exec (.noteEnter seq w x y text) s = .next t ∧ onlyAnswered s t 0x36 seq (some .notesFull) []) ∧
    (∀ n, text ≠ [] → s.lowestFreeNote = some n →
      ∃ t, exec (.noteEnter seq w x y text) s = .next t ∧
        t.cfg.notes = s.cfg.notes.set n.val
          (some { area := a, kind := k, text := noteText text, author := o, entryDay := s.day }) n.isLt ∧
        t.cfg = { s.cfg with notes := t.cfg.notes } ∧
        (listsAre s t fun d l => joined s a (.note n) d l) ∧ stored s t ∧ marked t [.note n] ∧
        accepted s t 0x36 seq (byteOf n.val :: noteText text) (storeParts ++ [.handovers]))) ∧
  (∀ (seq : Byte) (w : Acting) (x y z : Byte) (text : List Byte) (c : Console) (o : Option Operator) (a : Area)
    (k : NoteKind) (n : Note) (s : State), s.linkReady = true → decodeEngineer w = some (c, o) →
    decodeNumber 12 x = some a → decodeNoteKind y = some k → text.length ≤ 249 → decodeNumber 32 z = some n →
    (o = none → s.commissioning = false →
      (∃ t, exec (.noteEnter seq w x y text) s = .next t ∧ onlyAnswered s t 0x36 seq (some .noAuthority) []) ∧
      ∃ t, exec (.noteClear seq w z) s = .next t ∧ onlyAnswered s t 0x37 seq (some .noAuthority) []) ∧
    ∀ op, o = some op →
      (s.attachedAt c = none →
        (∃ t, exec (.noteEnter seq w x y text) s = .next t ∧ onlyAnswered s t 0x36 seq (some .notStaffed) []) ∧
        ∃ t, exec (.noteClear seq w z) s = .next t ∧ onlyAnswered s t 0x37 seq (some .notStaffed) []) ∧
      (∀ q, s.attachedAt c = some q → q ≠ op →
        (∃ t, exec (.noteEnter seq w x y text) s = .next t ∧ onlyAnswered s t 0x36 seq (some .notInCharge) []) ∧
        ∃ t, exec (.noteClear seq w z) s = .next t ∧ onlyAnswered s t 0x37 seq (some .notInCharge) []) ∧
      (s.attachedAt c = some op → s.effectiveLevel op a < 2 →
        ∃ t, exec (.noteEnter seq w x y text) s = .next t ∧ onlyAnswered s t 0x36 seq (some .levelTooLow) [])) ∧
  ∀ (seq : Byte) (w : Acting) (x : Byte) (c : Console) (o : Option Operator) (n : Note) (s : State),
    s.linkReady = true → decodeEngineer w = some (c, o) → decodeNumber 32 x = some n →
    (o = none → s.commissioning = true) → (∀ op, o = some op → s.attachedAt c = some op) →
    (s.cfg.notes[n] = none →
      ∃ t, exec (.noteClear seq w x) s = .next t ∧ onlyAnswered s t 0x37 seq (some .alreadyDone) []) ∧
    ∀ r, s.cfg.notes[n] = some r →
      ((∃ op, o = some op ∧ r.author ≠ some op ∧ s.effectiveLevel op r.area < 3) →
        ∃ t, exec (.noteClear seq w x) s = .next t ∧ onlyAnswered s t 0x37 seq (some .levelTooLow) []) ∧
      ((∀ op, o = some op → r.author = some op ∨ 3 ≤ s.effectiveLevel op r.area) →
        ∃ t, exec (.noteClear seq w x) s = .next t ∧
          t.cfg = { s.cfg with notes := s.cfg.notes.set n.val none n.isLt } ∧
          (listsAre s t fun _ l => dropped (.note n) l) ∧ stored s t ∧ marked t [.note n] ∧
          accepted s t 0x37 seq [byteOf n.val] (storeParts ++ [.handovers]))

/-- The order of the ALARM items of an offer: priority, then first raised, then point (R167). -/
abbrev Sys2Proof.Machine.listedBefore (x y : Record) : Prop :=
  priorityCode x.priority < priorityCode y.priority ∨ priorityCode x.priority = priorityCode y.priority ∧
    (x.firstRaised < y.firstRaised ∨ x.firstRaised = y.firstRaised ∧ x.point ≤ y.point)

/-- What an offer leaves (R166, R167): the handover in OFFERED under the operator in charge, its deadline the offer
time away, and its list: every live record of the owned areas by priority, first raised and point, then every note of
those areas by number, all unseen and none late. -/
def Sys2Proof.Machine.offeredAt (s t : State) (c : Console) (o : Operator) : Prop :=
  (∃ (alarms : List Record) (notes : List Note),
    alarms.Perm (s.records.filter fun r => s.cfg.areas[r.area].owner = some c) ∧ alarms.Pairwise listedBefore ∧
    (∀ n, n ∈ notes ↔ ∃ r, s.cfg.notes[n] = some r ∧ s.cfg.areas[r.area].owner = some c) ∧
    notes.Pairwise (· < ·) ∧
    ∃ items : List Item, items = (alarms.map fun r => { ref := .alarm r.point, seen := false, late := false }) ++
        (notes.map fun n => { ref := .note n, seen := false, late := false }) ∧
      t.handovers = (upd s.handovers c fun h =>
        { h with phase := .offered o (s.partTime + 10 * s.cfg.params.offerTime) items })) ∧
  marked t [.console c, .handover c]

/-- R164 to R167, R177: the HANDOVER key and HANDOVER_OFFER at a desk without a handover, and what refuses them: no
session, another operator, a handover standing, a flood, no area owned. -/
def Obligations.OffersOpenAHandover : Prop :=
  (∀ (c : Console) (o : Operator) (s : State), s.hears c = true → s.linkUp c = true →
    (s.attachedAt c = none →
      ∃ t, exec (.handoverKey c) s = .next t ∧ keyed s t c (.key .handover) (some .notStaffed) []) ∧
    (s.attachedAt c = some o → s.handovers[c].phase.active = false →
      (s.consoles[c].flooded = true →
        ∃ t, exec (.handoverKey c) s = .next t ∧ keyed s t c (.key .handover) (some .flooded) []) ∧
      (s.consoles[c].flooded = false → (∀ a : Area, s.cfg.areas[a].owner ≠ some c) →
        ∃ t, exec (.handoverKey c) s = .next t ∧ keyed s t c (.key .handover) (some .nothingToDo) []) ∧
      (s.consoles[c].flooded = false → (∃ a : Area, s.cfg.areas[a].owner = some c) →
        ∃ t, exec (.handoverKey c) s = .next t ∧ offeredAt s t c o ∧
          keyed s t c (.key .handover) none [.handovers]))) ∧
  ∀ (seq : Byte) (w : Acting) (c : Console) (o : Operator) (s : State), s.linkReady = true →
    decodePerson w = some (c, o) →
    (s.attachedAt c = none →
      ∃ t, exec (.handoverOffer seq w) s = .next t ∧ onlyAnswered s t 0x38 seq (some .notStaffed) []) ∧
    (∀ q, s.attachedAt c = some q → q ≠ o →
      ∃ t, exec (.handoverOffer seq w) s = .next t ∧ onlyAnswered s t 0x38 seq (some .notInCharge) []) ∧
    (s.attachedAt c = some o →
      (s.handovers[c].phase.active = true →
        ∃ t, exec (.handoverOffer seq w) s = .next t ∧ onlyAnswered s t 0x38 seq (some .handoverBusy) []) ∧
      (s.handovers[c].phase.active = false → s.consoles[c].flooded = true →
        ∃ t, exec (.handoverOffer seq w) s = .next t ∧ onlyAnswered s t 0x38 seq (some .flooded) []) ∧
      (s.handovers[c].phase.active = false → s.consoles[c].flooded = false →
        (∀ a : Area, s.cfg.areas[a].owner ≠ some c) →
        ∃ t, exec (.handoverOffer seq w) s = .next t ∧ onlyAnswered s t 0x38 seq (some .nothingToDo) []) ∧
      (s.handovers[c].phase.active = false → s.consoles[c].flooded = false →
        (∃ a : Area, s.cfg.areas[a].owner = some c) →
        ∃ t, exec (.handoverOffer seq w) s = .next t ∧ offeredAt s t c o ∧ accepted s t 0x38 seq [] [.handovers]))

/-- R116, R123, R148, R150, R168: a badge at a desk with an offer brings its holder in for review, if it is not the
badge of the operator in charge and its holder is ACTIVE, not engaged elsewhere and qualified for the desk; the
review's deadline starts, and a session the holder has on grace elsewhere ends MOVED, with the routes and the records
following (R12, R13, R109); and what a badge is refused for. -/
def Obligations.BadgeBringsTheIncomingIn : Prop :=
  ∀ (c : Console) (n : Badge) (p q : Operator) (d : Nat) (items : List Item) (s : State),
    s.hears c = true → s.linkUp c = true → s.consoles[c].session = .attached q →
    s.handovers[c].phase = .offered p d items → (∀ r, s.cfg.roster[q] = some r → r.badge ≠ n) →
    (∀ (o : Operator) (r : OperatorRecord), s.holderOf n = some (o, r) → r.status = .active →
      (∀ e : Console, s.handovers[e].phase.incoming ≠ some o ∧ (e ≠ c → s.attachedAt e ≠ some o)) →
      s.qualifies o c = true →
      ∃ t, exec (.badge c n) s = .next t ∧
        t.handovers = (upd s.handovers c fun h =>
          { h with phase := .review p o (s.partTime + 10 * s.cfg.params.reviewTime) items }) ∧
        marked t [.operator o, .console c, .handover c] ∧
        (∀ e : Console, (∀ g, s.consoles[e].session ≠ .detached o g) →
          t.consoles[e].session = s.consoles[e].session ∧ t.consoles[e].lastEnd = s.consoles[e].lastEnd ∧
            t.consoles[e].underQualified = s.consoles[e].underQualified) ∧
        (∀ (e : Console) (g : Nat), s.consoles[e].session = .detached o g →
          t.consoles[e].session = .none ∧ t.consoles[e].lastEnd = some .moved ∧
            t.consoles[e].underQualified = false ∧ marked t [.console e] ∧
            (t.consoles[e].link ≠ .off → t.carries e) ∧ rerouted s t) ∧
        (∀ e : Console, t.consoles[e].hornFault = s.consoles[e].hornFault) ∧
        ((∀ (e : Console) (g : Nat), s.consoles[e].session ≠ .detached o g) →
          keyed s t c .badge none [.handovers]) ∧
        keyed s t c .badge none [.handovers, .sessions, .flags, .routes, .table]) ∧
    (s.holderOf n = none →
      ∃ t, exec (.badge c n) s = .next t ∧ keyed s t c .badge (some .unknownBadge) []) ∧
    ∀ (o : Operator) (r : OperatorRecord), s.holderOf n = some (o, r) →
      (r.status = .suspended →
        ∃ t, exec (.badge c n) s = .next t ∧ keyed s t c .badge (some .suspended) []) ∧
      (r.status = .active →
        (∃ e : Console, s.handovers[e].phase.incoming = some o ∨ e ≠ c ∧ s.attachedAt e = some o) →
        ∃ t, exec (.badge c n) s = .next t ∧ keyed s t c .badge (some .alreadySignedIn) []) ∧
      (r.status = .active →
        (∀ e : Console, s.handovers[e].phase.incoming ≠ some o ∧ (e ≠ c → s.attachedAt e ≠ some o)) →
        s.qualifies o c = false →
        ∃ t, exec (.badge c n) s = .next t ∧ keyed s t c .badge (some .notQualified) [])

/-- R169, R176, R177, R178: what aborts a handover: the HANDOVER key and HANDOVER_WITHDRAW (WITHDRAWN), the SIGN-OUT
key in REVIEW and SIGN_OUT naming the incoming operator (INCOMING_LEFT), and the two deadlines. A handover is in
progress in OFFERED and in REVIEW. -/
def Obligations.HandoversAreAborted : Prop :=
  (∀ p : Phase, (p.active = true ↔ p ≠ .none) ∧ (p.inReview = true ↔ ∃ o i d l, p = .review o i d l)) ∧
  (∀ (c : Console) (o : Operator) (s : State), s.hears c = true → s.linkUp c = true → s.attachedAt c = some o →
    s.handovers[c].phase.active = true →
    ∃ t, exec (.handoverKey c) s = .next t ∧ abortedAt s t c .withdrawn ∧
      keyed s t c (.key .handover) none [.handovers]) ∧
  (∀ (seq : Byte) (w : Acting) (c : Console) (o : Operator) (s : State), s.linkReady = true →
    decodePerson w = some (c, o) →
    (s.attachedAt c = none →
      ∃ t, exec (.handoverWithdraw seq w) s = .next t ∧ onlyAnswered s t 0x3B seq (some .notStaffed) []) ∧
    (∀ q, s.attachedAt c = some q → q ≠ o →
      ∃ t, exec (.handoverWithdraw seq w) s = .next t ∧ onlyAnswered s t 0x3B seq (some .notInCharge) []) ∧
    (s.attachedAt c = some o → s.handovers[c].phase.active = false →
      ∃ t, exec (.handoverWithdraw seq w) s = .next t ∧ onlyAnswered s t 0x3B seq (some .wrongState) []) ∧
    (s.attachedAt c = some o → s.handovers[c].phase.active = true →
      ∃ t, exec (.handoverWithdraw seq w) s = .next t ∧ abortedAt s t c .withdrawn ∧
        accepted s t 0x3B seq [] [.handovers])) ∧
  (∀ (c : Console) (s : State), s.hears c = true → s.linkUp c = true → s.handovers[c].phase.inReview = true →
    ∃ t, exec (.signOutKey c) s = .next t ∧ abortedAt s t c .incomingLeft ∧
      keyed s t c (.key .signOut) none [.handovers]) ∧
  (∀ (seq : Byte) (w : Acting) (c : Console) (o : Operator) (s : State), s.linkReady = true →
    decodePerson w = some (c, o) → s.handovers[c].phase.incoming = some o →
    ∃ t, exec (.signOut seq w) s = .next t ∧ abortedAt s t c .incomingLeft ∧
      accepted s t 0x34 seq [] [.handovers]) ∧
  (∀ (c : Console) (o : Operator) (d : Nat) (l : List Item) (s : State), s.powered = true →
    s.handovers[c].phase = .offered o d l → d ≤ s.partTime →
    ∃ t, exec (.offerDeadline c) s = .next t ∧ abortedAt s t c .lapsedOffer ∧
      changesOnly s t ([.handovers] ++ derivedParts)) ∧
  ∀ (c : Console) (o i : Operator) (d : Nat) (l : List Item) (s : State), s.powered = true →
    s.handovers[c].phase = .review o i d l → d ≤ s.partTime →
    ∃ t, exec (.reviewDeadline c) s = .next t ∧ abortedAt s t c .lapsedReview ∧
      changesOnly s t ([.handovers] ++ derivedParts)

/-- R170, R171: the SEEN key marks the first unseen item of a review, HANDOVER_SEEN the item it names for the
incoming operator; and what refuses each. The first clause says what marking an item changes: its seen flag alone. -/
def Obligations.ItemsAreSeen : Prop :=
  (∀ (p : Phase) (ref : ItemRef) (seen : Bool),
    (p.setSeen ref seen).items = (p.items.map fun it => if it.ref = ref then { it with seen := seen } else it) ∧
      phaseCode (p.setSeen ref seen) = phaseCode p ∧ (p.setSeen ref seen).outgoing = p.outgoing ∧
      (p.setSeen ref seen).incoming = p.incoming ∧ (p.setSeen ref seen).deadline = p.deadline) ∧
  (∀ (c : Console) (s : State), s.hears c = true → s.linkUp c = true →
    (s.handovers[c].phase.inReview = false →
      ∃ t, exec (.seenKey c) s = .next t ∧ keyed s t c (.key .seen) (some .wrongState) []) ∧
    (s.handovers[c].phase.inReview = true → (∀ it ∈ s.handovers[c].phase.items, it.seen = true) →
      ∃ t, exec (.seenKey c) s = .next t ∧ keyed s t c (.key .seen) (some .nothingToDo) []) ∧
    (∀ front it back, s.handovers[c].phase.inReview = true →
      s.handovers[c].phase.items = front ++ it :: back → (∀ y ∈ front, y.seen = true) → it.seen = false →
      ∃ t, exec (.seenKey c) s = .next t ∧
        t.handovers = (upd s.handovers c fun h => { h with phase := h.phase.setSeen it.ref true }) ∧
        marked t [.handover c] ∧ keyed s t c (.key .seen) none [.handovers])) ∧
  ∀ (seq : Byte) (w : Acting) (x y : Byte) (c : Console) (o : Operator) (ref : ItemRef) (s : State),
    s.linkReady = true → decodePerson w = some (c, o) → decodeItem x y = some ref →
    (s.handovers[c].phase.inReview = false →
      ∃ t, exec (.handoverSeen seq w x y) s = .next t ∧ onlyAnswered s t 0x39 seq (some .wrongState) []) ∧
    (s.handovers[c].phase.inReview = true → s.handovers[c].phase.incoming ≠ some o →
      ∃ t, exec (.handoverSeen seq w x y) s = .next t ∧ onlyAnswered s t 0x39 seq (some .notInCharge) []) ∧
    (s.handovers[c].phase.incoming = some o →
      ((∀ it ∈ s.handovers[c].phase.items, it.ref ≠ ref) →
        ∃ t, exec (.handoverSeen seq w x y) s = .next t ∧ onlyAnswered s t 0x39 seq (some .badValue) []) ∧
      ((∃ it ∈ s.handovers[c].phase.items, it.ref = ref) →
        (∀ it ∈ s.handovers[c].phase.items, it.ref = ref → it.seen = true) →
        ∃ t, exec (.handoverSeen seq w x y) s = .next t ∧ onlyAnswered s t 0x39 seq (some .alreadyDone) []) ∧
      ((∃ it ∈ s.handovers[c].phase.items, it.ref = ref ∧ it.seen = false) →
        ∃ t, exec (.handoverSeen seq w x y) s = .next t ∧
          t.handovers = (upd s.handovers c fun h => { h with phase := h.phase.setSeen ref true }) ∧
          marked t [.handover c] ∧ accepted s t 0x39 seq [] [.handovers]))

/-- What an accepted accept leaves (R175). -/
def Sys2Proof.Machine.deskAccepted (s t : State) (c : Console) (outgoing incoming : Operator) : Prop :=
  t.consoles[c].session = .attached incoming ∧ t.consoles[c].lastEnd = some .handedOver ∧
    t.consoles[c].underQualified = t.deriveUnderQualified c ∧ t.consoles[c].hornFault = s.consoles[c].hornFault ∧
    otherConsolesSame (fun k => (k.session, k.lastEnd, k.hornFault, k.underQualified)) s t c ∧
    t.handovers = (upd s.handovers c fun _ => { phase := .none, lastOutcome := some .accepted }) ∧
    marked t [.console c, .handover c, .operator outgoing, .operator incoming]

/-- R174, R175: the ACCEPT key and HANDOVER_ACCEPT hand the desk over, once no item is unseen, the desk is not
FLOODED and the incoming operator is qualified; the first check that fails refuses, and outside REVIEW that is
WRONG_STATE. -/
def Obligations.AcceptsHandTheDeskOver : Prop :=
  (∀ (c : Console) (s : State), s.handovers[c].phase.inReview = false →
    (s.hears c = true → s.linkUp c = true →
      ∃ t, exec (.acceptKey c) s = .next t ∧ keyed s t c (.key .accept) (some .wrongState) []) ∧
    ∀ (seq : Byte) (w : Acting) (q : Operator), s.linkReady = true → decodePerson w = some (c, q) →
      ∃ t, exec (.handoverAccept seq w) s = .next t ∧ onlyAnswered s t 0x3A seq (some .wrongState) []) ∧
  ∀ (c : Console) (p o : Operator) (d : Nat) (items : List Item) (refusal : Result) (s : State),
    s.handovers[c].phase = .review p o d items →
    refusal = (if ∃ it ∈ items, it.seen = false then some .itemsUnseen
      else if s.consoles[c].flooded = true then some .flooded
      else if s.qualifies o c = false then some .notQualified else none) →
    (s.hears c = true → s.linkUp c = true →
      (refusal = none →
        ∃ t, exec (.acceptKey c) s = .next t ∧ deskAccepted s t c p o ∧
          keyed s t c (.key .accept) none [.sessions, .flags, .handovers]) ∧
      (refusal ≠ none → ∃ t, exec (.acceptKey c) s = .next t ∧ keyed s t c (.key .accept) refusal [])) ∧
    ∀ (seq : Byte) (w : Acting) (q : Operator), s.linkReady = true → decodePerson w = some (c, q) →
      (q ≠ o →
        ∃ t, exec (.handoverAccept seq w) s = .next t ∧ onlyAnswered s t 0x3A seq (some .notInCharge) []) ∧
      (q = o → refusal = none →
        ∃ t, exec (.handoverAccept seq w) s = .next t ∧ deskAccepted s t c p o ∧
          accepted s t 0x3A seq [] [.sessions, .flags, .handovers]) ∧
      (q = o → refusal ≠ none →
        ∃ t, exec (.handoverAccept seq w) s = .next t ∧ onlyAnswered s t 0x3A seq refusal [])

/-! ### Parameters, reads and the change set (chapter 10) -/

/-- R187 with R84, R102, R136, R164, R30: each parameter takes the values of its range alone, and an OFF that is not
below its ON is stored as half of it. PARAM_WRITE stores an acceptable value in one store write and answers it as
stored; a new fail limit lowers every count above it and loses every UP link at or above it, and the routes and the
records follow where one is lost (R141, R152, R176, R12, R13, R109); new escalation times take the deadlines already
passed; a refused one changes nothing. A store write is spelled by `stored`, with the choices of log entries 3, 4, 5
and 13. -/
def Obligations.ParameterWrites : Prop :=
  (∀ (p q : Params) (x y : Nat),
     (∀ i : Fin 4, p.write (.escalation i) x y = some q ↔
       x ≤ 7200 ∧ y ≤ 7200 ∧ (x = 0 ∨ y = 0 ∨ x < y) ∧
         q = { p with escalation := p.escalation.set i.val { t1 := x, t2 := y } i.isLt }) ∧
     (p.write .floodThresholds x y = some q ↔
       256 ≤ x ∧ q = { p with floodOn := x, floodOff := if y < x then y else x / 2 }) ∧
     (p.write .windowPeriod x y = some q ↔ 10 ≤ x ∧ x ≤ 100 ∧ x % 5 = 0 ∧ q = { p with window := x }) ∧
     (p.write .lockedFraction x y = some q ↔ (x = 0 ∨ x = 25 ∨ x = 50) ∧ q = { p with lockedPercent := x }) ∧
     (p.write .failLimit x y = some q ↔ 4 ≤ x ∧ x ≤ 16 ∧ q = { p with failLimit := x }) ∧
     (p.write .graceTime x y = some q ↔ 30 ≤ x ∧ x ≤ 600 ∧ q = { p with graceTime := x }) ∧
     (p.write .offerTime x y = some q ↔ 60 ≤ x ∧ x ≤ 1800 ∧ q = { p with offerTime := x }) ∧
     (p.write .reviewTime x y = some q ↔ 120 ≤ x ∧ x ≤ 3600 ∧ q = { p with reviewTime := x }) ∧
     ∀ g : Group, p.write (.blankTime g) x y = some q ↔
       1 ≤ x ∧ x ≤ 600 ∧ q = { p with blankTime := p.blankTime.set g.val x g.isLt }) ∧
  ∀ (seq : Byte) (w : Acting) (x : Byte) (m n : Half) (c : Console) (o : Option Operator) (p : Parameter) (s : State),
    s.linkReady = true → decodeEngineer w = some (c, o) → decodeParameter x = some p →
    (¬s.mayEngineer c o (s.levelSomewhere · 4) →
      ∃ t, exec (.paramWrite seq w x m n) s = .next t ∧ onlyAnswered s t 0x25 seq (some .noAuthority) []) ∧
    (s.mayEngineer c o (s.levelSomewhere · 4) → s.cfg.params.write p m.toNat n.toNat = none →
      ∃ t, exec (.paramWrite seq w x m n) s = .next t ∧ onlyAnswered s t 0x25 seq (some .badValue) []) ∧
    ∀ new, s.mayEngineer c o (s.levelSomewhere · 4) → s.cfg.params.write p m.toNat n.toNat = some new →
      (new = s.cfg.params →
        ∃ t, exec (.paramWrite seq w x m n) s = .next t ∧ onlyAnswered s t 0x25 seq none (new.data p)) ∧
      (new ≠ s.cfg.params →
        ∃ t, exec (.paramWrite seq w x m n) s = .next t ∧ t.cfg = { s.cfg with params := new } ∧ stored s t ∧
          ((∀ i, p ≠ .escalation i) → p ≠ .failLimit →
            changesOnly s t (linkParts ++ derivedParts ++ storeParts)) ∧
          (∀ i, p = .escalation i →
            (∀ j : Slot, t.live[j] = s.live[j].map fun r =>
              if priorityCode r.priority = i.val + 1 then
                if escalationReached new s.partTime r then escalated r
                else if reminderReached new s.partTime r then reminded r else r
              else r) ∧
            changesOnly s t (linkParts ++ derivedParts ++ storeParts ++ [.table])) ∧
          (p = .failLimit → ∀ d : Console,
            t.consoles[d].count = min s.consoles[d].count (new.failLimit + 1) ∧
            (∀ z, s.consoles[d].link = .up z →
              t.consoles[d].link = if new.failLimit ≤ t.consoles[d].count then .lost z else .up z) ∧
            (s.linkUp d = false → t.consoles[d].link = s.consoles[d].link) ∧
            (t.consoles[d].link ≠ s.consoles[d].link → marked t [.console d] ∧
              (s.handovers[d].phase.active = true →
                t.handovers[d] = { phase := .none, lastOutcome := some .linkLost }) ∧
              ∀ q, s.consoles[d].session = .attached q →
                t.consoles[d].session = .detached q (s.partTime + 10 * s.cfg.params.graceTime)) ∧
            (t.consoles[d].link = s.consoles[d].link →
              t.consoles[d].session = s.consoles[d].session ∧ t.handovers[d] = s.handovers[d]) ∧
            t.consoles[d].lastEnd = s.consoles[d].lastEnd) ∧
          (p = .failLimit →
            ((∃ d : Console, t.consoles[d].link ≠ s.consoles[d].link) → rerouted s t) ∧
            ((∀ d : Console, t.consoles[d].link = s.consoles[d].link) → routesStand s t)) ∧
          accepted s t 0x25 seq (new.data p)
            (storeParts ++ [.table, .links, .sessions, .handovers, .routes]))

/-- R17, R35, R57, R58, R134, R157, R162, R179, R186, R187, R193: the ten reads of a field in its range answer the
data of their layout, byte by byte as 11.3 lists them, and change nothing but the exchange; and the bytes of an answer
as sent (R193). The model's choices in the layouts: a time that is not there or no longer fits its field (log entry
7), the length and bytes of an empty roster or note slot (log entry 8), the bytes of a place (log entry 20), the kind
of a note in an item (log entry 32). -/
def Obligations.ReadsAnswerTheirData : Prop :=
  (∀ a : Answer, answerLayout a a.body) ∧
  ∀ (seq x y : Byte) (s : State), s.linkReady = true →
    (∀ l, decodeNumber 32 x = some l → lineLayout s l (s.lineData l) ∧
      ∃ t, exec (.readLine seq x) s = .next t ∧ onlyAnswered s t 0x12 seq none (s.lineData l)) ∧
    (∀ a, decodeNumber 12 x = some a → areaLayout s a (s.areaData a) ∧
      ∃ t, exec (.readArea seq x) s = .next t ∧ onlyAnswered s t 0x13 seq none (s.areaData a)) ∧
    (∀ i, decodeNumber 64 x = some i → slotLayout s i (recordBlock i s.live[i]) ∧
      ∃ t, exec (.readRecord seq x) s = .next t ∧ onlyAnswered s t 0x11 seq none (recordBlock i s.live[i])) ∧
    (∀ p, decodeNumber 256 x = some p → pointLayout s p (s.pointData p) ∧
      ∃ t, exec (.readPoint seq x) s = .next t ∧ onlyAnswered s t 0x10 seq none (s.pointData p)) ∧
    (∀ o, decodeOperator x = some o → operatorLayout s o (s.operatorData o) ∧
      ∃ t, exec (.readOperator seq x) s = .next t ∧ onlyAnswered s t 0x15 seq none (s.operatorData o)) ∧
    (∀ c, decodeNumber 8 x = some c → consoleLayout s c (s.consoleData c) ∧
      ∃ t, exec (.readConsole seq x) s = .next t ∧ onlyAnswered s t 0x14 seq none (s.consoleData c)) ∧
    (∀ n, decodeNumber 32 x = some n → noteLayout s n (s.noteData n) ∧
      ∃ t, exec (.readNote seq x) s = .next t ∧ onlyAnswered s t 0x16 seq none (s.noteData n)) ∧
    (∀ c g, decodeNumber 8 x = some c → decodeNumber 6 y = some g → handoverLayout s c g (s.handoverData c g) ∧
      ∃ t, exec (.readHandover seq x y) s = .next t ∧ onlyAnswered s t 0x17 seq none (s.handoverData c g)) ∧
    (∀ p, decodeParameter x = some p → parameterLayout s.cfg.params p (s.cfg.params.data p) ∧
      ∃ t, exec (.readParam seq x) s = .next t ∧ onlyAnswered s t 0x06 seq none (s.cfg.params.data p)) ∧
    statusLayout s s.statusData ∧
    ∃ t, exec (.readStatus seq) s = .next t ∧ onlyAnswered s t 0x04 seq none s.statusData

/-- R184, R185: READ_CHANGES takes the oldest references, up to sixteen, out of the set, keeps them as the last batch
and turns the attention output off with the last of them; the same sequence number again brings the last batch again
and takes nothing. The answer gives how many references it brings, how many are left, and the references by kind and
number (11.3). -/
def Obligations.ChangesAreReadOnce : Prop :=
  (∀ batch left : List Ref, changesLayout batch left (changesData batch left)) ∧
  ∀ (seq : Byte) (s : State), s.linkReady = true →
    ((∀ batch, s.lastBatch ≠ some (seq, batch)) →
      ∃ t, exec (.readChanges seq) s = .next t ∧ t.changeSet = s.changeSet.drop 16 ∧
        t.attention = !(s.changeSet.drop 16).isEmpty ∧ t.lastBatch = some (seq, s.changeSet.take 16) ∧
        answered s t 0x05 seq none (changesData (s.changeSet.take 16) (s.changeSet.drop 16)) ∧
        changesOnly s t (linkParts ++ [.changes, .batch])) ∧
    ∀ batch, s.lastBatch = some (seq, batch) →
      ∃ t, exec (.readChanges seq) s = .next t ∧ onlyAnswered s t 0x05 seq none (changesData batch s.changeSet)
end

