-- ==== Sys2Proof/Laws/Basic.lean ====
section
/-! SUPPORT. Facts about tables, numbered searches, the change set's list and the bytes of numbers. -/

namespace Sys2Proof

theorem upd_get {α : Type} {n : Nat} (v : Vector α n) (i j : Fin n) (f : α → α) :
    (upd v i f)[j.val] = if j = i then f v[i.val] else v[j.val] := by
  by_cases h : j = i
  · subst h; simp [upd]
  · have : i.val ≠ j.val := fun e => h (Fin.ext e.symm)
    simp [upd, this, h]

@[simp] theorem upd_get_same {α : Type} {n : Nat} (v : Vector α n) (i : Fin n) (f : α → α) :
    (upd v i f)[i.val] = f v[i.val] := by simp [upd_get]

theorem upd_get_other {α : Type} {n : Nat} (v : Vector α n) (i j : Fin n) (f : α → α) (h : j ≠ i) :
    (upd v i f)[j.val] = v[j.val] := by simp [upd_get, h]

theorem set_get {α : Type} {n : Nat} (v : Vector α n) (i j : Fin n) (x : α) :
    (v.set i.val x i.isLt)[j.val] = if j = i then x else v[j.val] := by
  by_cases h : j = i
  · subst h; simp
  · have : i.val ≠ j.val := fun e => h (Fin.ext e.symm)
    simp [this, h]

@[simp] theorem mem_numbersWhere {n : Nat} (p : Fin n → Bool) (i : Fin n) : i ∈ numbersWhere p ↔ p i = true := by
  simp [numbersWhere]

theorem nodup_numbersWhere {n : Nat} (p : Fin n → Bool) : (numbersWhere p).Nodup :=
  (List.nodup_finRange n).filter p

theorem lowestWhere_none {n : Nat} (p : Fin n → Bool) : lowestWhere p = none ↔ ∀ i, p i = false := by
  simp [lowestWhere]

theorem lowestWhere_some {n : Nat} {p : Fin n → Bool} {i : Fin n} (h : lowestWhere p = some i) : p i = true := by
  exact List.find?_some h

theorem lowestWhere_least {n : Nat} {p : Fin n → Bool} {i j : Fin n} (h : lowestWhere p = some i) (hj : p j = true) :
    i ≤ j := by
  unfold lowestWhere at h
  rw [List.find?_eq_some_iff_append] at h
  obtain ⟨_, as, bs, hl, hn⟩ := h
  by_contra hlt
  have hlt : j < i := not_le.mp hlt
  have hsorted : (List.finRange n).Pairwise (· < ·) := List.pairwise_lt_finRange n
  have hmem : j ∈ List.finRange n := List.mem_finRange j
  rw [hl] at hmem hsorted
  rcases List.mem_append.mp hmem with hm | hm
  · simpa [hj] using hn j hm
  · rcases List.mem_cons.mp hm with rfl | hm
    · exact lt_irrefl _ hlt
    · have := (List.pairwise_append.mp hsorted).2.1
      exact absurd (List.rel_of_pairwise_cons this hm) (not_lt.mpr hlt.le)

/-! ### Bytes -/

namespace Bytes

theorem half_bytes (h : Half) : half (h.extractLsb' 8 8) (h.extractLsb' 0 8) = h := by
  apply BitVec.eq_of_getLsbD_eq
  intro i hi
  simp only [half, BitVec.getLsbD_append, BitVec.getLsbD_extractLsb']
  split
  · next hlt => simp [hlt]
  · next hge =>
    have e : 8 + (i - 8) = i := by omega
    have : i - 8 < 8 := by omega
    simp [e, this]

theorem badge_bytes (n : Badge) :
    badge (n.extractLsb' 16 8) (n.extractLsb' 8 8) (n.extractLsb' 0 8) = n := by
  apply BitVec.eq_of_getLsbD_eq
  intro i hi
  simp only [badge, BitVec.getLsbD_append, BitVec.getLsbD_extractLsb']
  split
  · next hlt => simp [hlt]
  · split
    · next h1 h2 =>
      have e : 8 + (i - 8) = i := by omega
      have : i - 8 < 8 := by omega
      simp [e, this]
    · next h1 h2 =>
      have e : 16 + (i - 8 - 8) = i := by omega
      have : i - 8 - 8 < 8 := by omega
      simp [e, this]

end Bytes

namespace Machine

/-! ### The change set's list -/

theorem mem_addRef (l : List Ref) (r x : Ref) : x ∈ addRef l r ↔ x ∈ l ∨ x = r := by
  unfold addRef
  split
  · next h =>
    have h' : r ∈ l := by simpa using h
    exact ⟨Or.inl, fun o => o.elim id fun e => e ▸ h'⟩
  · simp

theorem nodup_addRef {l : List Ref} (r : Ref) (h : l.Nodup) : (addRef l r).Nodup := by
  unfold addRef
  split
  · exact h
  · next hr =>
    simp at hr
    rw [List.nodup_append]
    exact ⟨h, List.nodup_singleton r, by intro a ha b hb; simp at hb; subst hb; rintro rfl; exact hr ha⟩

theorem prefix_addRef (l : List Ref) (r : Ref) : l <+: addRef l r := by
  unfold addRef
  split
  · exact List.prefix_rfl
  · exact List.prefix_append l [r]

@[simp] theorem addRefs_nil (l : List Ref) : addRefs l [] = l := rfl

theorem addRefs_cons (l : List Ref) (r : Ref) (rs : List Ref) : addRefs l (r :: rs) = addRefs (addRef l r) rs := rfl

theorem mem_addRefs (l rs : List Ref) (x : Ref) : x ∈ addRefs l rs ↔ x ∈ l ∨ x ∈ rs := by
  induction rs generalizing l with
  | nil => simp
  | cons r rs ih => rw [addRefs_cons, ih, mem_addRef]; simp [or_assoc]

theorem nodup_addRefs {l : List Ref} (rs : List Ref) (h : l.Nodup) : (addRefs l rs).Nodup := by
  induction rs generalizing l with
  | nil => exact h
  | cons r rs ih => exact ih (nodup_addRef r h)

theorem prefix_addRefs (l rs : List Ref) : l <+: addRefs l rs := by
  induction rs generalizing l with
  | nil => exact List.prefix_rfl
  | cons r rs ih => exact (prefix_addRef l r).trans (ih _)

theorem addRefs_ne_nil {l rs : List Ref} (h : rs ≠ []) : addRefs l rs ≠ [] := by
  obtain ⟨r, hr⟩ := List.exists_mem_of_ne_nil rs h
  exact List.ne_nil_of_mem ((mem_addRefs l rs r).mpr (Or.inr hr))

/-! ### The live records -/

theorem mem_records (s : State) (r : Record) : r ∈ s.records ↔ ∃ i : Slot, s.live[i] = some r := by
  unfold State.records
  rw [List.mem_filterMap]
  constructor
  · rintro ⟨o, ho, rfl⟩
    obtain ⟨i, hi, he⟩ := List.getElem_of_mem ho
    have hi' : i < 64 := by simpa using hi
    exact ⟨⟨i, hi'⟩, by simpa using he⟩
  · rintro ⟨i, hi⟩
    refine ⟨some r, ?_, rfl⟩
    rw [← hi]
    simp

theorem find_some {s : State} {p : Point} {i : Slot} {r : Record} (h : s.find p = some (i, r)) :
    s.live[i] = some r ∧ r.point = p := by
  unfold State.find at h
  obtain ⟨j, -, hj⟩ := List.exists_of_findSome?_eq_some h
  split at hj
  · next r' hr' =>
    split at hj
    · simp at hj; obtain ⟨rfl, rfl⟩ := hj; exact ⟨hr', by assumption⟩
    · cases hj
  · cases hj

theorem find_none {s : State} {p : Point} (h : s.find p = none) (r : Record) (hr : r ∈ s.records) : r.point ≠ p := by
  obtain ⟨i, hi⟩ := (mem_records s r).mp hr
  unfold State.find at h
  rw [List.findSome?_eq_none_iff] at h
  have := h i (List.mem_finRange i)
  rw [hi] at this
  intro e
  simp [e] at this

theorem find_mem {s : State} {p : Point} {i : Slot} {r : Record} (h : s.find p = some (i, r)) : r ∈ s.records :=
  (mem_records s r).mpr ⟨i, (find_some h).1⟩

end Machine

end Sys2Proof
end

