-- ==== Sys2Proof/Laws/State.lean ====
section
/-! SUPPORT. One lemma for each field and each update of the state, so that no proof unfolds a record update. -/

namespace Sys2Proof.Machine

/-! ### markAll -/

@[simp] theorem State.markAll_powered (s : State) (refs : List Ref) : (s.markAll refs).powered = s.powered := rfl
@[simp] theorem State.markAll_partTime (s : State) (refs : List Ref) : (s.markAll refs).partTime = s.partTime := rfl
@[simp] theorem State.markAll_loops (s : State) (refs : List Ref) : (s.markAll refs).loops = s.loops := rfl
@[simp] theorem State.markAll_cfg (s : State) (refs : List Ref) : (s.markAll refs).cfg = s.cfg := rfl
@[simp] theorem State.markAll_lines (s : State) (refs : List Ref) : (s.markAll refs).lines = s.lines := rfl
@[simp] theorem State.markAll_blankEnds (s : State) (refs : List Ref) : (s.markAll refs).blankEnds = s.blankEnds := rfl
@[simp] theorem State.markAll_live (s : State) (refs : List Ref) : (s.markAll refs).live = s.live := rfl
@[simp] theorem State.markAll_waiting (s : State) (refs : List Ref) : (s.markAll refs).waiting = s.waiting := rfl
@[simp] theorem State.markAll_routes (s : State) (refs : List Ref) : (s.markAll refs).routes = s.routes := rfl
@[simp] theorem State.markAll_relay (s : State) (refs : List Ref) : (s.markAll refs).relay = s.relay := rfl
@[simp] theorem State.markAll_day (s : State) (refs : List Ref) : (s.markAll refs).day = s.day := rfl
@[simp] theorem State.markAll_consoles (s : State) (refs : List Ref) : (s.markAll refs).consoles = s.consoles := rfl
@[simp] theorem State.markAll_handovers (s : State) (refs : List Ref) : (s.markAll refs).handovers = s.handovers := rfl
@[simp] theorem State.markAll_changeSet (s : State) (refs : List Ref) :
    (s.markAll refs).changeSet = addRefs s.changeSet refs := rfl
@[simp] theorem State.markAll_attention (s : State) (refs : List Ref) :
    (s.markAll refs).attention = (s.attention || !refs.isEmpty) := rfl
@[simp] theorem State.markAll_lastBatch (s : State) (refs : List Ref) : (s.markAll refs).lastBatch = s.lastBatch := rfl
@[simp] theorem State.markAll_plantRx (s : State) (refs : List Ref) : (s.markAll refs).plantRx = s.plantRx := rfl
@[simp] theorem State.markAll_portRx (s : State) (refs : List Ref) : (s.markAll refs).portRx = s.portRx := rfl
@[simp] theorem State.markAll_busy (s : State) (refs : List Ref) : (s.markAll refs).busy = s.busy := rfl
@[simp] theorem State.markAll_inHand (s : State) (refs : List Ref) : (s.markAll refs).inHand = s.inHand := rfl
@[simp] theorem State.markAll_store (s : State) (refs : List Ref) : (s.markAll refs).store = s.store := rfl
@[simp] theorem State.markAll_draws (s : State) (refs : List Ref) : (s.markAll refs).draws = s.draws := rfl
@[simp] theorem State.markAll_pending (s : State) (refs : List Ref) : (s.markAll refs).pending = s.pending := rfl

/-! ### setConsole -/

@[simp] theorem State.setConsole_powered (s : State) (c : Console) (f : ConsoleRecord → ConsoleRecord) : (s.setConsole c f).powered = s.powered := rfl
@[simp] theorem State.setConsole_partTime (s : State) (c : Console) (f : ConsoleRecord → ConsoleRecord) : (s.setConsole c f).partTime = s.partTime := rfl
@[simp] theorem State.setConsole_loops (s : State) (c : Console) (f : ConsoleRecord → ConsoleRecord) : (s.setConsole c f).loops = s.loops := rfl
@[simp] theorem State.setConsole_cfg (s : State) (c : Console) (f : ConsoleRecord → ConsoleRecord) : (s.setConsole c f).cfg = s.cfg := rfl
@[simp] theorem State.setConsole_lines (s : State) (c : Console) (f : ConsoleRecord → ConsoleRecord) : (s.setConsole c f).lines = s.lines := rfl
@[simp] theorem State.setConsole_blankEnds (s : State) (c : Console) (f : ConsoleRecord → ConsoleRecord) : (s.setConsole c f).blankEnds = s.blankEnds := rfl
@[simp] theorem State.setConsole_live (s : State) (c : Console) (f : ConsoleRecord → ConsoleRecord) : (s.setConsole c f).live = s.live := rfl
@[simp] theorem State.setConsole_waiting (s : State) (c : Console) (f : ConsoleRecord → ConsoleRecord) : (s.setConsole c f).waiting = s.waiting := rfl
@[simp] theorem State.setConsole_routes (s : State) (c : Console) (f : ConsoleRecord → ConsoleRecord) : (s.setConsole c f).routes = s.routes := rfl
@[simp] theorem State.setConsole_relay (s : State) (c : Console) (f : ConsoleRecord → ConsoleRecord) : (s.setConsole c f).relay = s.relay := rfl
@[simp] theorem State.setConsole_day (s : State) (c : Console) (f : ConsoleRecord → ConsoleRecord) : (s.setConsole c f).day = s.day := rfl
@[simp] theorem State.setConsole_consoles (s : State) (c : Console) (f : ConsoleRecord → ConsoleRecord) :
    (s.setConsole c f).consoles = upd s.consoles c f := rfl
@[simp] theorem State.setConsole_handovers (s : State) (c : Console) (f : ConsoleRecord → ConsoleRecord) : (s.setConsole c f).handovers = s.handovers := rfl
@[simp] theorem State.setConsole_changeSet (s : State) (c : Console) (f : ConsoleRecord → ConsoleRecord) : (s.setConsole c f).changeSet = s.changeSet := rfl
@[simp] theorem State.setConsole_attention (s : State) (c : Console) (f : ConsoleRecord → ConsoleRecord) : (s.setConsole c f).attention = s.attention := rfl
@[simp] theorem State.setConsole_lastBatch (s : State) (c : Console) (f : ConsoleRecord → ConsoleRecord) : (s.setConsole c f).lastBatch = s.lastBatch := rfl
@[simp] theorem State.setConsole_plantRx (s : State) (c : Console) (f : ConsoleRecord → ConsoleRecord) : (s.setConsole c f).plantRx = s.plantRx := rfl
@[simp] theorem State.setConsole_portRx (s : State) (c : Console) (f : ConsoleRecord → ConsoleRecord) : (s.setConsole c f).portRx = s.portRx := rfl
@[simp] theorem State.setConsole_busy (s : State) (c : Console) (f : ConsoleRecord → ConsoleRecord) : (s.setConsole c f).busy = s.busy := rfl
@[simp] theorem State.setConsole_inHand (s : State) (c : Console) (f : ConsoleRecord → ConsoleRecord) : (s.setConsole c f).inHand = s.inHand := rfl
@[simp] theorem State.setConsole_store (s : State) (c : Console) (f : ConsoleRecord → ConsoleRecord) : (s.setConsole c f).store = s.store := rfl
@[simp] theorem State.setConsole_draws (s : State) (c : Console) (f : ConsoleRecord → ConsoleRecord) : (s.setConsole c f).draws = s.draws := rfl
@[simp] theorem State.setConsole_pending (s : State) (c : Console) (f : ConsoleRecord → ConsoleRecord) : (s.setConsole c f).pending = s.pending := rfl

/-! ### setSlot -/

@[simp] theorem State.setSlot_powered (s : State) (i : Slot) (r : Option Record) : (s.setSlot i r).powered = s.powered := rfl
@[simp] theorem State.setSlot_partTime (s : State) (i : Slot) (r : Option Record) : (s.setSlot i r).partTime = s.partTime := rfl
@[simp] theorem State.setSlot_loops (s : State) (i : Slot) (r : Option Record) : (s.setSlot i r).loops = s.loops := rfl
@[simp] theorem State.setSlot_cfg (s : State) (i : Slot) (r : Option Record) : (s.setSlot i r).cfg = s.cfg := rfl
@[simp] theorem State.setSlot_lines (s : State) (i : Slot) (r : Option Record) : (s.setSlot i r).lines = s.lines := rfl
@[simp] theorem State.setSlot_blankEnds (s : State) (i : Slot) (r : Option Record) : (s.setSlot i r).blankEnds = s.blankEnds := rfl
@[simp] theorem State.setSlot_live (s : State) (i : Slot) (r : Option Record) :
    (s.setSlot i r).live = s.live.set i.val r i.isLt := rfl
@[simp] theorem State.setSlot_waiting (s : State) (i : Slot) (r : Option Record) : (s.setSlot i r).waiting = s.waiting := rfl
@[simp] theorem State.setSlot_routes (s : State) (i : Slot) (r : Option Record) : (s.setSlot i r).routes = s.routes := rfl
@[simp] theorem State.setSlot_relay (s : State) (i : Slot) (r : Option Record) : (s.setSlot i r).relay = s.relay := rfl
@[simp] theorem State.setSlot_day (s : State) (i : Slot) (r : Option Record) : (s.setSlot i r).day = s.day := rfl
@[simp] theorem State.setSlot_consoles (s : State) (i : Slot) (r : Option Record) : (s.setSlot i r).consoles = s.consoles := rfl
@[simp] theorem State.setSlot_handovers (s : State) (i : Slot) (r : Option Record) : (s.setSlot i r).handovers = s.handovers := rfl
@[simp] theorem State.setSlot_changeSet (s : State) (i : Slot) (r : Option Record) : (s.setSlot i r).changeSet = s.changeSet := rfl
@[simp] theorem State.setSlot_attention (s : State) (i : Slot) (r : Option Record) : (s.setSlot i r).attention = s.attention := rfl
@[simp] theorem State.setSlot_lastBatch (s : State) (i : Slot) (r : Option Record) : (s.setSlot i r).lastBatch = s.lastBatch := rfl
@[simp] theorem State.setSlot_plantRx (s : State) (i : Slot) (r : Option Record) : (s.setSlot i r).plantRx = s.plantRx := rfl
@[simp] theorem State.setSlot_portRx (s : State) (i : Slot) (r : Option Record) : (s.setSlot i r).portRx = s.portRx := rfl
@[simp] theorem State.setSlot_busy (s : State) (i : Slot) (r : Option Record) : (s.setSlot i r).busy = s.busy := rfl
@[simp] theorem State.setSlot_inHand (s : State) (i : Slot) (r : Option Record) : (s.setSlot i r).inHand = s.inHand := rfl
@[simp] theorem State.setSlot_store (s : State) (i : Slot) (r : Option Record) : (s.setSlot i r).store = s.store := rfl
@[simp] theorem State.setSlot_draws (s : State) (i : Slot) (r : Option Record) : (s.setSlot i r).draws = s.draws := rfl
@[simp] theorem State.setSlot_pending (s : State) (i : Slot) (r : Option Record) : (s.setSlot i r).pending = s.pending := rfl

/-! ### setPhase -/

@[simp] theorem State.setPhase_powered (s : State) (c : Console) (p : Phase) : (s.setPhase c p).powered = s.powered := rfl
@[simp] theorem State.setPhase_partTime (s : State) (c : Console) (p : Phase) : (s.setPhase c p).partTime = s.partTime := rfl
@[simp] theorem State.setPhase_loops (s : State) (c : Console) (p : Phase) : (s.setPhase c p).loops = s.loops := rfl
@[simp] theorem State.setPhase_cfg (s : State) (c : Console) (p : Phase) : (s.setPhase c p).cfg = s.cfg := rfl
@[simp] theorem State.setPhase_lines (s : State) (c : Console) (p : Phase) : (s.setPhase c p).lines = s.lines := rfl
@[simp] theorem State.setPhase_blankEnds (s : State) (c : Console) (p : Phase) : (s.setPhase c p).blankEnds = s.blankEnds := rfl
@[simp] theorem State.setPhase_live (s : State) (c : Console) (p : Phase) : (s.setPhase c p).live = s.live := rfl
@[simp] theorem State.setPhase_waiting (s : State) (c : Console) (p : Phase) : (s.setPhase c p).waiting = s.waiting := rfl
@[simp] theorem State.setPhase_routes (s : State) (c : Console) (p : Phase) : (s.setPhase c p).routes = s.routes := rfl
@[simp] theorem State.setPhase_relay (s : State) (c : Console) (p : Phase) : (s.setPhase c p).relay = s.relay := rfl
@[simp] theorem State.setPhase_day (s : State) (c : Console) (p : Phase) : (s.setPhase c p).day = s.day := rfl
@[simp] theorem State.setPhase_consoles (s : State) (c : Console) (p : Phase) : (s.setPhase c p).consoles = s.consoles := rfl
@[simp] theorem State.setPhase_handovers (s : State) (c : Console) (p : Phase) :
    (s.setPhase c p).handovers = upd s.handovers c fun h => { h with phase := p } := rfl
@[simp] theorem State.setPhase_changeSet (s : State) (c : Console) (p : Phase) : (s.setPhase c p).changeSet = s.changeSet := rfl
@[simp] theorem State.setPhase_attention (s : State) (c : Console) (p : Phase) : (s.setPhase c p).attention = s.attention := rfl
@[simp] theorem State.setPhase_lastBatch (s : State) (c : Console) (p : Phase) : (s.setPhase c p).lastBatch = s.lastBatch := rfl
@[simp] theorem State.setPhase_plantRx (s : State) (c : Console) (p : Phase) : (s.setPhase c p).plantRx = s.plantRx := rfl
@[simp] theorem State.setPhase_portRx (s : State) (c : Console) (p : Phase) : (s.setPhase c p).portRx = s.portRx := rfl
@[simp] theorem State.setPhase_busy (s : State) (c : Console) (p : Phase) : (s.setPhase c p).busy = s.busy := rfl
@[simp] theorem State.setPhase_inHand (s : State) (c : Console) (p : Phase) : (s.setPhase c p).inHand = s.inHand := rfl
@[simp] theorem State.setPhase_store (s : State) (c : Console) (p : Phase) : (s.setPhase c p).store = s.store := rfl
@[simp] theorem State.setPhase_draws (s : State) (c : Console) (p : Phase) : (s.setPhase c p).draws = s.draws := rfl
@[simp] theorem State.setPhase_pending (s : State) (c : Console) (p : Phase) : (s.setPhase c p).pending = s.pending := rfl

/-! ### setArea -/

@[simp] theorem State.setArea_powered (s : State) (a : Area) (f : AreaConfig → AreaConfig) : (s.setArea a f).powered = s.powered := rfl
@[simp] theorem State.setArea_partTime (s : State) (a : Area) (f : AreaConfig → AreaConfig) : (s.setArea a f).partTime = s.partTime := rfl
@[simp] theorem State.setArea_loops (s : State) (a : Area) (f : AreaConfig → AreaConfig) : (s.setArea a f).loops = s.loops := rfl
@[simp] theorem State.setArea_cfg (s : State) (a : Area) (f : AreaConfig → AreaConfig) :
    (s.setArea a f).cfg = { s.cfg with areas := upd s.cfg.areas a f } := rfl
@[simp] theorem State.setArea_lines (s : State) (a : Area) (f : AreaConfig → AreaConfig) : (s.setArea a f).lines = s.lines := rfl
@[simp] theorem State.setArea_blankEnds (s : State) (a : Area) (f : AreaConfig → AreaConfig) : (s.setArea a f).blankEnds = s.blankEnds := rfl
@[simp] theorem State.setArea_live (s : State) (a : Area) (f : AreaConfig → AreaConfig) : (s.setArea a f).live = s.live := rfl
@[simp] theorem State.setArea_waiting (s : State) (a : Area) (f : AreaConfig → AreaConfig) : (s.setArea a f).waiting = s.waiting := rfl
@[simp] theorem State.setArea_routes (s : State) (a : Area) (f : AreaConfig → AreaConfig) : (s.setArea a f).routes = s.routes := rfl
@[simp] theorem State.setArea_relay (s : State) (a : Area) (f : AreaConfig → AreaConfig) : (s.setArea a f).relay = s.relay := rfl
@[simp] theorem State.setArea_day (s : State) (a : Area) (f : AreaConfig → AreaConfig) : (s.setArea a f).day = s.day := rfl
@[simp] theorem State.setArea_consoles (s : State) (a : Area) (f : AreaConfig → AreaConfig) : (s.setArea a f).consoles = s.consoles := rfl
@[simp] theorem State.setArea_handovers (s : State) (a : Area) (f : AreaConfig → AreaConfig) : (s.setArea a f).handovers = s.handovers := rfl
@[simp] theorem State.setArea_changeSet (s : State) (a : Area) (f : AreaConfig → AreaConfig) : (s.setArea a f).changeSet = s.changeSet := rfl
@[simp] theorem State.setArea_attention (s : State) (a : Area) (f : AreaConfig → AreaConfig) : (s.setArea a f).attention = s.attention := rfl
@[simp] theorem State.setArea_lastBatch (s : State) (a : Area) (f : AreaConfig → AreaConfig) : (s.setArea a f).lastBatch = s.lastBatch := rfl
@[simp] theorem State.setArea_plantRx (s : State) (a : Area) (f : AreaConfig → AreaConfig) : (s.setArea a f).plantRx = s.plantRx := rfl
@[simp] theorem State.setArea_portRx (s : State) (a : Area) (f : AreaConfig → AreaConfig) : (s.setArea a f).portRx = s.portRx := rfl
@[simp] theorem State.setArea_busy (s : State) (a : Area) (f : AreaConfig → AreaConfig) : (s.setArea a f).busy = s.busy := rfl
@[simp] theorem State.setArea_inHand (s : State) (a : Area) (f : AreaConfig → AreaConfig) : (s.setArea a f).inHand = s.inHand := rfl
@[simp] theorem State.setArea_store (s : State) (a : Area) (f : AreaConfig → AreaConfig) : (s.setArea a f).store = s.store := rfl
@[simp] theorem State.setArea_draws (s : State) (a : Area) (f : AreaConfig → AreaConfig) : (s.setArea a f).draws = s.draws := rfl
@[simp] theorem State.setArea_pending (s : State) (a : Area) (f : AreaConfig → AreaConfig) : (s.setArea a f).pending = s.pending := rfl

/-! ### setRoster -/

@[simp] theorem State.setRoster_powered (s : State) (o : Operator) (r : Option OperatorRecord) : (s.setRoster o r).powered = s.powered := rfl
@[simp] theorem State.setRoster_partTime (s : State) (o : Operator) (r : Option OperatorRecord) : (s.setRoster o r).partTime = s.partTime := rfl
@[simp] theorem State.setRoster_loops (s : State) (o : Operator) (r : Option OperatorRecord) : (s.setRoster o r).loops = s.loops := rfl
@[simp] theorem State.setRoster_cfg (s : State) (o : Operator) (r : Option OperatorRecord) :
    (s.setRoster o r).cfg = { s.cfg with roster := s.cfg.roster.set o.val r o.isLt } := rfl
@[simp] theorem State.setRoster_lines (s : State) (o : Operator) (r : Option OperatorRecord) : (s.setRoster o r).lines = s.lines := rfl
@[simp] theorem State.setRoster_blankEnds (s : State) (o : Operator) (r : Option OperatorRecord) : (s.setRoster o r).blankEnds = s.blankEnds := rfl
@[simp] theorem State.setRoster_live (s : State) (o : Operator) (r : Option OperatorRecord) : (s.setRoster o r).live = s.live := rfl
@[simp] theorem State.setRoster_waiting (s : State) (o : Operator) (r : Option OperatorRecord) : (s.setRoster o r).waiting = s.waiting := rfl
@[simp] theorem State.setRoster_routes (s : State) (o : Operator) (r : Option OperatorRecord) : (s.setRoster o r).routes = s.routes := rfl
@[simp] theorem State.setRoster_relay (s : State) (o : Operator) (r : Option OperatorRecord) : (s.setRoster o r).relay = s.relay := rfl
@[simp] theorem State.setRoster_day (s : State) (o : Operator) (r : Option OperatorRecord) : (s.setRoster o r).day = s.day := rfl
@[simp] theorem State.setRoster_consoles (s : State) (o : Operator) (r : Option OperatorRecord) : (s.setRoster o r).consoles = s.consoles := rfl
@[simp] theorem State.setRoster_handovers (s : State) (o : Operator) (r : Option OperatorRecord) : (s.setRoster o r).handovers = s.handovers := rfl
@[simp] theorem State.setRoster_changeSet (s : State) (o : Operator) (r : Option OperatorRecord) : (s.setRoster o r).changeSet = s.changeSet := rfl
@[simp] theorem State.setRoster_attention (s : State) (o : Operator) (r : Option OperatorRecord) : (s.setRoster o r).attention = s.attention := rfl
@[simp] theorem State.setRoster_lastBatch (s : State) (o : Operator) (r : Option OperatorRecord) : (s.setRoster o r).lastBatch = s.lastBatch := rfl
@[simp] theorem State.setRoster_plantRx (s : State) (o : Operator) (r : Option OperatorRecord) : (s.setRoster o r).plantRx = s.plantRx := rfl
@[simp] theorem State.setRoster_portRx (s : State) (o : Operator) (r : Option OperatorRecord) : (s.setRoster o r).portRx = s.portRx := rfl
@[simp] theorem State.setRoster_busy (s : State) (o : Operator) (r : Option OperatorRecord) : (s.setRoster o r).busy = s.busy := rfl
@[simp] theorem State.setRoster_inHand (s : State) (o : Operator) (r : Option OperatorRecord) : (s.setRoster o r).inHand = s.inHand := rfl
@[simp] theorem State.setRoster_store (s : State) (o : Operator) (r : Option OperatorRecord) : (s.setRoster o r).store = s.store := rfl
@[simp] theorem State.setRoster_draws (s : State) (o : Operator) (r : Option OperatorRecord) : (s.setRoster o r).draws = s.draws := rfl
@[simp] theorem State.setRoster_pending (s : State) (o : Operator) (r : Option OperatorRecord) : (s.setRoster o r).pending = s.pending := rfl

/-! ### setNote -/

@[simp] theorem State.setNote_powered (s : State) (n : Note) (r : Option NoteRecord) : (s.setNote n r).powered = s.powered := rfl
@[simp] theorem State.setNote_partTime (s : State) (n : Note) (r : Option NoteRecord) : (s.setNote n r).partTime = s.partTime := rfl
@[simp] theorem State.setNote_loops (s : State) (n : Note) (r : Option NoteRecord) : (s.setNote n r).loops = s.loops := rfl
@[simp] theorem State.setNote_cfg (s : State) (n : Note) (r : Option NoteRecord) :
    (s.setNote n r).cfg = { s.cfg with notes := s.cfg.notes.set n.val r n.isLt } := rfl
@[simp] theorem State.setNote_lines (s : State) (n : Note) (r : Option NoteRecord) : (s.setNote n r).lines = s.lines := rfl
@[simp] theorem State.setNote_blankEnds (s : State) (n : Note) (r : Option NoteRecord) : (s.setNote n r).blankEnds = s.blankEnds := rfl
@[simp] theorem State.setNote_live (s : State) (n : Note) (r : Option NoteRecord) : (s.setNote n r).live = s.live := rfl
@[simp] theorem State.setNote_waiting (s : State) (n : Note) (r : Option NoteRecord) : (s.setNote n r).waiting = s.waiting := rfl
@[simp] theorem State.setNote_routes (s : State) (n : Note) (r : Option NoteRecord) : (s.setNote n r).routes = s.routes := rfl
@[simp] theorem State.setNote_relay (s : State) (n : Note) (r : Option NoteRecord) : (s.setNote n r).relay = s.relay := rfl
@[simp] theorem State.setNote_day (s : State) (n : Note) (r : Option NoteRecord) : (s.setNote n r).day = s.day := rfl
@[simp] theorem State.setNote_consoles (s : State) (n : Note) (r : Option NoteRecord) : (s.setNote n r).consoles = s.consoles := rfl
@[simp] theorem State.setNote_handovers (s : State) (n : Note) (r : Option NoteRecord) : (s.setNote n r).handovers = s.handovers := rfl
@[simp] theorem State.setNote_changeSet (s : State) (n : Note) (r : Option NoteRecord) : (s.setNote n r).changeSet = s.changeSet := rfl
@[simp] theorem State.setNote_attention (s : State) (n : Note) (r : Option NoteRecord) : (s.setNote n r).attention = s.attention := rfl
@[simp] theorem State.setNote_lastBatch (s : State) (n : Note) (r : Option NoteRecord) : (s.setNote n r).lastBatch = s.lastBatch := rfl
@[simp] theorem State.setNote_plantRx (s : State) (n : Note) (r : Option NoteRecord) : (s.setNote n r).plantRx = s.plantRx := rfl
@[simp] theorem State.setNote_portRx (s : State) (n : Note) (r : Option NoteRecord) : (s.setNote n r).portRx = s.portRx := rfl
@[simp] theorem State.setNote_busy (s : State) (n : Note) (r : Option NoteRecord) : (s.setNote n r).busy = s.busy := rfl
@[simp] theorem State.setNote_inHand (s : State) (n : Note) (r : Option NoteRecord) : (s.setNote n r).inHand = s.inHand := rfl
@[simp] theorem State.setNote_store (s : State) (n : Note) (r : Option NoteRecord) : (s.setNote n r).store = s.store := rfl
@[simp] theorem State.setNote_draws (s : State) (n : Note) (r : Option NoteRecord) : (s.setNote n r).draws = s.draws := rfl
@[simp] theorem State.setNote_pending (s : State) (n : Note) (r : Option NoteRecord) : (s.setNote n r).pending = s.pending := rfl

/-! ### setPoint -/

@[simp] theorem State.setPoint_powered (s : State) (p : Point) (c : PointConfig) : (s.setPoint p c).powered = s.powered := rfl
@[simp] theorem State.setPoint_partTime (s : State) (p : Point) (c : PointConfig) : (s.setPoint p c).partTime = s.partTime := rfl
@[simp] theorem State.setPoint_loops (s : State) (p : Point) (c : PointConfig) : (s.setPoint p c).loops = s.loops := rfl
@[simp] theorem State.setPoint_cfg (s : State) (p : Point) (c : PointConfig) :
    (s.setPoint p c).cfg = { s.cfg with points := s.cfg.points.set p.val c p.isLt } := rfl
@[simp] theorem State.setPoint_lines (s : State) (p : Point) (c : PointConfig) : (s.setPoint p c).lines = s.lines := rfl
@[simp] theorem State.setPoint_blankEnds (s : State) (p : Point) (c : PointConfig) : (s.setPoint p c).blankEnds = s.blankEnds := rfl
@[simp] theorem State.setPoint_live (s : State) (p : Point) (c : PointConfig) : (s.setPoint p c).live = s.live := rfl
@[simp] theorem State.setPoint_waiting (s : State) (p : Point) (c : PointConfig) : (s.setPoint p c).waiting = s.waiting := rfl
@[simp] theorem State.setPoint_routes (s : State) (p : Point) (c : PointConfig) : (s.setPoint p c).routes = s.routes := rfl
@[simp] theorem State.setPoint_relay (s : State) (p : Point) (c : PointConfig) : (s.setPoint p c).relay = s.relay := rfl
@[simp] theorem State.setPoint_day (s : State) (p : Point) (c : PointConfig) : (s.setPoint p c).day = s.day := rfl
@[simp] theorem State.setPoint_consoles (s : State) (p : Point) (c : PointConfig) : (s.setPoint p c).consoles = s.consoles := rfl
@[simp] theorem State.setPoint_handovers (s : State) (p : Point) (c : PointConfig) : (s.setPoint p c).handovers = s.handovers := rfl
@[simp] theorem State.setPoint_changeSet (s : State) (p : Point) (c : PointConfig) : (s.setPoint p c).changeSet = s.changeSet := rfl
@[simp] theorem State.setPoint_attention (s : State) (p : Point) (c : PointConfig) : (s.setPoint p c).attention = s.attention := rfl
@[simp] theorem State.setPoint_lastBatch (s : State) (p : Point) (c : PointConfig) : (s.setPoint p c).lastBatch = s.lastBatch := rfl
@[simp] theorem State.setPoint_plantRx (s : State) (p : Point) (c : PointConfig) : (s.setPoint p c).plantRx = s.plantRx := rfl
@[simp] theorem State.setPoint_portRx (s : State) (p : Point) (c : PointConfig) : (s.setPoint p c).portRx = s.portRx := rfl
@[simp] theorem State.setPoint_busy (s : State) (p : Point) (c : PointConfig) : (s.setPoint p c).busy = s.busy := rfl
@[simp] theorem State.setPoint_inHand (s : State) (p : Point) (c : PointConfig) : (s.setPoint p c).inHand = s.inHand := rfl
@[simp] theorem State.setPoint_store (s : State) (p : Point) (c : PointConfig) : (s.setPoint p c).store = s.store := rfl
@[simp] theorem State.setPoint_draws (s : State) (p : Point) (c : PointConfig) : (s.setPoint p c).draws = s.draws := rfl
@[simp] theorem State.setPoint_pending (s : State) (p : Point) (c : PointConfig) : (s.setPoint p c).pending = s.pending := rfl

/-! ### setLineConfig -/

@[simp] theorem State.setLineConfig_powered (s : State) (l : Line) (c : LineConfig) : (s.setLineConfig l c).powered = s.powered := rfl
@[simp] theorem State.setLineConfig_partTime (s : State) (l : Line) (c : LineConfig) : (s.setLineConfig l c).partTime = s.partTime := rfl
@[simp] theorem State.setLineConfig_loops (s : State) (l : Line) (c : LineConfig) : (s.setLineConfig l c).loops = s.loops := rfl
@[simp] theorem State.setLineConfig_cfg (s : State) (l : Line) (c : LineConfig) :
    (s.setLineConfig l c).cfg = { s.cfg with lines := s.cfg.lines.set l.val c l.isLt } := rfl
@[simp] theorem State.setLineConfig_lines (s : State) (l : Line) (c : LineConfig) : (s.setLineConfig l c).lines = s.lines := rfl
@[simp] theorem State.setLineConfig_blankEnds (s : State) (l : Line) (c : LineConfig) : (s.setLineConfig l c).blankEnds = s.blankEnds := rfl
@[simp] theorem State.setLineConfig_live (s : State) (l : Line) (c : LineConfig) : (s.setLineConfig l c).live = s.live := rfl
@[simp] theorem State.setLineConfig_waiting (s : State) (l : Line) (c : LineConfig) : (s.setLineConfig l c).waiting = s.waiting := rfl
@[simp] theorem State.setLineConfig_routes (s : State) (l : Line) (c : LineConfig) : (s.setLineConfig l c).routes = s.routes := rfl
@[simp] theorem State.setLineConfig_relay (s : State) (l : Line) (c : LineConfig) : (s.setLineConfig l c).relay = s.relay := rfl
@[simp] theorem State.setLineConfig_day (s : State) (l : Line) (c : LineConfig) : (s.setLineConfig l c).day = s.day := rfl
@[simp] theorem State.setLineConfig_consoles (s : State) (l : Line) (c : LineConfig) : (s.setLineConfig l c).consoles = s.consoles := rfl
@[simp] theorem State.setLineConfig_handovers (s : State) (l : Line) (c : LineConfig) : (s.setLineConfig l c).handovers = s.handovers := rfl
@[simp] theorem State.setLineConfig_changeSet (s : State) (l : Line) (c : LineConfig) : (s.setLineConfig l c).changeSet = s.changeSet := rfl
@[simp] theorem State.setLineConfig_attention (s : State) (l : Line) (c : LineConfig) : (s.setLineConfig l c).attention = s.attention := rfl
@[simp] theorem State.setLineConfig_lastBatch (s : State) (l : Line) (c : LineConfig) : (s.setLineConfig l c).lastBatch = s.lastBatch := rfl
@[simp] theorem State.setLineConfig_plantRx (s : State) (l : Line) (c : LineConfig) : (s.setLineConfig l c).plantRx = s.plantRx := rfl
@[simp] theorem State.setLineConfig_portRx (s : State) (l : Line) (c : LineConfig) : (s.setLineConfig l c).portRx = s.portRx := rfl
@[simp] theorem State.setLineConfig_busy (s : State) (l : Line) (c : LineConfig) : (s.setLineConfig l c).busy = s.busy := rfl
@[simp] theorem State.setLineConfig_inHand (s : State) (l : Line) (c : LineConfig) : (s.setLineConfig l c).inHand = s.inHand := rfl
@[simp] theorem State.setLineConfig_store (s : State) (l : Line) (c : LineConfig) : (s.setLineConfig l c).store = s.store := rfl
@[simp] theorem State.setLineConfig_draws (s : State) (l : Line) (c : LineConfig) : (s.setLineConfig l c).draws = s.draws := rfl
@[simp] theorem State.setLineConfig_pending (s : State) (l : Line) (c : LineConfig) : (s.setLineConfig l c).pending = s.pending := rfl

/-! ### setLine -/

@[simp] theorem State.setLine_powered (s : State) (l : Line) (f : LineLive → LineLive) : (s.setLine l f).powered = s.powered := rfl
@[simp] theorem State.setLine_partTime (s : State) (l : Line) (f : LineLive → LineLive) : (s.setLine l f).partTime = s.partTime := rfl
@[simp] theorem State.setLine_loops (s : State) (l : Line) (f : LineLive → LineLive) : (s.setLine l f).loops = s.loops := rfl
@[simp] theorem State.setLine_cfg (s : State) (l : Line) (f : LineLive → LineLive) : (s.setLine l f).cfg = s.cfg := rfl
@[simp] theorem State.setLine_lines (s : State) (l : Line) (f : LineLive → LineLive) :
    (s.setLine l f).lines = upd s.lines l f := rfl
@[simp] theorem State.setLine_blankEnds (s : State) (l : Line) (f : LineLive → LineLive) : (s.setLine l f).blankEnds = s.blankEnds := rfl
@[simp] theorem State.setLine_live (s : State) (l : Line) (f : LineLive → LineLive) : (s.setLine l f).live = s.live := rfl
@[simp] theorem State.setLine_waiting (s : State) (l : Line) (f : LineLive → LineLive) : (s.setLine l f).waiting = s.waiting := rfl
@[simp] theorem State.setLine_routes (s : State) (l : Line) (f : LineLive → LineLive) : (s.setLine l f).routes = s.routes := rfl
@[simp] theorem State.setLine_relay (s : State) (l : Line) (f : LineLive → LineLive) : (s.setLine l f).relay = s.relay := rfl
@[simp] theorem State.setLine_day (s : State) (l : Line) (f : LineLive → LineLive) : (s.setLine l f).day = s.day := rfl
@[simp] theorem State.setLine_consoles (s : State) (l : Line) (f : LineLive → LineLive) : (s.setLine l f).consoles = s.consoles := rfl
@[simp] theorem State.setLine_handovers (s : State) (l : Line) (f : LineLive → LineLive) : (s.setLine l f).handovers = s.handovers := rfl
@[simp] theorem State.setLine_changeSet (s : State) (l : Line) (f : LineLive → LineLive) : (s.setLine l f).changeSet = s.changeSet := rfl
@[simp] theorem State.setLine_attention (s : State) (l : Line) (f : LineLive → LineLive) : (s.setLine l f).attention = s.attention := rfl
@[simp] theorem State.setLine_lastBatch (s : State) (l : Line) (f : LineLive → LineLive) : (s.setLine l f).lastBatch = s.lastBatch := rfl
@[simp] theorem State.setLine_plantRx (s : State) (l : Line) (f : LineLive → LineLive) : (s.setLine l f).plantRx = s.plantRx := rfl
@[simp] theorem State.setLine_portRx (s : State) (l : Line) (f : LineLive → LineLive) : (s.setLine l f).portRx = s.portRx := rfl
@[simp] theorem State.setLine_busy (s : State) (l : Line) (f : LineLive → LineLive) : (s.setLine l f).busy = s.busy := rfl
@[simp] theorem State.setLine_inHand (s : State) (l : Line) (f : LineLive → LineLive) : (s.setLine l f).inHand = s.inHand := rfl
@[simp] theorem State.setLine_store (s : State) (l : Line) (f : LineLive → LineLive) : (s.setLine l f).store = s.store := rfl
@[simp] theorem State.setLine_draws (s : State) (l : Line) (f : LineLive → LineLive) : (s.setLine l f).draws = s.draws := rfl
@[simp] theorem State.setLine_pending (s : State) (l : Line) (f : LineLive → LineLive) : (s.setLine l f).pending = s.pending := rfl

/-! ### setParams -/

@[simp] theorem State.setParams_powered (s : State) (p : Params) : (s.setParams p).powered = s.powered := rfl
@[simp] theorem State.setParams_partTime (s : State) (p : Params) : (s.setParams p).partTime = s.partTime := rfl
@[simp] theorem State.setParams_loops (s : State) (p : Params) : (s.setParams p).loops = s.loops := rfl
@[simp] theorem State.setParams_cfg (s : State) (p : Params) :
    (s.setParams p).cfg = { s.cfg with params := p } := rfl
@[simp] theorem State.setParams_lines (s : State) (p : Params) : (s.setParams p).lines = s.lines := rfl
@[simp] theorem State.setParams_blankEnds (s : State) (p : Params) : (s.setParams p).blankEnds = s.blankEnds := rfl
@[simp] theorem State.setParams_live (s : State) (p : Params) : (s.setParams p).live = s.live := rfl
@[simp] theorem State.setParams_waiting (s : State) (p : Params) : (s.setParams p).waiting = s.waiting := rfl
@[simp] theorem State.setParams_routes (s : State) (p : Params) : (s.setParams p).routes = s.routes := rfl
@[simp] theorem State.setParams_relay (s : State) (p : Params) : (s.setParams p).relay = s.relay := rfl
@[simp] theorem State.setParams_day (s : State) (p : Params) : (s.setParams p).day = s.day := rfl
@[simp] theorem State.setParams_consoles (s : State) (p : Params) : (s.setParams p).consoles = s.consoles := rfl
@[simp] theorem State.setParams_handovers (s : State) (p : Params) : (s.setParams p).handovers = s.handovers := rfl
@[simp] theorem State.setParams_changeSet (s : State) (p : Params) : (s.setParams p).changeSet = s.changeSet := rfl
@[simp] theorem State.setParams_attention (s : State) (p : Params) : (s.setParams p).attention = s.attention := rfl
@[simp] theorem State.setParams_lastBatch (s : State) (p : Params) : (s.setParams p).lastBatch = s.lastBatch := rfl
@[simp] theorem State.setParams_plantRx (s : State) (p : Params) : (s.setParams p).plantRx = s.plantRx := rfl
@[simp] theorem State.setParams_portRx (s : State) (p : Params) : (s.setParams p).portRx = s.portRx := rfl
@[simp] theorem State.setParams_busy (s : State) (p : Params) : (s.setParams p).busy = s.busy := rfl
@[simp] theorem State.setParams_inHand (s : State) (p : Params) : (s.setParams p).inHand = s.inHand := rfl
@[simp] theorem State.setParams_store (s : State) (p : Params) : (s.setParams p).store = s.store := rfl
@[simp] theorem State.setParams_draws (s : State) (p : Params) : (s.setParams p).draws = s.draws := rfl
@[simp] theorem State.setParams_pending (s : State) (p : Params) : (s.setParams p).pending = s.pending := rfl

/-! ### mapRecords -/

@[simp] theorem State.mapRecords_powered (s : State) (f : Record → Record) : (s.mapRecords f).powered = s.powered := by simp [State.mapRecords]
@[simp] theorem State.mapRecords_partTime (s : State) (f : Record → Record) : (s.mapRecords f).partTime = s.partTime := by simp [State.mapRecords]
@[simp] theorem State.mapRecords_loops (s : State) (f : Record → Record) : (s.mapRecords f).loops = s.loops := by simp [State.mapRecords]
@[simp] theorem State.mapRecords_cfg (s : State) (f : Record → Record) : (s.mapRecords f).cfg = s.cfg := by simp [State.mapRecords]
@[simp] theorem State.mapRecords_lines (s : State) (f : Record → Record) : (s.mapRecords f).lines = s.lines := by simp [State.mapRecords]
@[simp] theorem State.mapRecords_blankEnds (s : State) (f : Record → Record) : (s.mapRecords f).blankEnds = s.blankEnds := by simp [State.mapRecords]
@[simp] theorem State.mapRecords_live (s : State) (f : Record → Record) :
    (s.mapRecords f).live = Vector.ofFn fun i => (s.live[i]).map f := by simp [State.mapRecords]
@[simp] theorem State.mapRecords_waiting (s : State) (f : Record → Record) : (s.mapRecords f).waiting = s.waiting := by simp [State.mapRecords]
@[simp] theorem State.mapRecords_routes (s : State) (f : Record → Record) : (s.mapRecords f).routes = s.routes := by simp [State.mapRecords]
@[simp] theorem State.mapRecords_relay (s : State) (f : Record → Record) : (s.mapRecords f).relay = s.relay := by simp [State.mapRecords]
@[simp] theorem State.mapRecords_day (s : State) (f : Record → Record) : (s.mapRecords f).day = s.day := by simp [State.mapRecords]
@[simp] theorem State.mapRecords_consoles (s : State) (f : Record → Record) : (s.mapRecords f).consoles = s.consoles := by simp [State.mapRecords]
@[simp] theorem State.mapRecords_handovers (s : State) (f : Record → Record) : (s.mapRecords f).handovers = s.handovers := by simp [State.mapRecords]
@[simp] theorem State.mapRecords_changeSet (s : State) (f : Record → Record) : (s.mapRecords f).changeSet = s.changeSet := by simp [State.mapRecords]
@[simp] theorem State.mapRecords_attention (s : State) (f : Record → Record) : (s.mapRecords f).attention = s.attention := by simp [State.mapRecords]
@[simp] theorem State.mapRecords_lastBatch (s : State) (f : Record → Record) : (s.mapRecords f).lastBatch = s.lastBatch := by simp [State.mapRecords]
@[simp] theorem State.mapRecords_plantRx (s : State) (f : Record → Record) : (s.mapRecords f).plantRx = s.plantRx := by simp [State.mapRecords]
@[simp] theorem State.mapRecords_portRx (s : State) (f : Record → Record) : (s.mapRecords f).portRx = s.portRx := by simp [State.mapRecords]
@[simp] theorem State.mapRecords_busy (s : State) (f : Record → Record) : (s.mapRecords f).busy = s.busy := by simp [State.mapRecords]
@[simp] theorem State.mapRecords_inHand (s : State) (f : Record → Record) : (s.mapRecords f).inHand = s.inHand := by simp [State.mapRecords]
@[simp] theorem State.mapRecords_store (s : State) (f : Record → Record) : (s.mapRecords f).store = s.store := by simp [State.mapRecords]
@[simp] theorem State.mapRecords_draws (s : State) (f : Record → Record) : (s.mapRecords f).draws = s.draws := by simp [State.mapRecords]
@[simp] theorem State.mapRecords_pending (s : State) (f : Record → Record) : (s.mapRecords f).pending = s.pending := by simp [State.mapRecords]

/-! ### mapPhases -/

@[simp] theorem State.mapPhases_powered (s : State) (f : Console → Phase → Phase) : (s.mapPhases f).powered = s.powered := by simp [State.mapPhases]
@[simp] theorem State.mapPhases_partTime (s : State) (f : Console → Phase → Phase) : (s.mapPhases f).partTime = s.partTime := by simp [State.mapPhases]
@[simp] theorem State.mapPhases_loops (s : State) (f : Console → Phase → Phase) : (s.mapPhases f).loops = s.loops := by simp [State.mapPhases]
@[simp] theorem State.mapPhases_cfg (s : State) (f : Console → Phase → Phase) : (s.mapPhases f).cfg = s.cfg := by simp [State.mapPhases]
@[simp] theorem State.mapPhases_lines (s : State) (f : Console → Phase → Phase) : (s.mapPhases f).lines = s.lines := by simp [State.mapPhases]
@[simp] theorem State.mapPhases_blankEnds (s : State) (f : Console → Phase → Phase) : (s.mapPhases f).blankEnds = s.blankEnds := by simp [State.mapPhases]
@[simp] theorem State.mapPhases_live (s : State) (f : Console → Phase → Phase) : (s.mapPhases f).live = s.live := by simp [State.mapPhases]
@[simp] theorem State.mapPhases_waiting (s : State) (f : Console → Phase → Phase) : (s.mapPhases f).waiting = s.waiting := by simp [State.mapPhases]
@[simp] theorem State.mapPhases_routes (s : State) (f : Console → Phase → Phase) : (s.mapPhases f).routes = s.routes := by simp [State.mapPhases]
@[simp] theorem State.mapPhases_relay (s : State) (f : Console → Phase → Phase) : (s.mapPhases f).relay = s.relay := by simp [State.mapPhases]
@[simp] theorem State.mapPhases_day (s : State) (f : Console → Phase → Phase) : (s.mapPhases f).day = s.day := by simp [State.mapPhases]
@[simp] theorem State.mapPhases_consoles (s : State) (f : Console → Phase → Phase) : (s.mapPhases f).consoles = s.consoles := by simp [State.mapPhases]
@[simp] theorem State.mapPhases_handovers (s : State) (f : Console → Phase → Phase) :
    (s.mapPhases f).handovers = Vector.ofFn fun c => { s.handovers[c] with phase := f c s.handovers[c].phase } := by simp [State.mapPhases]
@[simp] theorem State.mapPhases_changeSet (s : State) (f : Console → Phase → Phase) : (s.mapPhases f).changeSet = s.changeSet := by simp [State.mapPhases]
@[simp] theorem State.mapPhases_attention (s : State) (f : Console → Phase → Phase) : (s.mapPhases f).attention = s.attention := by simp [State.mapPhases]
@[simp] theorem State.mapPhases_lastBatch (s : State) (f : Console → Phase → Phase) : (s.mapPhases f).lastBatch = s.lastBatch := by simp [State.mapPhases]
@[simp] theorem State.mapPhases_plantRx (s : State) (f : Console → Phase → Phase) : (s.mapPhases f).plantRx = s.plantRx := by simp [State.mapPhases]
@[simp] theorem State.mapPhases_portRx (s : State) (f : Console → Phase → Phase) : (s.mapPhases f).portRx = s.portRx := by simp [State.mapPhases]
@[simp] theorem State.mapPhases_busy (s : State) (f : Console → Phase → Phase) : (s.mapPhases f).busy = s.busy := by simp [State.mapPhases]
@[simp] theorem State.mapPhases_inHand (s : State) (f : Console → Phase → Phase) : (s.mapPhases f).inHand = s.inHand := by simp [State.mapPhases]
@[simp] theorem State.mapPhases_store (s : State) (f : Console → Phase → Phase) : (s.mapPhases f).store = s.store := by simp [State.mapPhases]
@[simp] theorem State.mapPhases_draws (s : State) (f : Console → Phase → Phase) : (s.mapPhases f).draws = s.draws := by simp [State.mapPhases]
@[simp] theorem State.mapPhases_pending (s : State) (f : Console → Phase → Phase) : (s.mapPhases f).pending = s.pending := by simp [State.mapPhases]

/-! ### rehorn -/

@[simp] theorem State.rehorn_powered (s : State) : (s.rehorn).powered = s.powered := by simp [State.rehorn]
@[simp] theorem State.rehorn_partTime (s : State) : (s.rehorn).partTime = s.partTime := by simp [State.rehorn]
@[simp] theorem State.rehorn_loops (s : State) : (s.rehorn).loops = s.loops := by simp [State.rehorn]
@[simp] theorem State.rehorn_cfg (s : State) : (s.rehorn).cfg = s.cfg := by simp [State.rehorn]
@[simp] theorem State.rehorn_lines (s : State) : (s.rehorn).lines = s.lines := by simp [State.rehorn]
@[simp] theorem State.rehorn_blankEnds (s : State) : (s.rehorn).blankEnds = s.blankEnds := by simp [State.rehorn]
@[simp] theorem State.rehorn_live (s : State) : (s.rehorn).live = s.live := by simp [State.rehorn]
@[simp] theorem State.rehorn_waiting (s : State) : (s.rehorn).waiting = s.waiting := by simp [State.rehorn]
@[simp] theorem State.rehorn_routes (s : State) : (s.rehorn).routes = s.routes := by simp [State.rehorn]
@[simp] theorem State.rehorn_relay (s : State) : (s.rehorn).relay = s.relay := by simp [State.rehorn]
@[simp] theorem State.rehorn_day (s : State) : (s.rehorn).day = s.day := by simp [State.rehorn]
@[simp] theorem State.rehorn_consoles (s : State) :
    (s.rehorn).consoles = Vector.ofFn fun c => { s.consoles[c] with pattern := s.patternOf c } := by simp [State.rehorn]
@[simp] theorem State.rehorn_handovers (s : State) : (s.rehorn).handovers = s.handovers := by simp [State.rehorn]
@[simp] theorem State.rehorn_changeSet (s : State) : (s.rehorn).changeSet = s.changeSet := by simp [State.rehorn]
@[simp] theorem State.rehorn_attention (s : State) : (s.rehorn).attention = s.attention := by simp [State.rehorn]
@[simp] theorem State.rehorn_lastBatch (s : State) : (s.rehorn).lastBatch = s.lastBatch := by simp [State.rehorn]
@[simp] theorem State.rehorn_plantRx (s : State) : (s.rehorn).plantRx = s.plantRx := by simp [State.rehorn]
@[simp] theorem State.rehorn_portRx (s : State) : (s.rehorn).portRx = s.portRx := by simp [State.rehorn]
@[simp] theorem State.rehorn_busy (s : State) : (s.rehorn).busy = s.busy := by simp [State.rehorn]
@[simp] theorem State.rehorn_inHand (s : State) : (s.rehorn).inHand = s.inHand := by simp [State.rehorn]
@[simp] theorem State.rehorn_store (s : State) : (s.rehorn).store = s.store := by simp [State.rehorn]
@[simp] theorem State.rehorn_draws (s : State) : (s.rehorn).draws = s.draws := by simp [State.rehorn]
@[simp] theorem State.rehorn_pending (s : State) : (s.rehorn).pending = s.pending := by simp [State.rehorn]

/-! ### rerelay -/

@[simp] theorem State.rerelay_powered (s : State) : (s.rerelay).powered = s.powered := rfl
@[simp] theorem State.rerelay_partTime (s : State) : (s.rerelay).partTime = s.partTime := rfl
@[simp] theorem State.rerelay_loops (s : State) : (s.rerelay).loops = s.loops := rfl
@[simp] theorem State.rerelay_cfg (s : State) : (s.rerelay).cfg = s.cfg := rfl
@[simp] theorem State.rerelay_lines (s : State) : (s.rerelay).lines = s.lines := rfl
@[simp] theorem State.rerelay_blankEnds (s : State) : (s.rerelay).blankEnds = s.blankEnds := rfl
@[simp] theorem State.rerelay_live (s : State) : (s.rerelay).live = s.live := rfl
@[simp] theorem State.rerelay_waiting (s : State) : (s.rerelay).waiting = s.waiting := rfl
@[simp] theorem State.rerelay_routes (s : State) : (s.rerelay).routes = s.routes := rfl
@[simp] theorem State.rerelay_relay (s : State) :
    (s.rerelay).relay = s.relayWanted := rfl
@[simp] theorem State.rerelay_day (s : State) : (s.rerelay).day = s.day := rfl
@[simp] theorem State.rerelay_consoles (s : State) : (s.rerelay).consoles = s.consoles := rfl
@[simp] theorem State.rerelay_handovers (s : State) : (s.rerelay).handovers = s.handovers := rfl
@[simp] theorem State.rerelay_changeSet (s : State) : (s.rerelay).changeSet = s.changeSet := rfl
@[simp] theorem State.rerelay_attention (s : State) : (s.rerelay).attention = s.attention := rfl
@[simp] theorem State.rerelay_lastBatch (s : State) : (s.rerelay).lastBatch = s.lastBatch := rfl
@[simp] theorem State.rerelay_plantRx (s : State) : (s.rerelay).plantRx = s.plantRx := rfl
@[simp] theorem State.rerelay_portRx (s : State) : (s.rerelay).portRx = s.portRx := rfl
@[simp] theorem State.rerelay_busy (s : State) : (s.rerelay).busy = s.busy := rfl
@[simp] theorem State.rerelay_inHand (s : State) : (s.rerelay).inHand = s.inHand := rfl
@[simp] theorem State.rerelay_store (s : State) : (s.rerelay).store = s.store := rfl
@[simp] theorem State.rerelay_draws (s : State) : (s.rerelay).draws = s.draws := rfl
@[simp] theorem State.rerelay_pending (s : State) : (s.rerelay).pending = s.pending := rfl

/-! ### composeAll -/

@[simp] theorem State.composeAll_powered (s : State) (u : State) (x : Option Console) : (s.composeAll u x).powered = s.powered := by simp [State.composeAll]
@[simp] theorem State.composeAll_partTime (s : State) (u : State) (x : Option Console) : (s.composeAll u x).partTime = s.partTime := by simp [State.composeAll]
@[simp] theorem State.composeAll_loops (s : State) (u : State) (x : Option Console) : (s.composeAll u x).loops = s.loops := by simp [State.composeAll]
@[simp] theorem State.composeAll_cfg (s : State) (u : State) (x : Option Console) : (s.composeAll u x).cfg = s.cfg := by simp [State.composeAll]
@[simp] theorem State.composeAll_lines (s : State) (u : State) (x : Option Console) : (s.composeAll u x).lines = s.lines := by simp [State.composeAll]
@[simp] theorem State.composeAll_blankEnds (s : State) (u : State) (x : Option Console) : (s.composeAll u x).blankEnds = s.blankEnds := by simp [State.composeAll]
@[simp] theorem State.composeAll_live (s : State) (u : State) (x : Option Console) : (s.composeAll u x).live = s.live := by simp [State.composeAll]
@[simp] theorem State.composeAll_waiting (s : State) (u : State) (x : Option Console) : (s.composeAll u x).waiting = s.waiting := by simp [State.composeAll]
@[simp] theorem State.composeAll_routes (s : State) (u : State) (x : Option Console) : (s.composeAll u x).routes = s.routes := by simp [State.composeAll]
@[simp] theorem State.composeAll_relay (s : State) (u : State) (x : Option Console) : (s.composeAll u x).relay = s.relay := by simp [State.composeAll]
@[simp] theorem State.composeAll_day (s : State) (u : State) (x : Option Console) : (s.composeAll u x).day = s.day := by simp [State.composeAll]
@[simp] theorem State.composeAll_handovers (s : State) (u : State) (x : Option Console) : (s.composeAll u x).handovers = s.handovers := by simp [State.composeAll]
@[simp] theorem State.composeAll_changeSet (s : State) (u : State) (x : Option Console) : (s.composeAll u x).changeSet = s.changeSet := by simp [State.composeAll]
@[simp] theorem State.composeAll_attention (s : State) (u : State) (x : Option Console) : (s.composeAll u x).attention = s.attention := by simp [State.composeAll]
@[simp] theorem State.composeAll_lastBatch (s : State) (u : State) (x : Option Console) : (s.composeAll u x).lastBatch = s.lastBatch := by simp [State.composeAll]
@[simp] theorem State.composeAll_plantRx (s : State) (u : State) (x : Option Console) : (s.composeAll u x).plantRx = s.plantRx := by simp [State.composeAll]
@[simp] theorem State.composeAll_portRx (s : State) (u : State) (x : Option Console) : (s.composeAll u x).portRx = s.portRx := by simp [State.composeAll]
@[simp] theorem State.composeAll_busy (s : State) (u : State) (x : Option Console) : (s.composeAll u x).busy = s.busy := by simp [State.composeAll]
@[simp] theorem State.composeAll_inHand (s : State) (u : State) (x : Option Console) : (s.composeAll u x).inHand = s.inHand := by simp [State.composeAll]
@[simp] theorem State.composeAll_store (s : State) (u : State) (x : Option Console) : (s.composeAll u x).store = s.store := by simp [State.composeAll]
@[simp] theorem State.composeAll_draws (s : State) (u : State) (x : Option Console) : (s.composeAll u x).draws = s.draws := by simp [State.composeAll]
@[simp] theorem State.composeAll_pending (s : State) (u : State) (x : Option Console) : (s.composeAll u x).pending = s.pending := by simp [State.composeAll]

/-! ### reroute -/

@[simp] theorem State.reroute_powered (s : State) : (s.reroute).powered = s.powered := by simp [State.reroute]
@[simp] theorem State.reroute_partTime (s : State) : (s.reroute).partTime = s.partTime := by simp [State.reroute]
@[simp] theorem State.reroute_loops (s : State) : (s.reroute).loops = s.loops := by simp [State.reroute]
@[simp] theorem State.reroute_cfg (s : State) : (s.reroute).cfg = s.cfg := by simp [State.reroute]
@[simp] theorem State.reroute_lines (s : State) : (s.reroute).lines = s.lines := by simp [State.reroute]
@[simp] theorem State.reroute_blankEnds (s : State) : (s.reroute).blankEnds = s.blankEnds := by simp [State.reroute]
@[simp] theorem State.reroute_waiting (s : State) : (s.reroute).waiting = s.waiting := by simp [State.reroute]
@[simp] theorem State.reroute_routes (s : State) :
    (s.reroute).routes = Vector.ofFn s.routeOf := by simp [State.reroute]
@[simp] theorem State.reroute_relay (s : State) : (s.reroute).relay = s.relay := by simp [State.reroute]
@[simp] theorem State.reroute_day (s : State) : (s.reroute).day = s.day := by simp [State.reroute]
@[simp] theorem State.reroute_consoles (s : State) : (s.reroute).consoles = s.consoles := by simp [State.reroute]
@[simp] theorem State.reroute_handovers (s : State) : (s.reroute).handovers = s.handovers := by simp [State.reroute]
@[simp] theorem State.reroute_changeSet (s : State) : (s.reroute).changeSet = s.changeSet := by simp [State.reroute]
@[simp] theorem State.reroute_attention (s : State) : (s.reroute).attention = s.attention := by simp [State.reroute]
@[simp] theorem State.reroute_lastBatch (s : State) : (s.reroute).lastBatch = s.lastBatch := by simp [State.reroute]
@[simp] theorem State.reroute_plantRx (s : State) : (s.reroute).plantRx = s.plantRx := by simp [State.reroute]
@[simp] theorem State.reroute_portRx (s : State) : (s.reroute).portRx = s.portRx := by simp [State.reroute]
@[simp] theorem State.reroute_busy (s : State) : (s.reroute).busy = s.busy := by simp [State.reroute]
@[simp] theorem State.reroute_inHand (s : State) : (s.reroute).inHand = s.inHand := by simp [State.reroute]
@[simp] theorem State.reroute_store (s : State) : (s.reroute).store = s.store := by simp [State.reroute]
@[simp] theorem State.reroute_draws (s : State) : (s.reroute).draws = s.draws := by simp [State.reroute]
@[simp] theorem State.reroute_pending (s : State) : (s.reroute).pending = s.pending := by simp [State.reroute]

/-! ### rerouteStep -/

@[simp] theorem State.rerouteStep_powered (s : State) : (s.rerouteStep).powered = s.powered := by simp [State.rerouteStep]
@[simp] theorem State.rerouteStep_partTime (s : State) : (s.rerouteStep).partTime = s.partTime := by simp [State.rerouteStep]
@[simp] theorem State.rerouteStep_loops (s : State) : (s.rerouteStep).loops = s.loops := by simp [State.rerouteStep]
@[simp] theorem State.rerouteStep_cfg (s : State) : (s.rerouteStep).cfg = s.cfg := by simp [State.rerouteStep]
@[simp] theorem State.rerouteStep_lines (s : State) : (s.rerouteStep).lines = s.lines := by simp [State.rerouteStep]
@[simp] theorem State.rerouteStep_blankEnds (s : State) : (s.rerouteStep).blankEnds = s.blankEnds := by simp [State.rerouteStep]
@[simp] theorem State.rerouteStep_live (s : State) :
    (s.rerouteStep).live = s.reroute.live := by simp [State.rerouteStep]
@[simp] theorem State.rerouteStep_waiting (s : State) : (s.rerouteStep).waiting = s.waiting := by simp [State.rerouteStep]
@[simp] theorem State.rerouteStep_routes (s : State) :
    (s.rerouteStep).routes = Vector.ofFn s.routeOf := by simp [State.rerouteStep]
@[simp] theorem State.rerouteStep_relay (s : State) : (s.rerouteStep).relay = s.relay := by simp [State.rerouteStep]
@[simp] theorem State.rerouteStep_day (s : State) : (s.rerouteStep).day = s.day := by simp [State.rerouteStep]
@[simp] theorem State.rerouteStep_consoles (s : State) : (s.rerouteStep).consoles = s.consoles := by simp [State.rerouteStep]
@[simp] theorem State.rerouteStep_handovers (s : State) : (s.rerouteStep).handovers = s.handovers := by simp [State.rerouteStep]
@[simp] theorem State.rerouteStep_changeSet (s : State) :
    (s.rerouteStep).changeSet = addRefs s.changeSet s.rerouteRefs := by simp [State.rerouteStep]
@[simp] theorem State.rerouteStep_lastBatch (s : State) : (s.rerouteStep).lastBatch = s.lastBatch := by simp [State.rerouteStep]
@[simp] theorem State.rerouteStep_plantRx (s : State) : (s.rerouteStep).plantRx = s.plantRx := by simp [State.rerouteStep]
@[simp] theorem State.rerouteStep_portRx (s : State) : (s.rerouteStep).portRx = s.portRx := by simp [State.rerouteStep]
@[simp] theorem State.rerouteStep_busy (s : State) : (s.rerouteStep).busy = s.busy := by simp [State.rerouteStep]
@[simp] theorem State.rerouteStep_inHand (s : State) : (s.rerouteStep).inHand = s.inHand := by simp [State.rerouteStep]
@[simp] theorem State.rerouteStep_store (s : State) : (s.rerouteStep).store = s.store := by simp [State.rerouteStep]
@[simp] theorem State.rerouteStep_draws (s : State) : (s.rerouteStep).draws = s.draws := by simp [State.rerouteStep]
@[simp] theorem State.rerouteStep_pending (s : State) : (s.rerouteStep).pending = s.pending := by simp [State.rerouteStep]

/-! ### requalify -/

@[simp] theorem State.requalify_powered (s : State) (l : List Console) : (s.requalify l).powered = s.powered := by simp [State.requalify]
@[simp] theorem State.requalify_partTime (s : State) (l : List Console) : (s.requalify l).partTime = s.partTime := by simp [State.requalify]
@[simp] theorem State.requalify_loops (s : State) (l : List Console) : (s.requalify l).loops = s.loops := by simp [State.requalify]
@[simp] theorem State.requalify_cfg (s : State) (l : List Console) : (s.requalify l).cfg = s.cfg := by simp [State.requalify]
@[simp] theorem State.requalify_lines (s : State) (l : List Console) : (s.requalify l).lines = s.lines := by simp [State.requalify]
@[simp] theorem State.requalify_blankEnds (s : State) (l : List Console) : (s.requalify l).blankEnds = s.blankEnds := by simp [State.requalify]
@[simp] theorem State.requalify_live (s : State) (l : List Console) : (s.requalify l).live = s.live := by simp [State.requalify]
@[simp] theorem State.requalify_waiting (s : State) (l : List Console) : (s.requalify l).waiting = s.waiting := by simp [State.requalify]
@[simp] theorem State.requalify_routes (s : State) (l : List Console) : (s.requalify l).routes = s.routes := by simp [State.requalify]
@[simp] theorem State.requalify_relay (s : State) (l : List Console) : (s.requalify l).relay = s.relay := by simp [State.requalify]
@[simp] theorem State.requalify_day (s : State) (l : List Console) : (s.requalify l).day = s.day := by simp [State.requalify]
@[simp] theorem State.requalify_handovers (s : State) (l : List Console) : (s.requalify l).handovers = s.handovers := by simp [State.requalify]
@[simp] theorem State.requalify_lastBatch (s : State) (l : List Console) : (s.requalify l).lastBatch = s.lastBatch := by simp [State.requalify]
@[simp] theorem State.requalify_plantRx (s : State) (l : List Console) : (s.requalify l).plantRx = s.plantRx := by simp [State.requalify]
@[simp] theorem State.requalify_portRx (s : State) (l : List Console) : (s.requalify l).portRx = s.portRx := by simp [State.requalify]
@[simp] theorem State.requalify_busy (s : State) (l : List Console) : (s.requalify l).busy = s.busy := by simp [State.requalify]
@[simp] theorem State.requalify_inHand (s : State) (l : List Console) : (s.requalify l).inHand = s.inHand := by simp [State.requalify]
@[simp] theorem State.requalify_store (s : State) (l : List Console) : (s.requalify l).store = s.store := by simp [State.requalify]
@[simp] theorem State.requalify_draws (s : State) (l : List Console) : (s.requalify l).draws = s.draws := by simp [State.requalify]
@[simp] theorem State.requalify_pending (s : State) (l : List Console) : (s.requalify l).pending = s.pending := by simp [State.requalify]

/-! ### appendItem -/

@[simp] theorem State.appendItem_powered (s : State) (a : Area) (x : ItemRef) : (s.appendItem a x).powered = s.powered := by simp [State.appendItem]
@[simp] theorem State.appendItem_partTime (s : State) (a : Area) (x : ItemRef) : (s.appendItem a x).partTime = s.partTime := by simp [State.appendItem]
@[simp] theorem State.appendItem_loops (s : State) (a : Area) (x : ItemRef) : (s.appendItem a x).loops = s.loops := by simp [State.appendItem]
@[simp] theorem State.appendItem_cfg (s : State) (a : Area) (x : ItemRef) : (s.appendItem a x).cfg = s.cfg := by simp [State.appendItem]
@[simp] theorem State.appendItem_lines (s : State) (a : Area) (x : ItemRef) : (s.appendItem a x).lines = s.lines := by simp [State.appendItem]
@[simp] theorem State.appendItem_blankEnds (s : State) (a : Area) (x : ItemRef) : (s.appendItem a x).blankEnds = s.blankEnds := by simp [State.appendItem]
@[simp] theorem State.appendItem_live (s : State) (a : Area) (x : ItemRef) : (s.appendItem a x).live = s.live := by simp [State.appendItem]
@[simp] theorem State.appendItem_waiting (s : State) (a : Area) (x : ItemRef) : (s.appendItem a x).waiting = s.waiting := by simp [State.appendItem]
@[simp] theorem State.appendItem_routes (s : State) (a : Area) (x : ItemRef) : (s.appendItem a x).routes = s.routes := by simp [State.appendItem]
@[simp] theorem State.appendItem_relay (s : State) (a : Area) (x : ItemRef) : (s.appendItem a x).relay = s.relay := by simp [State.appendItem]
@[simp] theorem State.appendItem_day (s : State) (a : Area) (x : ItemRef) : (s.appendItem a x).day = s.day := by simp [State.appendItem]
@[simp] theorem State.appendItem_consoles (s : State) (a : Area) (x : ItemRef) : (s.appendItem a x).consoles = s.consoles := by simp [State.appendItem]
@[simp] theorem State.appendItem_changeSet (s : State) (a : Area) (x : ItemRef) : (s.appendItem a x).changeSet = s.changeSet := by simp [State.appendItem]
@[simp] theorem State.appendItem_attention (s : State) (a : Area) (x : ItemRef) : (s.appendItem a x).attention = s.attention := by simp [State.appendItem]
@[simp] theorem State.appendItem_lastBatch (s : State) (a : Area) (x : ItemRef) : (s.appendItem a x).lastBatch = s.lastBatch := by simp [State.appendItem]
@[simp] theorem State.appendItem_plantRx (s : State) (a : Area) (x : ItemRef) : (s.appendItem a x).plantRx = s.plantRx := by simp [State.appendItem]
@[simp] theorem State.appendItem_portRx (s : State) (a : Area) (x : ItemRef) : (s.appendItem a x).portRx = s.portRx := by simp [State.appendItem]
@[simp] theorem State.appendItem_busy (s : State) (a : Area) (x : ItemRef) : (s.appendItem a x).busy = s.busy := by simp [State.appendItem]
@[simp] theorem State.appendItem_inHand (s : State) (a : Area) (x : ItemRef) : (s.appendItem a x).inHand = s.inHand := by simp [State.appendItem]
@[simp] theorem State.appendItem_store (s : State) (a : Area) (x : ItemRef) : (s.appendItem a x).store = s.store := by simp [State.appendItem]
@[simp] theorem State.appendItem_draws (s : State) (a : Area) (x : ItemRef) : (s.appendItem a x).draws = s.draws := by simp [State.appendItem]
@[simp] theorem State.appendItem_pending (s : State) (a : Area) (x : ItemRef) : (s.appendItem a x).pending = s.pending := by simp [State.appendItem]

/-! ### dropItem -/

@[simp] theorem State.dropItem_powered (s : State) (x : ItemRef) : (s.dropItem x).powered = s.powered := by simp [State.dropItem]
@[simp] theorem State.dropItem_partTime (s : State) (x : ItemRef) : (s.dropItem x).partTime = s.partTime := by simp [State.dropItem]
@[simp] theorem State.dropItem_loops (s : State) (x : ItemRef) : (s.dropItem x).loops = s.loops := by simp [State.dropItem]
@[simp] theorem State.dropItem_cfg (s : State) (x : ItemRef) : (s.dropItem x).cfg = s.cfg := by simp [State.dropItem]
@[simp] theorem State.dropItem_lines (s : State) (x : ItemRef) : (s.dropItem x).lines = s.lines := by simp [State.dropItem]
@[simp] theorem State.dropItem_blankEnds (s : State) (x : ItemRef) : (s.dropItem x).blankEnds = s.blankEnds := by simp [State.dropItem]
@[simp] theorem State.dropItem_live (s : State) (x : ItemRef) : (s.dropItem x).live = s.live := by simp [State.dropItem]
@[simp] theorem State.dropItem_waiting (s : State) (x : ItemRef) : (s.dropItem x).waiting = s.waiting := by simp [State.dropItem]
@[simp] theorem State.dropItem_routes (s : State) (x : ItemRef) : (s.dropItem x).routes = s.routes := by simp [State.dropItem]
@[simp] theorem State.dropItem_relay (s : State) (x : ItemRef) : (s.dropItem x).relay = s.relay := by simp [State.dropItem]
@[simp] theorem State.dropItem_day (s : State) (x : ItemRef) : (s.dropItem x).day = s.day := by simp [State.dropItem]
@[simp] theorem State.dropItem_consoles (s : State) (x : ItemRef) : (s.dropItem x).consoles = s.consoles := by simp [State.dropItem]
@[simp] theorem State.dropItem_lastBatch (s : State) (x : ItemRef) : (s.dropItem x).lastBatch = s.lastBatch := by simp [State.dropItem]
@[simp] theorem State.dropItem_plantRx (s : State) (x : ItemRef) : (s.dropItem x).plantRx = s.plantRx := by simp [State.dropItem]
@[simp] theorem State.dropItem_portRx (s : State) (x : ItemRef) : (s.dropItem x).portRx = s.portRx := by simp [State.dropItem]
@[simp] theorem State.dropItem_busy (s : State) (x : ItemRef) : (s.dropItem x).busy = s.busy := by simp [State.dropItem]
@[simp] theorem State.dropItem_inHand (s : State) (x : ItemRef) : (s.dropItem x).inHand = s.inHand := by simp [State.dropItem]
@[simp] theorem State.dropItem_store (s : State) (x : ItemRef) : (s.dropItem x).store = s.store := by simp [State.dropItem]
@[simp] theorem State.dropItem_draws (s : State) (x : ItemRef) : (s.dropItem x).draws = s.draws := by simp [State.dropItem]
@[simp] theorem State.dropItem_pending (s : State) (x : ItemRef) : (s.dropItem x).pending = s.pending := by simp [State.dropItem]

/-! ### unseeItem -/

@[simp] theorem State.unseeItem_powered (s : State) (x : ItemRef) : (s.unseeItem x).powered = s.powered := by simp [State.unseeItem]
@[simp] theorem State.unseeItem_partTime (s : State) (x : ItemRef) : (s.unseeItem x).partTime = s.partTime := by simp [State.unseeItem]
@[simp] theorem State.unseeItem_loops (s : State) (x : ItemRef) : (s.unseeItem x).loops = s.loops := by simp [State.unseeItem]
@[simp] theorem State.unseeItem_cfg (s : State) (x : ItemRef) : (s.unseeItem x).cfg = s.cfg := by simp [State.unseeItem]
@[simp] theorem State.unseeItem_lines (s : State) (x : ItemRef) : (s.unseeItem x).lines = s.lines := by simp [State.unseeItem]
@[simp] theorem State.unseeItem_blankEnds (s : State) (x : ItemRef) : (s.unseeItem x).blankEnds = s.blankEnds := by simp [State.unseeItem]
@[simp] theorem State.unseeItem_live (s : State) (x : ItemRef) : (s.unseeItem x).live = s.live := by simp [State.unseeItem]
@[simp] theorem State.unseeItem_waiting (s : State) (x : ItemRef) : (s.unseeItem x).waiting = s.waiting := by simp [State.unseeItem]
@[simp] theorem State.unseeItem_routes (s : State) (x : ItemRef) : (s.unseeItem x).routes = s.routes := by simp [State.unseeItem]
@[simp] theorem State.unseeItem_relay (s : State) (x : ItemRef) : (s.unseeItem x).relay = s.relay := by simp [State.unseeItem]
@[simp] theorem State.unseeItem_day (s : State) (x : ItemRef) : (s.unseeItem x).day = s.day := by simp [State.unseeItem]
@[simp] theorem State.unseeItem_consoles (s : State) (x : ItemRef) : (s.unseeItem x).consoles = s.consoles := by simp [State.unseeItem]
@[simp] theorem State.unseeItem_changeSet (s : State) (x : ItemRef) : (s.unseeItem x).changeSet = s.changeSet := by simp [State.unseeItem]
@[simp] theorem State.unseeItem_attention (s : State) (x : ItemRef) : (s.unseeItem x).attention = s.attention := by simp [State.unseeItem]
@[simp] theorem State.unseeItem_lastBatch (s : State) (x : ItemRef) : (s.unseeItem x).lastBatch = s.lastBatch := by simp [State.unseeItem]
@[simp] theorem State.unseeItem_plantRx (s : State) (x : ItemRef) : (s.unseeItem x).plantRx = s.plantRx := by simp [State.unseeItem]
@[simp] theorem State.unseeItem_portRx (s : State) (x : ItemRef) : (s.unseeItem x).portRx = s.portRx := by simp [State.unseeItem]
@[simp] theorem State.unseeItem_busy (s : State) (x : ItemRef) : (s.unseeItem x).busy = s.busy := by simp [State.unseeItem]
@[simp] theorem State.unseeItem_inHand (s : State) (x : ItemRef) : (s.unseeItem x).inHand = s.inHand := by simp [State.unseeItem]
@[simp] theorem State.unseeItem_store (s : State) (x : ItemRef) : (s.unseeItem x).store = s.store := by simp [State.unseeItem]
@[simp] theorem State.unseeItem_draws (s : State) (x : ItemRef) : (s.unseeItem x).draws = s.draws := by simp [State.unseeItem]
@[simp] theorem State.unseeItem_pending (s : State) (x : ItemRef) : (s.unseeItem x).pending = s.pending := by simp [State.unseeItem]

/-! ### annunciate -/

@[simp] theorem State.annunciate_powered (s : State) (i : Slot) (r : Record) : (s.annunciate i r).powered = s.powered := by simp [State.annunciate]
@[simp] theorem State.annunciate_partTime (s : State) (i : Slot) (r : Record) : (s.annunciate i r).partTime = s.partTime := by simp [State.annunciate]
@[simp] theorem State.annunciate_loops (s : State) (i : Slot) (r : Record) : (s.annunciate i r).loops = s.loops := by simp [State.annunciate]
@[simp] theorem State.annunciate_cfg (s : State) (i : Slot) (r : Record) : (s.annunciate i r).cfg = s.cfg := by simp [State.annunciate]
@[simp] theorem State.annunciate_lines (s : State) (i : Slot) (r : Record) : (s.annunciate i r).lines = s.lines := by simp [State.annunciate]
@[simp] theorem State.annunciate_blankEnds (s : State) (i : Slot) (r : Record) : (s.annunciate i r).blankEnds = s.blankEnds := by simp [State.annunciate]
@[simp] theorem State.annunciate_live (s : State) (i : Slot) (r : Record) :
    (s.annunciate i r).live = s.live.set i.val (some (s.annunciated r)) i.isLt := by simp [State.annunciate]
@[simp] theorem State.annunciate_waiting (s : State) (i : Slot) (r : Record) : (s.annunciate i r).waiting = s.waiting := by simp [State.annunciate]
@[simp] theorem State.annunciate_routes (s : State) (i : Slot) (r : Record) : (s.annunciate i r).routes = s.routes := by simp [State.annunciate]
@[simp] theorem State.annunciate_relay (s : State) (i : Slot) (r : Record) : (s.annunciate i r).relay = s.relay := by simp [State.annunciate]
@[simp] theorem State.annunciate_day (s : State) (i : Slot) (r : Record) : (s.annunciate i r).day = s.day := by simp [State.annunciate]
@[simp] theorem State.annunciate_handovers (s : State) (i : Slot) (r : Record) : (s.annunciate i r).handovers = s.handovers := by simp [State.annunciate]
@[simp] theorem State.annunciate_changeSet (s : State) (i : Slot) (r : Record) : (s.annunciate i r).changeSet = s.changeSet := by simp [State.annunciate]
@[simp] theorem State.annunciate_attention (s : State) (i : Slot) (r : Record) : (s.annunciate i r).attention = s.attention := by simp [State.annunciate]
@[simp] theorem State.annunciate_lastBatch (s : State) (i : Slot) (r : Record) : (s.annunciate i r).lastBatch = s.lastBatch := by simp [State.annunciate]
@[simp] theorem State.annunciate_plantRx (s : State) (i : Slot) (r : Record) : (s.annunciate i r).plantRx = s.plantRx := by simp [State.annunciate]
@[simp] theorem State.annunciate_portRx (s : State) (i : Slot) (r : Record) : (s.annunciate i r).portRx = s.portRx := by simp [State.annunciate]
@[simp] theorem State.annunciate_busy (s : State) (i : Slot) (r : Record) : (s.annunciate i r).busy = s.busy := by simp [State.annunciate]
@[simp] theorem State.annunciate_inHand (s : State) (i : Slot) (r : Record) : (s.annunciate i r).inHand = s.inHand := by simp [State.annunciate]
@[simp] theorem State.annunciate_store (s : State) (i : Slot) (r : Record) : (s.annunciate i r).store = s.store := by simp [State.annunciate]
@[simp] theorem State.annunciate_draws (s : State) (i : Slot) (r : Record) : (s.annunciate i r).draws = s.draws := by simp [State.annunciate]
@[simp] theorem State.annunciate_pending (s : State) (i : Slot) (r : Record) : (s.annunciate i r).pending = s.pending := by simp [State.annunciate]

/-! ### admitRecord -/

@[simp] theorem State.admitRecord_powered (s : State) (i : Slot) (r : Record) : (s.admitRecord i r).powered = s.powered := by simp [State.admitRecord]
@[simp] theorem State.admitRecord_partTime (s : State) (i : Slot) (r : Record) : (s.admitRecord i r).partTime = s.partTime := by simp [State.admitRecord]
@[simp] theorem State.admitRecord_loops (s : State) (i : Slot) (r : Record) : (s.admitRecord i r).loops = s.loops := by simp [State.admitRecord]
@[simp] theorem State.admitRecord_cfg (s : State) (i : Slot) (r : Record) : (s.admitRecord i r).cfg = s.cfg := by simp [State.admitRecord]
@[simp] theorem State.admitRecord_lines (s : State) (i : Slot) (r : Record) : (s.admitRecord i r).lines = s.lines := by simp [State.admitRecord]
@[simp] theorem State.admitRecord_blankEnds (s : State) (i : Slot) (r : Record) : (s.admitRecord i r).blankEnds = s.blankEnds := by simp [State.admitRecord]
@[simp] theorem State.admitRecord_live (s : State) (i : Slot) (r : Record) :
    (s.admitRecord i r).live = s.live.set i.val (some (s.annunciated r)) i.isLt := by simp [State.admitRecord]
@[simp] theorem State.admitRecord_waiting (s : State) (i : Slot) (r : Record) : (s.admitRecord i r).waiting = s.waiting := by simp [State.admitRecord]
@[simp] theorem State.admitRecord_routes (s : State) (i : Slot) (r : Record) : (s.admitRecord i r).routes = s.routes := by simp [State.admitRecord]
@[simp] theorem State.admitRecord_relay (s : State) (i : Slot) (r : Record) : (s.admitRecord i r).relay = s.relay := by simp [State.admitRecord]
@[simp] theorem State.admitRecord_day (s : State) (i : Slot) (r : Record) : (s.admitRecord i r).day = s.day := by simp [State.admitRecord]
@[simp] theorem State.admitRecord_consoles (s : State) (i : Slot) (r : Record) :
    (s.admitRecord i r).consoles = (s.annunciate i r).consoles := by simp [State.admitRecord]
@[simp] theorem State.admitRecord_changeSet (s : State) (i : Slot) (r : Record) : (s.admitRecord i r).changeSet = s.changeSet := by simp [State.admitRecord]
@[simp] theorem State.admitRecord_attention (s : State) (i : Slot) (r : Record) : (s.admitRecord i r).attention = s.attention := by simp [State.admitRecord]
@[simp] theorem State.admitRecord_lastBatch (s : State) (i : Slot) (r : Record) : (s.admitRecord i r).lastBatch = s.lastBatch := by simp [State.admitRecord]
@[simp] theorem State.admitRecord_plantRx (s : State) (i : Slot) (r : Record) : (s.admitRecord i r).plantRx = s.plantRx := by simp [State.admitRecord]
@[simp] theorem State.admitRecord_portRx (s : State) (i : Slot) (r : Record) : (s.admitRecord i r).portRx = s.portRx := by simp [State.admitRecord]
@[simp] theorem State.admitRecord_busy (s : State) (i : Slot) (r : Record) : (s.admitRecord i r).busy = s.busy := by simp [State.admitRecord]
@[simp] theorem State.admitRecord_inHand (s : State) (i : Slot) (r : Record) : (s.admitRecord i r).inHand = s.inHand := by simp [State.admitRecord]
@[simp] theorem State.admitRecord_store (s : State) (i : Slot) (r : Record) : (s.admitRecord i r).store = s.store := by simp [State.admitRecord]
@[simp] theorem State.admitRecord_draws (s : State) (i : Slot) (r : Record) : (s.admitRecord i r).draws = s.draws := by simp [State.admitRecord]
@[simp] theorem State.admitRecord_pending (s : State) (i : Slot) (r : Record) : (s.admitRecord i r).pending = s.pending := by simp [State.admitRecord]

/-! ### admitEntry -/

@[simp] theorem State.admitEntry_powered (s : State) (i : Slot) (e : Entry) : (s.admitEntry i e).powered = s.powered := by simp [State.admitEntry]
@[simp] theorem State.admitEntry_partTime (s : State) (i : Slot) (e : Entry) : (s.admitEntry i e).partTime = s.partTime := by simp [State.admitEntry]
@[simp] theorem State.admitEntry_loops (s : State) (i : Slot) (e : Entry) : (s.admitEntry i e).loops = s.loops := by simp [State.admitEntry]
@[simp] theorem State.admitEntry_cfg (s : State) (i : Slot) (e : Entry) : (s.admitEntry i e).cfg = s.cfg := by simp [State.admitEntry]
@[simp] theorem State.admitEntry_lines (s : State) (i : Slot) (e : Entry) : (s.admitEntry i e).lines = s.lines := by simp [State.admitEntry]
@[simp] theorem State.admitEntry_blankEnds (s : State) (i : Slot) (e : Entry) : (s.admitEntry i e).blankEnds = s.blankEnds := by simp [State.admitEntry]
@[simp] theorem State.admitEntry_live (s : State) (i : Slot) (e : Entry) :
    (s.admitEntry i e).live = s.live.set i.val (some (s.annunciated (s.recordOfEntry e))) i.isLt := by simp [State.admitEntry]
@[simp] theorem State.admitEntry_waiting (s : State) (i : Slot) (e : Entry) : (s.admitEntry i e).waiting = s.waiting := by simp [State.admitEntry]
@[simp] theorem State.admitEntry_routes (s : State) (i : Slot) (e : Entry) : (s.admitEntry i e).routes = s.routes := by simp [State.admitEntry]
@[simp] theorem State.admitEntry_relay (s : State) (i : Slot) (e : Entry) : (s.admitEntry i e).relay = s.relay := by simp [State.admitEntry]
@[simp] theorem State.admitEntry_day (s : State) (i : Slot) (e : Entry) : (s.admitEntry i e).day = s.day := by simp [State.admitEntry]
@[simp] theorem State.admitEntry_consoles (s : State) (i : Slot) (e : Entry) :
    (s.admitEntry i e).consoles = (s.annunciate i (s.recordOfEntry e)).consoles := by simp [State.admitEntry]
@[simp] theorem State.admitEntry_changeSet (s : State) (i : Slot) (e : Entry) :
    (s.admitEntry i e).changeSet = addRefs s.changeSet (s.entryRefs e) := by simp [State.admitEntry]
@[simp] theorem State.admitEntry_attention (s : State) (i : Slot) (e : Entry) : (s.admitEntry i e).attention = true := by
  simp [State.admitEntry, State.entryRefs]
@[simp] theorem State.admitEntry_lastBatch (s : State) (i : Slot) (e : Entry) : (s.admitEntry i e).lastBatch = s.lastBatch := by simp [State.admitEntry]
@[simp] theorem State.admitEntry_plantRx (s : State) (i : Slot) (e : Entry) : (s.admitEntry i e).plantRx = s.plantRx := by simp [State.admitEntry]
@[simp] theorem State.admitEntry_portRx (s : State) (i : Slot) (e : Entry) : (s.admitEntry i e).portRx = s.portRx := by simp [State.admitEntry]
@[simp] theorem State.admitEntry_busy (s : State) (i : Slot) (e : Entry) : (s.admitEntry i e).busy = s.busy := by simp [State.admitEntry]
@[simp] theorem State.admitEntry_inHand (s : State) (i : Slot) (e : Entry) : (s.admitEntry i e).inHand = s.inHand := by simp [State.admitEntry]
@[simp] theorem State.admitEntry_store (s : State) (i : Slot) (e : Entry) : (s.admitEntry i e).store = s.store := by simp [State.admitEntry]
@[simp] theorem State.admitEntry_draws (s : State) (i : Slot) (e : Entry) : (s.admitEntry i e).draws = s.draws := by simp [State.admitEntry]
@[simp] theorem State.admitEntry_pending (s : State) (i : Slot) (e : Entry) : (s.admitEntry i e).pending = s.pending := by simp [State.admitEntry]

/-! ### remove -/

@[simp] theorem State.remove_powered (s : State) (i : Slot) (r : Record) : (s.remove i r).powered = s.powered := by simp [State.remove]
@[simp] theorem State.remove_partTime (s : State) (i : Slot) (r : Record) : (s.remove i r).partTime = s.partTime := by simp [State.remove]
@[simp] theorem State.remove_loops (s : State) (i : Slot) (r : Record) : (s.remove i r).loops = s.loops := by simp [State.remove]
@[simp] theorem State.remove_cfg (s : State) (i : Slot) (r : Record) : (s.remove i r).cfg = s.cfg := by simp [State.remove]
@[simp] theorem State.remove_lines (s : State) (i : Slot) (r : Record) : (s.remove i r).lines = s.lines := by simp [State.remove]
@[simp] theorem State.remove_blankEnds (s : State) (i : Slot) (r : Record) : (s.remove i r).blankEnds = s.blankEnds := by simp [State.remove]
@[simp] theorem State.remove_live (s : State) (i : Slot) (r : Record) :
    (s.remove i r).live = s.live.set i.val none i.isLt := by simp [State.remove]
@[simp] theorem State.remove_waiting (s : State) (i : Slot) (r : Record) : (s.remove i r).waiting = s.waiting := by simp [State.remove]
@[simp] theorem State.remove_routes (s : State) (i : Slot) (r : Record) : (s.remove i r).routes = s.routes := by simp [State.remove]
@[simp] theorem State.remove_relay (s : State) (i : Slot) (r : Record) : (s.remove i r).relay = s.relay := by simp [State.remove]
@[simp] theorem State.remove_day (s : State) (i : Slot) (r : Record) : (s.remove i r).day = s.day := by simp [State.remove]
@[simp] theorem State.remove_consoles (s : State) (i : Slot) (r : Record) : (s.remove i r).consoles = s.consoles := by simp [State.remove]
@[simp] theorem State.remove_lastBatch (s : State) (i : Slot) (r : Record) : (s.remove i r).lastBatch = s.lastBatch := by simp [State.remove]
@[simp] theorem State.remove_plantRx (s : State) (i : Slot) (r : Record) : (s.remove i r).plantRx = s.plantRx := by simp [State.remove]
@[simp] theorem State.remove_portRx (s : State) (i : Slot) (r : Record) : (s.remove i r).portRx = s.portRx := by simp [State.remove]
@[simp] theorem State.remove_busy (s : State) (i : Slot) (r : Record) : (s.remove i r).busy = s.busy := by simp [State.remove]
@[simp] theorem State.remove_inHand (s : State) (i : Slot) (r : Record) : (s.remove i r).inHand = s.inHand := by simp [State.remove]
@[simp] theorem State.remove_store (s : State) (i : Slot) (r : Record) : (s.remove i r).store = s.store := by simp [State.remove]
@[simp] theorem State.remove_draws (s : State) (i : Slot) (r : Record) : (s.remove i r).draws = s.draws := by simp [State.remove]
@[simp] theorem State.remove_pending (s : State) (i : Slot) (r : Record) : (s.remove i r).pending = s.pending := by simp [State.remove]

/-! ### setEntry -/

@[simp] theorem State.setEntry_powered (s : State) (p : Point) (f : Entry → Entry) : (s.setEntry p f).powered = s.powered := by simp [State.setEntry]
@[simp] theorem State.setEntry_partTime (s : State) (p : Point) (f : Entry → Entry) : (s.setEntry p f).partTime = s.partTime := by simp [State.setEntry]
@[simp] theorem State.setEntry_loops (s : State) (p : Point) (f : Entry → Entry) : (s.setEntry p f).loops = s.loops := by simp [State.setEntry]
@[simp] theorem State.setEntry_cfg (s : State) (p : Point) (f : Entry → Entry) : (s.setEntry p f).cfg = s.cfg := by simp [State.setEntry]
@[simp] theorem State.setEntry_lines (s : State) (p : Point) (f : Entry → Entry) : (s.setEntry p f).lines = s.lines := by simp [State.setEntry]
@[simp] theorem State.setEntry_blankEnds (s : State) (p : Point) (f : Entry → Entry) : (s.setEntry p f).blankEnds = s.blankEnds := by simp [State.setEntry]
@[simp] theorem State.setEntry_live (s : State) (p : Point) (f : Entry → Entry) : (s.setEntry p f).live = s.live := by simp [State.setEntry]
@[simp] theorem State.setEntry_waiting (s : State) (p : Point) (f : Entry → Entry) :
    (s.setEntry p f).waiting = s.waiting.map fun e => if e.point = p then f e else e := by simp [State.setEntry]
@[simp] theorem State.setEntry_routes (s : State) (p : Point) (f : Entry → Entry) : (s.setEntry p f).routes = s.routes := by simp [State.setEntry]
@[simp] theorem State.setEntry_relay (s : State) (p : Point) (f : Entry → Entry) : (s.setEntry p f).relay = s.relay := by simp [State.setEntry]
@[simp] theorem State.setEntry_day (s : State) (p : Point) (f : Entry → Entry) : (s.setEntry p f).day = s.day := by simp [State.setEntry]
@[simp] theorem State.setEntry_consoles (s : State) (p : Point) (f : Entry → Entry) : (s.setEntry p f).consoles = s.consoles := by simp [State.setEntry]
@[simp] theorem State.setEntry_handovers (s : State) (p : Point) (f : Entry → Entry) : (s.setEntry p f).handovers = s.handovers := by simp [State.setEntry]
@[simp] theorem State.setEntry_changeSet (s : State) (p : Point) (f : Entry → Entry) : (s.setEntry p f).changeSet = s.changeSet := by simp [State.setEntry]
@[simp] theorem State.setEntry_attention (s : State) (p : Point) (f : Entry → Entry) : (s.setEntry p f).attention = s.attention := by simp [State.setEntry]
@[simp] theorem State.setEntry_lastBatch (s : State) (p : Point) (f : Entry → Entry) : (s.setEntry p f).lastBatch = s.lastBatch := by simp [State.setEntry]
@[simp] theorem State.setEntry_plantRx (s : State) (p : Point) (f : Entry → Entry) : (s.setEntry p f).plantRx = s.plantRx := by simp [State.setEntry]
@[simp] theorem State.setEntry_portRx (s : State) (p : Point) (f : Entry → Entry) : (s.setEntry p f).portRx = s.portRx := by simp [State.setEntry]
@[simp] theorem State.setEntry_busy (s : State) (p : Point) (f : Entry → Entry) : (s.setEntry p f).busy = s.busy := by simp [State.setEntry]
@[simp] theorem State.setEntry_inHand (s : State) (p : Point) (f : Entry → Entry) : (s.setEntry p f).inHand = s.inHand := by simp [State.setEntry]
@[simp] theorem State.setEntry_store (s : State) (p : Point) (f : Entry → Entry) : (s.setEntry p f).store = s.store := by simp [State.setEntry]
@[simp] theorem State.setEntry_draws (s : State) (p : Point) (f : Entry → Entry) : (s.setEntry p f).draws = s.draws := by simp [State.setEntry]
@[simp] theorem State.setEntry_pending (s : State) (p : Point) (f : Entry → Entry) : (s.setEntry p f).pending = s.pending := by simp [State.setEntry]

/-! ### reraise -/

@[simp] theorem State.reraise_powered (s : State) (i : Slot) (r : Record) (k : Cause) : (s.reraise i r k).powered = s.powered := by simp [State.reraise]
@[simp] theorem State.reraise_partTime (s : State) (i : Slot) (r : Record) (k : Cause) : (s.reraise i r k).partTime = s.partTime := by simp [State.reraise]
@[simp] theorem State.reraise_loops (s : State) (i : Slot) (r : Record) (k : Cause) : (s.reraise i r k).loops = s.loops := by simp [State.reraise]
@[simp] theorem State.reraise_cfg (s : State) (i : Slot) (r : Record) (k : Cause) : (s.reraise i r k).cfg = s.cfg := by simp [State.reraise]
@[simp] theorem State.reraise_lines (s : State) (i : Slot) (r : Record) (k : Cause) : (s.reraise i r k).lines = s.lines := by simp [State.reraise]
@[simp] theorem State.reraise_blankEnds (s : State) (i : Slot) (r : Record) (k : Cause) : (s.reraise i r k).blankEnds = s.blankEnds := by simp [State.reraise]
@[simp] theorem State.reraise_waiting (s : State) (i : Slot) (r : Record) (k : Cause) : (s.reraise i r k).waiting = s.waiting := by simp [State.reraise]
@[simp] theorem State.reraise_routes (s : State) (i : Slot) (r : Record) (k : Cause) : (s.reraise i r k).routes = s.routes := by simp [State.reraise]
@[simp] theorem State.reraise_relay (s : State) (i : Slot) (r : Record) (k : Cause) : (s.reraise i r k).relay = s.relay := by simp [State.reraise]
@[simp] theorem State.reraise_day (s : State) (i : Slot) (r : Record) (k : Cause) : (s.reraise i r k).day = s.day := by simp [State.reraise]
@[simp] theorem State.reraise_changeSet (s : State) (i : Slot) (r : Record) (k : Cause) : (s.reraise i r k).changeSet = s.changeSet := by simp [State.reraise]
@[simp] theorem State.reraise_attention (s : State) (i : Slot) (r : Record) (k : Cause) : (s.reraise i r k).attention = s.attention := by simp [State.reraise]
@[simp] theorem State.reraise_lastBatch (s : State) (i : Slot) (r : Record) (k : Cause) : (s.reraise i r k).lastBatch = s.lastBatch := by simp [State.reraise]
@[simp] theorem State.reraise_plantRx (s : State) (i : Slot) (r : Record) (k : Cause) : (s.reraise i r k).plantRx = s.plantRx := by simp [State.reraise]
@[simp] theorem State.reraise_portRx (s : State) (i : Slot) (r : Record) (k : Cause) : (s.reraise i r k).portRx = s.portRx := by simp [State.reraise]
@[simp] theorem State.reraise_busy (s : State) (i : Slot) (r : Record) (k : Cause) : (s.reraise i r k).busy = s.busy := by simp [State.reraise]
@[simp] theorem State.reraise_inHand (s : State) (i : Slot) (r : Record) (k : Cause) : (s.reraise i r k).inHand = s.inHand := by simp [State.reraise]
@[simp] theorem State.reraise_store (s : State) (i : Slot) (r : Record) (k : Cause) : (s.reraise i r k).store = s.store := by simp [State.reraise]
@[simp] theorem State.reraise_draws (s : State) (i : Slot) (r : Record) (k : Cause) : (s.reraise i r k).draws = s.draws := by simp [State.reraise]
@[simp] theorem State.reraise_pending (s : State) (i : Slot) (r : Record) (k : Cause) : (s.reraise i r k).pending = s.pending := by simp [State.reraise]

/-! ### dropSession -/

@[simp] theorem State.dropSession_powered (s : State) (c : Console) (e : EndCause) : (s.dropSession c e).powered = s.powered := by simp [State.dropSession]
@[simp] theorem State.dropSession_partTime (s : State) (c : Console) (e : EndCause) : (s.dropSession c e).partTime = s.partTime := by simp [State.dropSession]
@[simp] theorem State.dropSession_loops (s : State) (c : Console) (e : EndCause) : (s.dropSession c e).loops = s.loops := by simp [State.dropSession]
@[simp] theorem State.dropSession_cfg (s : State) (c : Console) (e : EndCause) : (s.dropSession c e).cfg = s.cfg := by simp [State.dropSession]
@[simp] theorem State.dropSession_lines (s : State) (c : Console) (e : EndCause) : (s.dropSession c e).lines = s.lines := by simp [State.dropSession]
@[simp] theorem State.dropSession_blankEnds (s : State) (c : Console) (e : EndCause) : (s.dropSession c e).blankEnds = s.blankEnds := by simp [State.dropSession]
@[simp] theorem State.dropSession_live (s : State) (c : Console) (e : EndCause) : (s.dropSession c e).live = s.live := by simp [State.dropSession]
@[simp] theorem State.dropSession_waiting (s : State) (c : Console) (e : EndCause) : (s.dropSession c e).waiting = s.waiting := by simp [State.dropSession]
@[simp] theorem State.dropSession_routes (s : State) (c : Console) (e : EndCause) : (s.dropSession c e).routes = s.routes := by simp [State.dropSession]
@[simp] theorem State.dropSession_relay (s : State) (c : Console) (e : EndCause) : (s.dropSession c e).relay = s.relay := by simp [State.dropSession]
@[simp] theorem State.dropSession_day (s : State) (c : Console) (e : EndCause) : (s.dropSession c e).day = s.day := by simp [State.dropSession]
@[simp] theorem State.dropSession_consoles (s : State) (c : Console) (e : EndCause) :
    (s.dropSession c e).consoles = upd s.consoles c fun k => { k with session := .none, lastEnd := some e, underQualified := false } := by simp [State.dropSession]
@[simp] theorem State.dropSession_handovers (s : State) (c : Console) (e : EndCause) : (s.dropSession c e).handovers = s.handovers := by simp [State.dropSession]
@[simp] theorem State.dropSession_lastBatch (s : State) (c : Console) (e : EndCause) : (s.dropSession c e).lastBatch = s.lastBatch := by simp [State.dropSession]
@[simp] theorem State.dropSession_plantRx (s : State) (c : Console) (e : EndCause) : (s.dropSession c e).plantRx = s.plantRx := by simp [State.dropSession]
@[simp] theorem State.dropSession_portRx (s : State) (c : Console) (e : EndCause) : (s.dropSession c e).portRx = s.portRx := by simp [State.dropSession]
@[simp] theorem State.dropSession_busy (s : State) (c : Console) (e : EndCause) : (s.dropSession c e).busy = s.busy := by simp [State.dropSession]
@[simp] theorem State.dropSession_inHand (s : State) (c : Console) (e : EndCause) : (s.dropSession c e).inHand = s.inHand := by simp [State.dropSession]
@[simp] theorem State.dropSession_store (s : State) (c : Console) (e : EndCause) : (s.dropSession c e).store = s.store := by simp [State.dropSession]
@[simp] theorem State.dropSession_draws (s : State) (c : Console) (e : EndCause) : (s.dropSession c e).draws = s.draws := by simp [State.dropSession]
@[simp] theorem State.dropSession_pending (s : State) (c : Console) (e : EndCause) : (s.dropSession c e).pending = s.pending := by simp [State.dropSession]

/-! ### moveSessions -/

@[simp] theorem State.moveSessions_powered (s : State) (o : Operator) : (s.moveSessions o).powered = s.powered := by simp [State.moveSessions]
@[simp] theorem State.moveSessions_partTime (s : State) (o : Operator) : (s.moveSessions o).partTime = s.partTime := by simp [State.moveSessions]
@[simp] theorem State.moveSessions_loops (s : State) (o : Operator) : (s.moveSessions o).loops = s.loops := by simp [State.moveSessions]
@[simp] theorem State.moveSessions_cfg (s : State) (o : Operator) : (s.moveSessions o).cfg = s.cfg := by simp [State.moveSessions]
@[simp] theorem State.moveSessions_lines (s : State) (o : Operator) : (s.moveSessions o).lines = s.lines := by simp [State.moveSessions]
@[simp] theorem State.moveSessions_blankEnds (s : State) (o : Operator) : (s.moveSessions o).blankEnds = s.blankEnds := by simp [State.moveSessions]
@[simp] theorem State.moveSessions_live (s : State) (o : Operator) : (s.moveSessions o).live = s.live := by simp [State.moveSessions]
@[simp] theorem State.moveSessions_waiting (s : State) (o : Operator) : (s.moveSessions o).waiting = s.waiting := by simp [State.moveSessions]
@[simp] theorem State.moveSessions_routes (s : State) (o : Operator) : (s.moveSessions o).routes = s.routes := by simp [State.moveSessions]
@[simp] theorem State.moveSessions_relay (s : State) (o : Operator) : (s.moveSessions o).relay = s.relay := by simp [State.moveSessions]
@[simp] theorem State.moveSessions_day (s : State) (o : Operator) : (s.moveSessions o).day = s.day := by simp [State.moveSessions]
@[simp] theorem State.moveSessions_handovers (s : State) (o : Operator) : (s.moveSessions o).handovers = s.handovers := by simp [State.moveSessions]
@[simp] theorem State.moveSessions_changeSet (s : State) (o : Operator) : (s.moveSessions o).changeSet = s.changeSet := by simp [State.moveSessions]
@[simp] theorem State.moveSessions_attention (s : State) (o : Operator) : (s.moveSessions o).attention = s.attention := by simp [State.moveSessions]
@[simp] theorem State.moveSessions_lastBatch (s : State) (o : Operator) : (s.moveSessions o).lastBatch = s.lastBatch := by simp [State.moveSessions]
@[simp] theorem State.moveSessions_plantRx (s : State) (o : Operator) : (s.moveSessions o).plantRx = s.plantRx := by simp [State.moveSessions]
@[simp] theorem State.moveSessions_portRx (s : State) (o : Operator) : (s.moveSessions o).portRx = s.portRx := by simp [State.moveSessions]
@[simp] theorem State.moveSessions_busy (s : State) (o : Operator) : (s.moveSessions o).busy = s.busy := by simp [State.moveSessions]
@[simp] theorem State.moveSessions_inHand (s : State) (o : Operator) : (s.moveSessions o).inHand = s.inHand := by simp [State.moveSessions]
@[simp] theorem State.moveSessions_store (s : State) (o : Operator) : (s.moveSessions o).store = s.store := by simp [State.moveSessions]
@[simp] theorem State.moveSessions_draws (s : State) (o : Operator) : (s.moveSessions o).draws = s.draws := by simp [State.moveSessions]
@[simp] theorem State.moveSessions_pending (s : State) (o : Operator) : (s.moveSessions o).pending = s.pending := by simp [State.moveSessions]

/-! ### bringUp -/

@[simp] theorem State.bringUp_powered (s : State) (c : Console) : (s.bringUp c).powered = s.powered := by simp [State.bringUp]
@[simp] theorem State.bringUp_partTime (s : State) (c : Console) : (s.bringUp c).partTime = s.partTime := by simp [State.bringUp]
@[simp] theorem State.bringUp_loops (s : State) (c : Console) : (s.bringUp c).loops = s.loops := by simp [State.bringUp]
@[simp] theorem State.bringUp_cfg (s : State) (c : Console) : (s.bringUp c).cfg = s.cfg := by simp [State.bringUp]
@[simp] theorem State.bringUp_lines (s : State) (c : Console) : (s.bringUp c).lines = s.lines := by simp [State.bringUp]
@[simp] theorem State.bringUp_blankEnds (s : State) (c : Console) : (s.bringUp c).blankEnds = s.blankEnds := by simp [State.bringUp]
@[simp] theorem State.bringUp_waiting (s : State) (c : Console) : (s.bringUp c).waiting = s.waiting := by simp [State.bringUp]
@[simp] theorem State.bringUp_relay (s : State) (c : Console) : (s.bringUp c).relay = s.relay := by simp [State.bringUp]
@[simp] theorem State.bringUp_day (s : State) (c : Console) : (s.bringUp c).day = s.day := by simp [State.bringUp]
@[simp] theorem State.bringUp_handovers (s : State) (c : Console) : (s.bringUp c).handovers = s.handovers := by simp [State.bringUp]
@[simp] theorem State.bringUp_changeSet (s : State) (c : Console) : (s.bringUp c).changeSet = s.changeSet := by simp [State.bringUp]
@[simp] theorem State.bringUp_attention (s : State) (c : Console) : (s.bringUp c).attention = s.attention := by simp [State.bringUp]
@[simp] theorem State.bringUp_lastBatch (s : State) (c : Console) : (s.bringUp c).lastBatch = s.lastBatch := by simp [State.bringUp]
@[simp] theorem State.bringUp_plantRx (s : State) (c : Console) : (s.bringUp c).plantRx = s.plantRx := by simp [State.bringUp]
@[simp] theorem State.bringUp_portRx (s : State) (c : Console) : (s.bringUp c).portRx = s.portRx := by simp [State.bringUp]
@[simp] theorem State.bringUp_busy (s : State) (c : Console) : (s.bringUp c).busy = s.busy := by simp [State.bringUp]
@[simp] theorem State.bringUp_inHand (s : State) (c : Console) : (s.bringUp c).inHand = s.inHand := by simp [State.bringUp]
@[simp] theorem State.bringUp_store (s : State) (c : Console) : (s.bringUp c).store = s.store := by simp [State.bringUp]
@[simp] theorem State.bringUp_draws (s : State) (c : Console) : (s.bringUp c).draws = s.draws := by simp [State.bringUp]
@[simp] theorem State.bringUp_pending (s : State) (c : Console) : (s.bringUp c).pending = s.pending := by simp [State.bringUp]

/-! ### storeWrite -/

@[simp] theorem State.storeWrite_powered (s : State) : (s.storeWrite).powered = s.powered := rfl
@[simp] theorem State.storeWrite_partTime (s : State) : (s.storeWrite).partTime = s.partTime := rfl
@[simp] theorem State.storeWrite_loops (s : State) : (s.storeWrite).loops = s.loops := rfl
@[simp] theorem State.storeWrite_cfg (s : State) : (s.storeWrite).cfg = s.cfg := rfl
@[simp] theorem State.storeWrite_lines (s : State) : (s.storeWrite).lines = s.lines := rfl
@[simp] theorem State.storeWrite_blankEnds (s : State) : (s.storeWrite).blankEnds = s.blankEnds := rfl
@[simp] theorem State.storeWrite_live (s : State) : (s.storeWrite).live = s.live := rfl
@[simp] theorem State.storeWrite_waiting (s : State) : (s.storeWrite).waiting = s.waiting := rfl
@[simp] theorem State.storeWrite_routes (s : State) : (s.storeWrite).routes = s.routes := rfl
@[simp] theorem State.storeWrite_relay (s : State) : (s.storeWrite).relay = s.relay := rfl
@[simp] theorem State.storeWrite_day (s : State) : (s.storeWrite).day = s.day := rfl
@[simp] theorem State.storeWrite_consoles (s : State) : (s.storeWrite).consoles = s.consoles := rfl
@[simp] theorem State.storeWrite_handovers (s : State) : (s.storeWrite).handovers = s.handovers := rfl
@[simp] theorem State.storeWrite_changeSet (s : State) : (s.storeWrite).changeSet = s.changeSet := rfl
@[simp] theorem State.storeWrite_attention (s : State) : (s.storeWrite).attention = s.attention := rfl
@[simp] theorem State.storeWrite_lastBatch (s : State) : (s.storeWrite).lastBatch = s.lastBatch := rfl
@[simp] theorem State.storeWrite_plantRx (s : State) : (s.storeWrite).plantRx = s.plantRx := rfl
@[simp] theorem State.storeWrite_portRx (s : State) : (s.storeWrite).portRx = s.portRx := rfl
@[simp] theorem State.storeWrite_busy (s : State) : (s.storeWrite).busy = s.busy := rfl
@[simp] theorem State.storeWrite_inHand (s : State) : (s.storeWrite).inHand = s.inHand := rfl
@[simp] theorem State.storeWrite_store (s : State) :
    (s.storeWrite).store = s.store.write s.draws s.cfg := rfl
@[simp] theorem State.storeWrite_draws (s : State) :
    (s.storeWrite).draws = s.draws + 1 := rfl
@[simp] theorem State.storeWrite_pending (s : State) : (s.storeWrite).pending = s.pending := rfl

/-! ### answer -/

@[simp] theorem State.answer_powered (s : State) (code seq : Byte) (r : Reply) : (s.answer code seq r).powered = s.powered := rfl
@[simp] theorem State.answer_partTime (s : State) (code seq : Byte) (r : Reply) : (s.answer code seq r).partTime = s.partTime := rfl
@[simp] theorem State.answer_loops (s : State) (code seq : Byte) (r : Reply) : (s.answer code seq r).loops = s.loops := rfl
@[simp] theorem State.answer_cfg (s : State) (code seq : Byte) (r : Reply) : (s.answer code seq r).cfg = s.cfg := rfl
@[simp] theorem State.answer_lines (s : State) (code seq : Byte) (r : Reply) : (s.answer code seq r).lines = s.lines := rfl
@[simp] theorem State.answer_blankEnds (s : State) (code seq : Byte) (r : Reply) : (s.answer code seq r).blankEnds = s.blankEnds := rfl
@[simp] theorem State.answer_live (s : State) (code seq : Byte) (r : Reply) : (s.answer code seq r).live = s.live := rfl
@[simp] theorem State.answer_waiting (s : State) (code seq : Byte) (r : Reply) : (s.answer code seq r).waiting = s.waiting := rfl
@[simp] theorem State.answer_routes (s : State) (code seq : Byte) (r : Reply) : (s.answer code seq r).routes = s.routes := rfl
@[simp] theorem State.answer_relay (s : State) (code seq : Byte) (r : Reply) : (s.answer code seq r).relay = s.relay := rfl
@[simp] theorem State.answer_day (s : State) (code seq : Byte) (r : Reply) : (s.answer code seq r).day = s.day := rfl
@[simp] theorem State.answer_consoles (s : State) (code seq : Byte) (r : Reply) : (s.answer code seq r).consoles = s.consoles := rfl
@[simp] theorem State.answer_handovers (s : State) (code seq : Byte) (r : Reply) : (s.answer code seq r).handovers = s.handovers := rfl
@[simp] theorem State.answer_changeSet (s : State) (code seq : Byte) (r : Reply) : (s.answer code seq r).changeSet = s.changeSet := rfl
@[simp] theorem State.answer_attention (s : State) (code seq : Byte) (r : Reply) : (s.answer code seq r).attention = s.attention := rfl
@[simp] theorem State.answer_lastBatch (s : State) (code seq : Byte) (r : Reply) : (s.answer code seq r).lastBatch = s.lastBatch := rfl
@[simp] theorem State.answer_plantRx (s : State) (code seq : Byte) (r : Reply) : (s.answer code seq r).plantRx = s.plantRx := rfl
@[simp] theorem State.answer_portRx (s : State) (code seq : Byte) (r : Reply) : (s.answer code seq r).portRx = s.portRx := rfl
@[simp] theorem State.answer_busy (s : State) (code seq : Byte) (r : Reply) : (s.answer code seq r).busy = s.busy := rfl
@[simp] theorem State.answer_store (s : State) (code seq : Byte) (r : Reply) : (s.answer code seq r).store = s.store := rfl
@[simp] theorem State.answer_draws (s : State) (code seq : Byte) (r : Reply) : (s.answer code seq r).draws = s.draws := rfl
@[simp] theorem State.answer_pending (s : State) (code seq : Byte) (r : Reply) : (s.answer code seq r).pending = s.pending := rfl

/-! ### plantHunting -/

@[simp] theorem State.plantHunting_powered (s : State) : (s.plantHunting).powered = s.powered := rfl
@[simp] theorem State.plantHunting_partTime (s : State) : (s.plantHunting).partTime = s.partTime := rfl
@[simp] theorem State.plantHunting_loops (s : State) : (s.plantHunting).loops = s.loops := rfl
@[simp] theorem State.plantHunting_cfg (s : State) : (s.plantHunting).cfg = s.cfg := rfl
@[simp] theorem State.plantHunting_lines (s : State) : (s.plantHunting).lines = s.lines := rfl
@[simp] theorem State.plantHunting_blankEnds (s : State) : (s.plantHunting).blankEnds = s.blankEnds := rfl
@[simp] theorem State.plantHunting_live (s : State) : (s.plantHunting).live = s.live := rfl
@[simp] theorem State.plantHunting_waiting (s : State) : (s.plantHunting).waiting = s.waiting := rfl
@[simp] theorem State.plantHunting_routes (s : State) : (s.plantHunting).routes = s.routes := rfl
@[simp] theorem State.plantHunting_relay (s : State) : (s.plantHunting).relay = s.relay := rfl
@[simp] theorem State.plantHunting_day (s : State) : (s.plantHunting).day = s.day := rfl
@[simp] theorem State.plantHunting_consoles (s : State) : (s.plantHunting).consoles = s.consoles := rfl
@[simp] theorem State.plantHunting_handovers (s : State) : (s.plantHunting).handovers = s.handovers := rfl
@[simp] theorem State.plantHunting_changeSet (s : State) : (s.plantHunting).changeSet = s.changeSet := rfl
@[simp] theorem State.plantHunting_attention (s : State) : (s.plantHunting).attention = s.attention := rfl
@[simp] theorem State.plantHunting_lastBatch (s : State) : (s.plantHunting).lastBatch = s.lastBatch := rfl
@[simp] theorem State.plantHunting_plantRx (s : State) :
    (s.plantHunting).plantRx = { s.plantRx with mode := .hunting } := rfl
@[simp] theorem State.plantHunting_portRx (s : State) : (s.plantHunting).portRx = s.portRx := rfl
@[simp] theorem State.plantHunting_busy (s : State) : (s.plantHunting).busy = s.busy := rfl
@[simp] theorem State.plantHunting_inHand (s : State) : (s.plantHunting).inHand = s.inHand := rfl
@[simp] theorem State.plantHunting_store (s : State) : (s.plantHunting).store = s.store := rfl
@[simp] theorem State.plantHunting_draws (s : State) : (s.plantHunting).draws = s.draws := rfl
@[simp] theorem State.plantHunting_pending (s : State) : (s.plantHunting).pending = s.pending := rfl

/-! ### portHunting -/

@[simp] theorem State.portHunting_powered (s : State) (c : Console) : (s.portHunting c).powered = s.powered := rfl
@[simp] theorem State.portHunting_partTime (s : State) (c : Console) : (s.portHunting c).partTime = s.partTime := rfl
@[simp] theorem State.portHunting_loops (s : State) (c : Console) : (s.portHunting c).loops = s.loops := rfl
@[simp] theorem State.portHunting_cfg (s : State) (c : Console) : (s.portHunting c).cfg = s.cfg := rfl
@[simp] theorem State.portHunting_lines (s : State) (c : Console) : (s.portHunting c).lines = s.lines := rfl
@[simp] theorem State.portHunting_blankEnds (s : State) (c : Console) : (s.portHunting c).blankEnds = s.blankEnds := rfl
@[simp] theorem State.portHunting_live (s : State) (c : Console) : (s.portHunting c).live = s.live := rfl
@[simp] theorem State.portHunting_waiting (s : State) (c : Console) : (s.portHunting c).waiting = s.waiting := rfl
@[simp] theorem State.portHunting_routes (s : State) (c : Console) : (s.portHunting c).routes = s.routes := rfl
@[simp] theorem State.portHunting_relay (s : State) (c : Console) : (s.portHunting c).relay = s.relay := rfl
@[simp] theorem State.portHunting_day (s : State) (c : Console) : (s.portHunting c).day = s.day := rfl
@[simp] theorem State.portHunting_consoles (s : State) (c : Console) : (s.portHunting c).consoles = s.consoles := rfl
@[simp] theorem State.portHunting_handovers (s : State) (c : Console) : (s.portHunting c).handovers = s.handovers := rfl
@[simp] theorem State.portHunting_changeSet (s : State) (c : Console) : (s.portHunting c).changeSet = s.changeSet := rfl
@[simp] theorem State.portHunting_attention (s : State) (c : Console) : (s.portHunting c).attention = s.attention := rfl
@[simp] theorem State.portHunting_lastBatch (s : State) (c : Console) : (s.portHunting c).lastBatch = s.lastBatch := rfl
@[simp] theorem State.portHunting_plantRx (s : State) (c : Console) : (s.portHunting c).plantRx = s.plantRx := rfl
@[simp] theorem State.portHunting_portRx (s : State) (c : Console) :
    (s.portHunting c).portRx = upd s.portRx c fun r => { r with mode := .hunting } := rfl
@[simp] theorem State.portHunting_busy (s : State) (c : Console) : (s.portHunting c).busy = s.busy := rfl
@[simp] theorem State.portHunting_inHand (s : State) (c : Console) : (s.portHunting c).inHand = s.inHand := rfl
@[simp] theorem State.portHunting_store (s : State) (c : Console) : (s.portHunting c).store = s.store := rfl
@[simp] theorem State.portHunting_draws (s : State) (c : Console) : (s.portHunting c).draws = s.draws := rfl
@[simp] theorem State.portHunting_pending (s : State) (c : Console) : (s.portHunting c).pending = s.pending := rfl

/-! ### withResult -/

@[simp] theorem State.withResult_powered (s : State) (c : Console) (k : ResultSource) (r : Result) : (s.withResult c k r).powered = s.powered := by simp [State.withResult]
@[simp] theorem State.withResult_partTime (s : State) (c : Console) (k : ResultSource) (r : Result) : (s.withResult c k r).partTime = s.partTime := by simp [State.withResult]
@[simp] theorem State.withResult_loops (s : State) (c : Console) (k : ResultSource) (r : Result) : (s.withResult c k r).loops = s.loops := by simp [State.withResult]
@[simp] theorem State.withResult_cfg (s : State) (c : Console) (k : ResultSource) (r : Result) : (s.withResult c k r).cfg = s.cfg := by simp [State.withResult]
@[simp] theorem State.withResult_lines (s : State) (c : Console) (k : ResultSource) (r : Result) : (s.withResult c k r).lines = s.lines := by simp [State.withResult]
@[simp] theorem State.withResult_blankEnds (s : State) (c : Console) (k : ResultSource) (r : Result) : (s.withResult c k r).blankEnds = s.blankEnds := by simp [State.withResult]
@[simp] theorem State.withResult_live (s : State) (c : Console) (k : ResultSource) (r : Result) : (s.withResult c k r).live = s.live := by simp [State.withResult]
@[simp] theorem State.withResult_waiting (s : State) (c : Console) (k : ResultSource) (r : Result) : (s.withResult c k r).waiting = s.waiting := by simp [State.withResult]
@[simp] theorem State.withResult_routes (s : State) (c : Console) (k : ResultSource) (r : Result) : (s.withResult c k r).routes = s.routes := by simp [State.withResult]
@[simp] theorem State.withResult_relay (s : State) (c : Console) (k : ResultSource) (r : Result) : (s.withResult c k r).relay = s.relay := by simp [State.withResult]
@[simp] theorem State.withResult_day (s : State) (c : Console) (k : ResultSource) (r : Result) : (s.withResult c k r).day = s.day := by simp [State.withResult]
@[simp] theorem State.withResult_consoles (s : State) (c : Console) (k : ResultSource) (r : Result) :
    (s.withResult c k r).consoles = upd s.consoles c fun x => { x with resultNumber := x.resultNumber + 1, lastResult := some (k, r) } := by simp [State.withResult]
@[simp] theorem State.withResult_handovers (s : State) (c : Console) (k : ResultSource) (r : Result) : (s.withResult c k r).handovers = s.handovers := by simp [State.withResult]
@[simp] theorem State.withResult_changeSet (s : State) (c : Console) (k : ResultSource) (r : Result) : (s.withResult c k r).changeSet = s.changeSet := by simp [State.withResult]
@[simp] theorem State.withResult_attention (s : State) (c : Console) (k : ResultSource) (r : Result) : (s.withResult c k r).attention = s.attention := by simp [State.withResult]
@[simp] theorem State.withResult_lastBatch (s : State) (c : Console) (k : ResultSource) (r : Result) : (s.withResult c k r).lastBatch = s.lastBatch := by simp [State.withResult]
@[simp] theorem State.withResult_plantRx (s : State) (c : Console) (k : ResultSource) (r : Result) : (s.withResult c k r).plantRx = s.plantRx := by simp [State.withResult]
@[simp] theorem State.withResult_portRx (s : State) (c : Console) (k : ResultSource) (r : Result) : (s.withResult c k r).portRx = s.portRx := by simp [State.withResult]
@[simp] theorem State.withResult_busy (s : State) (c : Console) (k : ResultSource) (r : Result) : (s.withResult c k r).busy = s.busy := by simp [State.withResult]
@[simp] theorem State.withResult_inHand (s : State) (c : Console) (k : ResultSource) (r : Result) : (s.withResult c k r).inHand = s.inHand := by simp [State.withResult]
@[simp] theorem State.withResult_store (s : State) (c : Console) (k : ResultSource) (r : Result) : (s.withResult c k r).store = s.store := by simp [State.withResult]
@[simp] theorem State.withResult_draws (s : State) (c : Console) (k : ResultSource) (r : Result) : (s.withResult c k r).draws = s.draws := by simp [State.withResult]
@[simp] theorem State.withResult_pending (s : State) (c : Console) (k : ResultSource) (r : Result) : (s.withResult c k r).pending = s.pending := by simp [State.withResult]

/-! ### bandChanged -/

@[simp] theorem State.bandChanged_powered (s : State) (l : Line) (b : Band) : (s.bandChanged l b).powered = s.powered := by simp [State.bandChanged]
@[simp] theorem State.bandChanged_partTime (s : State) (l : Line) (b : Band) : (s.bandChanged l b).partTime = s.partTime := by simp [State.bandChanged]
@[simp] theorem State.bandChanged_loops (s : State) (l : Line) (b : Band) : (s.bandChanged l b).loops = s.loops := by simp [State.bandChanged]
@[simp] theorem State.bandChanged_cfg (s : State) (l : Line) (b : Band) : (s.bandChanged l b).cfg = s.cfg := by simp [State.bandChanged]
@[simp] theorem State.bandChanged_blankEnds (s : State) (l : Line) (b : Band) : (s.bandChanged l b).blankEnds = s.blankEnds := by simp [State.bandChanged]
@[simp] theorem State.bandChanged_live (s : State) (l : Line) (b : Band) : (s.bandChanged l b).live = s.live := by simp [State.bandChanged]
@[simp] theorem State.bandChanged_waiting (s : State) (l : Line) (b : Band) : (s.bandChanged l b).waiting = s.waiting := by simp [State.bandChanged]
@[simp] theorem State.bandChanged_routes (s : State) (l : Line) (b : Band) : (s.bandChanged l b).routes = s.routes := by simp [State.bandChanged]
@[simp] theorem State.bandChanged_relay (s : State) (l : Line) (b : Band) : (s.bandChanged l b).relay = s.relay := by simp [State.bandChanged]
@[simp] theorem State.bandChanged_day (s : State) (l : Line) (b : Band) : (s.bandChanged l b).day = s.day := by simp [State.bandChanged]
@[simp] theorem State.bandChanged_consoles (s : State) (l : Line) (b : Band) : (s.bandChanged l b).consoles = s.consoles := by simp [State.bandChanged]
@[simp] theorem State.bandChanged_handovers (s : State) (l : Line) (b : Band) : (s.bandChanged l b).handovers = s.handovers := by simp [State.bandChanged]
@[simp] theorem State.bandChanged_changeSet (s : State) (l : Line) (b : Band) : (s.bandChanged l b).changeSet = s.changeSet := by simp [State.bandChanged]
@[simp] theorem State.bandChanged_attention (s : State) (l : Line) (b : Band) : (s.bandChanged l b).attention = s.attention := by simp [State.bandChanged]
@[simp] theorem State.bandChanged_lastBatch (s : State) (l : Line) (b : Band) : (s.bandChanged l b).lastBatch = s.lastBatch := by simp [State.bandChanged]
@[simp] theorem State.bandChanged_plantRx (s : State) (l : Line) (b : Band) : (s.bandChanged l b).plantRx = s.plantRx := by simp [State.bandChanged]
@[simp] theorem State.bandChanged_portRx (s : State) (l : Line) (b : Band) : (s.bandChanged l b).portRx = s.portRx := by simp [State.bandChanged]
@[simp] theorem State.bandChanged_busy (s : State) (l : Line) (b : Band) : (s.bandChanged l b).busy = s.busy := by simp [State.bandChanged]
@[simp] theorem State.bandChanged_inHand (s : State) (l : Line) (b : Band) : (s.bandChanged l b).inHand = s.inHand := by simp [State.bandChanged]
@[simp] theorem State.bandChanged_store (s : State) (l : Line) (b : Band) : (s.bandChanged l b).store = s.store := by simp [State.bandChanged]
@[simp] theorem State.bandChanged_draws (s : State) (l : Line) (b : Band) : (s.bandChanged l b).draws = s.draws := by simp [State.bandChanged]
@[simp] theorem State.bandChanged_pending (s : State) (l : Line) (b : Band) : (s.bandChanged l b).pending = s.pending := by simp [State.bandChanged]

/-! ### blank -/

@[simp] theorem State.blank_powered (s : State) (g : Group) (t : Nat) : (s.blank g t).powered = s.powered := by simp [State.blank]
@[simp] theorem State.blank_partTime (s : State) (g : Group) (t : Nat) : (s.blank g t).partTime = s.partTime := by simp [State.blank]
@[simp] theorem State.blank_loops (s : State) (g : Group) (t : Nat) : (s.blank g t).loops = s.loops := by simp [State.blank]
@[simp] theorem State.blank_cfg (s : State) (g : Group) (t : Nat) : (s.blank g t).cfg = s.cfg := by simp [State.blank]
@[simp] theorem State.blank_blankEnds (s : State) (g : Group) (t : Nat) :
    (s.blank g t).blankEnds = s.blankEnds.set g.val (some t) g.isLt := by simp [State.blank]
@[simp] theorem State.blank_live (s : State) (g : Group) (t : Nat) : (s.blank g t).live = s.live := by simp [State.blank]
@[simp] theorem State.blank_waiting (s : State) (g : Group) (t : Nat) : (s.blank g t).waiting = s.waiting := by simp [State.blank]
@[simp] theorem State.blank_routes (s : State) (g : Group) (t : Nat) : (s.blank g t).routes = s.routes := by simp [State.blank]
@[simp] theorem State.blank_relay (s : State) (g : Group) (t : Nat) : (s.blank g t).relay = s.relay := by simp [State.blank]
@[simp] theorem State.blank_day (s : State) (g : Group) (t : Nat) : (s.blank g t).day = s.day := by simp [State.blank]
@[simp] theorem State.blank_consoles (s : State) (g : Group) (t : Nat) : (s.blank g t).consoles = s.consoles := by simp [State.blank]
@[simp] theorem State.blank_handovers (s : State) (g : Group) (t : Nat) : (s.blank g t).handovers = s.handovers := by simp [State.blank]
@[simp] theorem State.blank_changeSet (s : State) (g : Group) (t : Nat) : (s.blank g t).changeSet = s.changeSet := by simp [State.blank]
@[simp] theorem State.blank_attention (s : State) (g : Group) (t : Nat) : (s.blank g t).attention = s.attention := by simp [State.blank]
@[simp] theorem State.blank_lastBatch (s : State) (g : Group) (t : Nat) : (s.blank g t).lastBatch = s.lastBatch := by simp [State.blank]
@[simp] theorem State.blank_plantRx (s : State) (g : Group) (t : Nat) : (s.blank g t).plantRx = s.plantRx := by simp [State.blank]
@[simp] theorem State.blank_portRx (s : State) (g : Group) (t : Nat) : (s.blank g t).portRx = s.portRx := by simp [State.blank]
@[simp] theorem State.blank_busy (s : State) (g : Group) (t : Nat) : (s.blank g t).busy = s.busy := by simp [State.blank]
@[simp] theorem State.blank_inHand (s : State) (g : Group) (t : Nat) : (s.blank g t).inHand = s.inHand := by simp [State.blank]
@[simp] theorem State.blank_store (s : State) (g : Group) (t : Nat) : (s.blank g t).store = s.store := by simp [State.blank]
@[simp] theorem State.blank_draws (s : State) (g : Group) (t : Nat) : (s.blank g t).draws = s.draws := by simp [State.blank]
@[simp] theorem State.blank_pending (s : State) (g : Group) (t : Nat) : (s.blank g t).pending = s.pending := by simp [State.blank]

/-! ### retime -/

@[simp] theorem State.retime_powered (s : State) (i : Fin 4) : (s.retime i).powered = s.powered := by simp [State.retime]
@[simp] theorem State.retime_partTime (s : State) (i : Fin 4) : (s.retime i).partTime = s.partTime := by simp [State.retime]
@[simp] theorem State.retime_loops (s : State) (i : Fin 4) : (s.retime i).loops = s.loops := by simp [State.retime]
@[simp] theorem State.retime_cfg (s : State) (i : Fin 4) : (s.retime i).cfg = s.cfg := by simp [State.retime]
@[simp] theorem State.retime_lines (s : State) (i : Fin 4) : (s.retime i).lines = s.lines := by simp [State.retime]
@[simp] theorem State.retime_blankEnds (s : State) (i : Fin 4) : (s.retime i).blankEnds = s.blankEnds := by simp [State.retime]
@[simp] theorem State.retime_waiting (s : State) (i : Fin 4) : (s.retime i).waiting = s.waiting := by simp [State.retime]
@[simp] theorem State.retime_routes (s : State) (i : Fin 4) : (s.retime i).routes = s.routes := by simp [State.retime]
@[simp] theorem State.retime_relay (s : State) (i : Fin 4) : (s.retime i).relay = s.relay := by simp [State.retime]
@[simp] theorem State.retime_day (s : State) (i : Fin 4) : (s.retime i).day = s.day := by simp [State.retime]
@[simp] theorem State.retime_consoles (s : State) (i : Fin 4) : (s.retime i).consoles = s.consoles := by simp [State.retime]
@[simp] theorem State.retime_handovers (s : State) (i : Fin 4) : (s.retime i).handovers = s.handovers := by simp [State.retime]
@[simp] theorem State.retime_changeSet (s : State) (i : Fin 4) : (s.retime i).changeSet = s.changeSet := by simp [State.retime]
@[simp] theorem State.retime_attention (s : State) (i : Fin 4) : (s.retime i).attention = s.attention := by simp [State.retime]
@[simp] theorem State.retime_lastBatch (s : State) (i : Fin 4) : (s.retime i).lastBatch = s.lastBatch := by simp [State.retime]
@[simp] theorem State.retime_plantRx (s : State) (i : Fin 4) : (s.retime i).plantRx = s.plantRx := by simp [State.retime]
@[simp] theorem State.retime_portRx (s : State) (i : Fin 4) : (s.retime i).portRx = s.portRx := by simp [State.retime]
@[simp] theorem State.retime_busy (s : State) (i : Fin 4) : (s.retime i).busy = s.busy := by simp [State.retime]
@[simp] theorem State.retime_inHand (s : State) (i : Fin 4) : (s.retime i).inHand = s.inHand := by simp [State.retime]
@[simp] theorem State.retime_store (s : State) (i : Fin 4) : (s.retime i).store = s.store := by simp [State.retime]
@[simp] theorem State.retime_draws (s : State) (i : Fin 4) : (s.retime i).draws = s.draws := by simp [State.retime]
@[simp] theorem State.retime_pending (s : State) (i : Fin 4) : (s.retime i).pending = s.pending := by simp [State.retime]

/-! ### capCounts -/

@[simp] theorem State.capCounts_powered (s : State) : (s.capCounts).powered = s.powered := by simp [State.capCounts]
@[simp] theorem State.capCounts_partTime (s : State) : (s.capCounts).partTime = s.partTime := by simp [State.capCounts]
@[simp] theorem State.capCounts_loops (s : State) : (s.capCounts).loops = s.loops := by simp [State.capCounts]
@[simp] theorem State.capCounts_cfg (s : State) : (s.capCounts).cfg = s.cfg := by simp [State.capCounts]
@[simp] theorem State.capCounts_lines (s : State) : (s.capCounts).lines = s.lines := by simp [State.capCounts]
@[simp] theorem State.capCounts_blankEnds (s : State) : (s.capCounts).blankEnds = s.blankEnds := by simp [State.capCounts]
@[simp] theorem State.capCounts_live (s : State) : (s.capCounts).live = s.live := by simp [State.capCounts]
@[simp] theorem State.capCounts_waiting (s : State) : (s.capCounts).waiting = s.waiting := by simp [State.capCounts]
@[simp] theorem State.capCounts_routes (s : State) : (s.capCounts).routes = s.routes := by simp [State.capCounts]
@[simp] theorem State.capCounts_relay (s : State) : (s.capCounts).relay = s.relay := by simp [State.capCounts]
@[simp] theorem State.capCounts_day (s : State) : (s.capCounts).day = s.day := by simp [State.capCounts]
@[simp] theorem State.capCounts_consoles (s : State) :
    (s.capCounts).consoles = s.consoles.map (ConsoleRecord.capped s.cfg.params.failLimit) := by simp [State.capCounts]
@[simp] theorem State.capCounts_handovers (s : State) : (s.capCounts).handovers = s.handovers := by simp [State.capCounts]
@[simp] theorem State.capCounts_lastBatch (s : State) : (s.capCounts).lastBatch = s.lastBatch := by simp [State.capCounts]
@[simp] theorem State.capCounts_plantRx (s : State) : (s.capCounts).plantRx = s.plantRx := by simp [State.capCounts]
@[simp] theorem State.capCounts_portRx (s : State) : (s.capCounts).portRx = s.portRx := by simp [State.capCounts]
@[simp] theorem State.capCounts_busy (s : State) : (s.capCounts).busy = s.busy := by simp [State.capCounts]
@[simp] theorem State.capCounts_inHand (s : State) : (s.capCounts).inHand = s.inHand := by simp [State.capCounts]
@[simp] theorem State.capCounts_store (s : State) : (s.capCounts).store = s.store := by simp [State.capCounts]
@[simp] theorem State.capCounts_draws (s : State) : (s.capCounts).draws = s.draws := by simp [State.capCounts]
@[simp] theorem State.capCounts_pending (s : State) : (s.capCounts).pending = s.pending := by simp [State.capCounts]

/-! ### offer -/

@[simp] theorem State.offer_powered (s : State) (c : Console) (o : Operator) : (s.offer c o).powered = s.powered := by simp [State.offer]
@[simp] theorem State.offer_partTime (s : State) (c : Console) (o : Operator) : (s.offer c o).partTime = s.partTime := by simp [State.offer]
@[simp] theorem State.offer_loops (s : State) (c : Console) (o : Operator) : (s.offer c o).loops = s.loops := by simp [State.offer]
@[simp] theorem State.offer_cfg (s : State) (c : Console) (o : Operator) : (s.offer c o).cfg = s.cfg := by simp [State.offer]
@[simp] theorem State.offer_lines (s : State) (c : Console) (o : Operator) : (s.offer c o).lines = s.lines := by simp [State.offer]
@[simp] theorem State.offer_blankEnds (s : State) (c : Console) (o : Operator) : (s.offer c o).blankEnds = s.blankEnds := by simp [State.offer]
@[simp] theorem State.offer_live (s : State) (c : Console) (o : Operator) : (s.offer c o).live = s.live := by simp [State.offer]
@[simp] theorem State.offer_waiting (s : State) (c : Console) (o : Operator) : (s.offer c o).waiting = s.waiting := by simp [State.offer]
@[simp] theorem State.offer_routes (s : State) (c : Console) (o : Operator) : (s.offer c o).routes = s.routes := by simp [State.offer]
@[simp] theorem State.offer_relay (s : State) (c : Console) (o : Operator) : (s.offer c o).relay = s.relay := by simp [State.offer]
@[simp] theorem State.offer_day (s : State) (c : Console) (o : Operator) : (s.offer c o).day = s.day := by simp [State.offer]
@[simp] theorem State.offer_consoles (s : State) (c : Console) (o : Operator) : (s.offer c o).consoles = s.consoles := by simp [State.offer]
@[simp] theorem State.offer_handovers (s : State) (c : Console) (o : Operator) :
    (s.offer c o).handovers = upd s.handovers c fun h => { h with phase := .offered o (s.partTime + 10 * s.cfg.params.offerTime) (s.offerItems c) } := by simp [State.offer]
@[simp] theorem State.offer_lastBatch (s : State) (c : Console) (o : Operator) : (s.offer c o).lastBatch = s.lastBatch := by simp [State.offer]
@[simp] theorem State.offer_plantRx (s : State) (c : Console) (o : Operator) : (s.offer c o).plantRx = s.plantRx := by simp [State.offer]
@[simp] theorem State.offer_portRx (s : State) (c : Console) (o : Operator) : (s.offer c o).portRx = s.portRx := by simp [State.offer]
@[simp] theorem State.offer_busy (s : State) (c : Console) (o : Operator) : (s.offer c o).busy = s.busy := by simp [State.offer]
@[simp] theorem State.offer_inHand (s : State) (c : Console) (o : Operator) : (s.offer c o).inHand = s.inHand := by simp [State.offer]
@[simp] theorem State.offer_store (s : State) (c : Console) (o : Operator) : (s.offer c o).store = s.store := by simp [State.offer]
@[simp] theorem State.offer_draws (s : State) (c : Console) (o : Operator) : (s.offer c o).draws = s.draws := by simp [State.offer]
@[simp] theorem State.offer_pending (s : State) (c : Console) (o : Operator) : (s.offer c o).pending = s.pending := by simp [State.offer]

/-! ### markSeen -/

@[simp] theorem State.markSeen_powered (s : State) (c : Console) (x : ItemRef) : (s.markSeen c x).powered = s.powered := by simp [State.markSeen]
@[simp] theorem State.markSeen_partTime (s : State) (c : Console) (x : ItemRef) : (s.markSeen c x).partTime = s.partTime := by simp [State.markSeen]
@[simp] theorem State.markSeen_loops (s : State) (c : Console) (x : ItemRef) : (s.markSeen c x).loops = s.loops := by simp [State.markSeen]
@[simp] theorem State.markSeen_cfg (s : State) (c : Console) (x : ItemRef) : (s.markSeen c x).cfg = s.cfg := by simp [State.markSeen]
@[simp] theorem State.markSeen_lines (s : State) (c : Console) (x : ItemRef) : (s.markSeen c x).lines = s.lines := by simp [State.markSeen]
@[simp] theorem State.markSeen_blankEnds (s : State) (c : Console) (x : ItemRef) : (s.markSeen c x).blankEnds = s.blankEnds := by simp [State.markSeen]
@[simp] theorem State.markSeen_live (s : State) (c : Console) (x : ItemRef) : (s.markSeen c x).live = s.live := by simp [State.markSeen]
@[simp] theorem State.markSeen_waiting (s : State) (c : Console) (x : ItemRef) : (s.markSeen c x).waiting = s.waiting := by simp [State.markSeen]
@[simp] theorem State.markSeen_routes (s : State) (c : Console) (x : ItemRef) : (s.markSeen c x).routes = s.routes := by simp [State.markSeen]
@[simp] theorem State.markSeen_relay (s : State) (c : Console) (x : ItemRef) : (s.markSeen c x).relay = s.relay := by simp [State.markSeen]
@[simp] theorem State.markSeen_day (s : State) (c : Console) (x : ItemRef) : (s.markSeen c x).day = s.day := by simp [State.markSeen]
@[simp] theorem State.markSeen_consoles (s : State) (c : Console) (x : ItemRef) : (s.markSeen c x).consoles = s.consoles := by simp [State.markSeen]
@[simp] theorem State.markSeen_lastBatch (s : State) (c : Console) (x : ItemRef) : (s.markSeen c x).lastBatch = s.lastBatch := by simp [State.markSeen]
@[simp] theorem State.markSeen_plantRx (s : State) (c : Console) (x : ItemRef) : (s.markSeen c x).plantRx = s.plantRx := by simp [State.markSeen]
@[simp] theorem State.markSeen_portRx (s : State) (c : Console) (x : ItemRef) : (s.markSeen c x).portRx = s.portRx := by simp [State.markSeen]
@[simp] theorem State.markSeen_busy (s : State) (c : Console) (x : ItemRef) : (s.markSeen c x).busy = s.busy := by simp [State.markSeen]
@[simp] theorem State.markSeen_inHand (s : State) (c : Console) (x : ItemRef) : (s.markSeen c x).inHand = s.inHand := by simp [State.markSeen]
@[simp] theorem State.markSeen_store (s : State) (c : Console) (x : ItemRef) : (s.markSeen c x).store = s.store := by simp [State.markSeen]
@[simp] theorem State.markSeen_draws (s : State) (c : Console) (x : ItemRef) : (s.markSeen c x).draws = s.draws := by simp [State.markSeen]
@[simp] theorem State.markSeen_pending (s : State) (c : Console) (x : ItemRef) : (s.markSeen c x).pending = s.pending := by simp [State.markSeen]

/-! ### acceptDesk -/

@[simp] theorem State.acceptDesk_powered (s : State) (c : Console) (o i : Operator) : (s.acceptDesk c o i).powered = s.powered := by simp [State.acceptDesk]
@[simp] theorem State.acceptDesk_partTime (s : State) (c : Console) (o i : Operator) : (s.acceptDesk c o i).partTime = s.partTime := by simp [State.acceptDesk]
@[simp] theorem State.acceptDesk_loops (s : State) (c : Console) (o i : Operator) : (s.acceptDesk c o i).loops = s.loops := by simp [State.acceptDesk]
@[simp] theorem State.acceptDesk_cfg (s : State) (c : Console) (o i : Operator) : (s.acceptDesk c o i).cfg = s.cfg := by simp [State.acceptDesk]
@[simp] theorem State.acceptDesk_lines (s : State) (c : Console) (o i : Operator) : (s.acceptDesk c o i).lines = s.lines := by simp [State.acceptDesk]
@[simp] theorem State.acceptDesk_blankEnds (s : State) (c : Console) (o i : Operator) : (s.acceptDesk c o i).blankEnds = s.blankEnds := by simp [State.acceptDesk]
@[simp] theorem State.acceptDesk_live (s : State) (c : Console) (o i : Operator) : (s.acceptDesk c o i).live = s.live := by simp [State.acceptDesk]
@[simp] theorem State.acceptDesk_waiting (s : State) (c : Console) (o i : Operator) : (s.acceptDesk c o i).waiting = s.waiting := by simp [State.acceptDesk]
@[simp] theorem State.acceptDesk_routes (s : State) (c : Console) (o i : Operator) : (s.acceptDesk c o i).routes = s.routes := by simp [State.acceptDesk]
@[simp] theorem State.acceptDesk_relay (s : State) (c : Console) (o i : Operator) : (s.acceptDesk c o i).relay = s.relay := by simp [State.acceptDesk]
@[simp] theorem State.acceptDesk_day (s : State) (c : Console) (o i : Operator) : (s.acceptDesk c o i).day = s.day := by simp [State.acceptDesk]
@[simp] theorem State.acceptDesk_handovers (s : State) (c : Console) (o i : Operator) :
    (s.acceptDesk c o i).handovers = upd s.handovers c fun _ => { phase := .none, lastOutcome := some .accepted } := by simp [State.acceptDesk]
@[simp] theorem State.acceptDesk_lastBatch (s : State) (c : Console) (o i : Operator) : (s.acceptDesk c o i).lastBatch = s.lastBatch := by simp [State.acceptDesk]
@[simp] theorem State.acceptDesk_plantRx (s : State) (c : Console) (o i : Operator) : (s.acceptDesk c o i).plantRx = s.plantRx := by simp [State.acceptDesk]
@[simp] theorem State.acceptDesk_portRx (s : State) (c : Console) (o i : Operator) : (s.acceptDesk c o i).portRx = s.portRx := by simp [State.acceptDesk]
@[simp] theorem State.acceptDesk_busy (s : State) (c : Console) (o i : Operator) : (s.acceptDesk c o i).busy = s.busy := by simp [State.acceptDesk]
@[simp] theorem State.acceptDesk_inHand (s : State) (c : Console) (o i : Operator) : (s.acceptDesk c o i).inHand = s.inHand := by simp [State.acceptDesk]
@[simp] theorem State.acceptDesk_store (s : State) (c : Console) (o i : Operator) : (s.acceptDesk c o i).store = s.store := by simp [State.acceptDesk]
@[simp] theorem State.acceptDesk_draws (s : State) (c : Console) (o i : Operator) : (s.acceptDesk c o i).draws = s.draws := by simp [State.acceptDesk]
@[simp] theorem State.acceptDesk_pending (s : State) (c : Console) (o i : Operator) : (s.acceptDesk c o i).pending = s.pending := by simp [State.acceptDesk]

/-! ### released -/

@[simp] theorem State.released_powered (s : State) : (s.released).powered = s.powered := rfl
@[simp] theorem State.released_partTime (s : State) : (s.released).partTime = s.partTime := rfl
@[simp] theorem State.released_loops (s : State) : (s.released).loops = s.loops := rfl
@[simp] theorem State.released_cfg (s : State) : (s.released).cfg = s.cfg := rfl
@[simp] theorem State.released_lines (s : State) : (s.released).lines = s.lines := rfl
@[simp] theorem State.released_blankEnds (s : State) : (s.released).blankEnds = s.blankEnds := rfl
@[simp] theorem State.released_live (s : State) : (s.released).live = s.live := rfl
@[simp] theorem State.released_waiting (s : State) : (s.released).waiting = s.waiting := rfl
@[simp] theorem State.released_routes (s : State) : (s.released).routes = s.routes := rfl
@[simp] theorem State.released_relay (s : State) : (s.released).relay = s.relay := rfl
@[simp] theorem State.released_day (s : State) : (s.released).day = s.day := rfl
@[simp] theorem State.released_consoles (s : State) : (s.released).consoles = s.consoles := rfl
@[simp] theorem State.released_handovers (s : State) : (s.released).handovers = s.handovers := rfl
@[simp] theorem State.released_changeSet (s : State) : (s.released).changeSet = s.changeSet := rfl
@[simp] theorem State.released_attention (s : State) : (s.released).attention = s.attention := rfl
@[simp] theorem State.released_lastBatch (s : State) : (s.released).lastBatch = s.lastBatch := rfl
@[simp] theorem State.released_plantRx (s : State) : (s.released).plantRx = s.plantRx := rfl
@[simp] theorem State.released_portRx (s : State) : (s.released).portRx = s.portRx := rfl
@[simp] theorem State.released_busy (s : State) : (s.released).busy = s.busy := rfl
@[simp] theorem State.released_inHand (s : State) :
    (s.released).inHand = none := rfl
@[simp] theorem State.released_store (s : State) :
    (s.released).store = { s.store with writing := none } := rfl
@[simp] theorem State.released_draws (s : State) : (s.released).draws = s.draws := rfl
@[simp] theorem State.released_pending (s : State) : (s.released).pending = s.pending := rfl

/-! ### ticked -/

@[simp] theorem State.ticked_powered (s : State) : (s.ticked).powered = s.powered := by simp [State.ticked]
@[simp] theorem State.ticked_partTime (s : State) :
    (s.ticked).partTime = s.partTime + 1 := by simp [State.ticked]
@[simp] theorem State.ticked_loops (s : State) : (s.ticked).loops = s.loops := by simp [State.ticked]
@[simp] theorem State.ticked_cfg (s : State) : (s.ticked).cfg = s.cfg := by simp [State.ticked]
@[simp] theorem State.ticked_lines (s : State) : (s.ticked).lines = s.lines := by simp [State.ticked]
@[simp] theorem State.ticked_blankEnds (s : State) : (s.ticked).blankEnds = s.blankEnds := by simp [State.ticked]
@[simp] theorem State.ticked_live (s : State) : (s.ticked).live = s.live := by simp [State.ticked]
@[simp] theorem State.ticked_waiting (s : State) : (s.ticked).waiting = s.waiting := by simp [State.ticked]
@[simp] theorem State.ticked_routes (s : State) : (s.ticked).routes = s.routes := by simp [State.ticked]
@[simp] theorem State.ticked_relay (s : State) : (s.ticked).relay = s.relay := by simp [State.ticked]
@[simp] theorem State.ticked_day (s : State) : (s.ticked).day = s.day := by simp [State.ticked]
@[simp] theorem State.ticked_consoles (s : State) : (s.ticked).consoles = s.consoles := by simp [State.ticked]
@[simp] theorem State.ticked_handovers (s : State) : (s.ticked).handovers = s.handovers := by simp [State.ticked]
@[simp] theorem State.ticked_changeSet (s : State) : (s.ticked).changeSet = s.changeSet := by simp [State.ticked]
@[simp] theorem State.ticked_attention (s : State) : (s.ticked).attention = s.attention := by simp [State.ticked]
@[simp] theorem State.ticked_lastBatch (s : State) : (s.ticked).lastBatch = s.lastBatch := by simp [State.ticked]
@[simp] theorem State.ticked_plantRx (s : State) : (s.ticked).plantRx = s.plantRx := by simp [State.ticked]
@[simp] theorem State.ticked_portRx (s : State) : (s.ticked).portRx = s.portRx := by simp [State.ticked]
@[simp] theorem State.ticked_busy (s : State) : (s.ticked).busy = s.busy := by simp [State.ticked]
@[simp] theorem State.ticked_inHand (s : State) : (s.ticked).inHand = s.inHand := by simp [State.ticked]
@[simp] theorem State.ticked_store (s : State) : (s.ticked).store = s.store := by simp [State.ticked]
@[simp] theorem State.ticked_draws (s : State) :
    (s.ticked).draws = s.draws + 1 := by simp [State.ticked]

/-! ### settle -/

@[simp] theorem settle_powered (s t : State) (x : Option Console) : (settle s t x).powered = t.powered := by simp [settle]
@[simp] theorem settle_partTime (s t : State) (x : Option Console) : (settle s t x).partTime = t.partTime := by simp [settle]
@[simp] theorem settle_loops (s t : State) (x : Option Console) : (settle s t x).loops = t.loops := by simp [settle]
@[simp] theorem settle_cfg (s t : State) (x : Option Console) : (settle s t x).cfg = t.cfg := by simp [settle]
@[simp] theorem settle_lines (s t : State) (x : Option Console) : (settle s t x).lines = t.lines := by simp [settle]
@[simp] theorem settle_blankEnds (s t : State) (x : Option Console) : (settle s t x).blankEnds = t.blankEnds := by simp [settle]
@[simp] theorem settle_live (s t : State) (x : Option Console) : (settle s t x).live = t.live := by simp [settle]
@[simp] theorem settle_waiting (s t : State) (x : Option Console) : (settle s t x).waiting = t.waiting := by simp [settle]
@[simp] theorem settle_routes (s t : State) (x : Option Console) : (settle s t x).routes = t.routes := by simp [settle]
@[simp] theorem settle_relay (s t : State) (x : Option Console) : (settle s t x).relay = t.rehorn.relayWanted := by simp [settle]
@[simp] theorem settle_day (s t : State) (x : Option Console) : (settle s t x).day = t.day := by simp [settle]
@[simp] theorem settle_handovers (s t : State) (x : Option Console) : (settle s t x).handovers = t.handovers := by simp [settle]
@[simp] theorem settle_lastBatch (s t : State) (x : Option Console) : (settle s t x).lastBatch = t.lastBatch := by simp [settle]
@[simp] theorem settle_plantRx (s t : State) (x : Option Console) : (settle s t x).plantRx = t.plantRx := by simp [settle]
@[simp] theorem settle_portRx (s t : State) (x : Option Console) : (settle s t x).portRx = t.portRx := by simp [settle]
@[simp] theorem settle_busy (s t : State) (x : Option Console) : (settle s t x).busy = t.busy := by simp [settle]
@[simp] theorem settle_inHand (s t : State) (x : Option Console) : (settle s t x).inHand = t.inHand := by simp [settle]
@[simp] theorem settle_store (s t : State) (x : Option Console) : (settle s t x).store = t.store := by simp [settle]
@[simp] theorem settle_draws (s t : State) (x : Option Console) : (settle s t x).draws = t.draws := by simp [settle]
@[simp] theorem settle_pending (s t : State) (x : Option Console) : (settle s t x).pending = t.pending := by simp [settle]

end Sys2Proof.Machine
end

