-- ==== Sys2Proof/Laws/Frames.lean ====
section
/-! SUPPORT. What each operation of several cases leaves alone: one lemma for each field it never writes. -/

namespace Sys2Proof.Machine

/-- A field that each step of a fold leaves alone is left alone by the fold. -/
theorem foldl_same {α β : Type} (f : State → α) (g : State → β → State) (h : ∀ t x, f (g t x) = f t) (l : List β)
    (s : State) : f (l.foldl g s) = f s := by
  induction l generalizing s with
  | nil => rfl
  | cons x xs ih => rw [List.foldl_cons, ih, h]

/-! ### fillFrom -/

@[simp] theorem State.fillFrom_powered (s : State) (l : List Entry) : (State.fillFrom l s).powered = s.powered := by
  induction l generalizing s with
  | nil => rfl
  | cons e es ih =>
    unfold State.fillFrom
    split
    · rw [ih]; simp
    · rfl
@[simp] theorem State.fillFrom_partTime (s : State) (l : List Entry) :
    (State.fillFrom l s).partTime = s.partTime := by
  induction l generalizing s with
  | nil => rfl
  | cons e es ih =>
    unfold State.fillFrom
    split
    · rw [ih]; simp
    · rfl
@[simp] theorem State.fillFrom_loops (s : State) (l : List Entry) : (State.fillFrom l s).loops = s.loops := by
  induction l generalizing s with
  | nil => rfl
  | cons e es ih =>
    unfold State.fillFrom
    split
    · rw [ih]; simp
    · rfl
@[simp] theorem State.fillFrom_cfg (s : State) (l : List Entry) : (State.fillFrom l s).cfg = s.cfg := by
  induction l generalizing s with
  | nil => rfl
  | cons e es ih =>
    unfold State.fillFrom
    split
    · rw [ih]; simp
    · rfl
@[simp] theorem State.fillFrom_lines (s : State) (l : List Entry) : (State.fillFrom l s).lines = s.lines := by
  induction l generalizing s with
  | nil => rfl
  | cons e es ih =>
    unfold State.fillFrom
    split
    · rw [ih]; simp
    · rfl
@[simp] theorem State.fillFrom_blankEnds (s : State) (l : List Entry) :
    (State.fillFrom l s).blankEnds = s.blankEnds := by
  induction l generalizing s with
  | nil => rfl
  | cons e es ih =>
    unfold State.fillFrom
    split
    · rw [ih]; simp
    · rfl
@[simp] theorem State.fillFrom_routes (s : State) (l : List Entry) : (State.fillFrom l s).routes = s.routes := by
  induction l generalizing s with
  | nil => rfl
  | cons e es ih =>
    unfold State.fillFrom
    split
    · rw [ih]; simp
    · rfl
@[simp] theorem State.fillFrom_relay (s : State) (l : List Entry) : (State.fillFrom l s).relay = s.relay := by
  induction l generalizing s with
  | nil => rfl
  | cons e es ih =>
    unfold State.fillFrom
    split
    · rw [ih]; simp
    · rfl
@[simp] theorem State.fillFrom_day (s : State) (l : List Entry) : (State.fillFrom l s).day = s.day := by
  induction l generalizing s with
  | nil => rfl
  | cons e es ih =>
    unfold State.fillFrom
    split
    · rw [ih]; simp
    · rfl
@[simp] theorem State.fillFrom_lastBatch (s : State) (l : List Entry) :
    (State.fillFrom l s).lastBatch = s.lastBatch := by
  induction l generalizing s with
  | nil => rfl
  | cons e es ih =>
    unfold State.fillFrom
    split
    · rw [ih]; simp
    · rfl
@[simp] theorem State.fillFrom_plantRx (s : State) (l : List Entry) : (State.fillFrom l s).plantRx = s.plantRx := by
  induction l generalizing s with
  | nil => rfl
  | cons e es ih =>
    unfold State.fillFrom
    split
    · rw [ih]; simp
    · rfl
@[simp] theorem State.fillFrom_portRx (s : State) (l : List Entry) : (State.fillFrom l s).portRx = s.portRx := by
  induction l generalizing s with
  | nil => rfl
  | cons e es ih =>
    unfold State.fillFrom
    split
    · rw [ih]; simp
    · rfl
@[simp] theorem State.fillFrom_busy (s : State) (l : List Entry) : (State.fillFrom l s).busy = s.busy := by
  induction l generalizing s with
  | nil => rfl
  | cons e es ih =>
    unfold State.fillFrom
    split
    · rw [ih]; simp
    · rfl
@[simp] theorem State.fillFrom_inHand (s : State) (l : List Entry) : (State.fillFrom l s).inHand = s.inHand := by
  induction l generalizing s with
  | nil => rfl
  | cons e es ih =>
    unfold State.fillFrom
    split
    · rw [ih]; simp
    · rfl
@[simp] theorem State.fillFrom_store (s : State) (l : List Entry) : (State.fillFrom l s).store = s.store := by
  induction l generalizing s with
  | nil => rfl
  | cons e es ih =>
    unfold State.fillFrom
    split
    · rw [ih]; simp
    · rfl
@[simp] theorem State.fillFrom_draws (s : State) (l : List Entry) : (State.fillFrom l s).draws = s.draws := by
  induction l generalizing s with
  | nil => rfl
  | cons e es ih =>
    unfold State.fillFrom
    split
    · rw [ih]; simp
    · rfl
@[simp] theorem State.fillFrom_pending (s : State) (l : List Entry) : (State.fillFrom l s).pending = s.pending := by
  induction l generalizing s with
  | nil => rfl
  | cons e es ih =>
    unfold State.fillFrom
    split
    · rw [ih]; simp
    · rfl

theorem Phase.active_append (p : Phase) (x : ItemRef) : (p.append x).active = p.active := by
  cases p <;> rfl

@[simp] theorem State.admitEntry_listRefs (s : State) (i : Slot) (e : Entry) :
    (s.admitEntry i e).listRefs = s.listRefs := by
  funext a
  have h : ∀ c : Console, (s.admitEntry i e).handovers[c.val].phase.active = s.handovers[c.val].phase.active := by
    intro c
    simp only [State.admitEntry, State.admitRecord, State.appendItem, State.markAll, State.mapPhases,
      State.annunciate_handovers, Vector.getElem_ofFn]
    split
    · exact Phase.active_append _ _
    · rfl
  simp [State.listRefs, h]

@[simp] theorem State.admitEntry_entryRefs (s : State) (i : Slot) (e : Entry) :
    (s.admitEntry i e).entryRefs = s.entryRefs := by
  funext x; simp [State.entryRefs]

/-- What filling the freed slots does to the queue and the marks: some heads leave, and their admissions are marked in
queue order (R54, R183). -/
theorem State.fillFrom_marks (l : List Entry) (s : State) (hl : s.waiting = l) :
    ∃ k, (State.fillFrom l s).waiting = l.drop k ∧
      (State.fillFrom l s).changeSet = addRefs s.changeSet ((l.take k).flatMap s.entryRefs) ∧
      (State.fillFrom l s).attention = (s.attention || !(l.take k).isEmpty) := by
  induction l generalizing s with
  | nil => exact ⟨0, hl, rfl, by simp [State.fillFrom]⟩
  | cons e es ih =>
    unfold State.fillFrom
    split
    · next i hi =>
      obtain ⟨k, h1, h2, h3⟩ := ih (State.admitEntry { s with waiting := es } i e) (by simp)
      refine ⟨k + 1, by simpa using h1, ?_, by simpa using h3⟩
      rw [h2]
      simp only [List.take_succ_cons, List.flatMap_cons, addRefs, List.foldl_append, State.admitEntry_changeSet,
        State.admitEntry_entryRefs]
      rfl
    · exact ⟨0, hl, rfl, by simp⟩

/-! ### fill -/

@[simp] theorem State.fill_powered (s : State) : (s.fill).powered = s.powered := by simp [State.fill]
@[simp] theorem State.fill_partTime (s : State) : (s.fill).partTime = s.partTime := by simp [State.fill]
@[simp] theorem State.fill_loops (s : State) : (s.fill).loops = s.loops := by simp [State.fill]
@[simp] theorem State.fill_cfg (s : State) : (s.fill).cfg = s.cfg := by simp [State.fill]
@[simp] theorem State.fill_lines (s : State) : (s.fill).lines = s.lines := by simp [State.fill]
@[simp] theorem State.fill_blankEnds (s : State) : (s.fill).blankEnds = s.blankEnds := by simp [State.fill]
@[simp] theorem State.fill_routes (s : State) : (s.fill).routes = s.routes := by simp [State.fill]
@[simp] theorem State.fill_relay (s : State) : (s.fill).relay = s.relay := by simp [State.fill]
@[simp] theorem State.fill_day (s : State) : (s.fill).day = s.day := by simp [State.fill]
@[simp] theorem State.fill_lastBatch (s : State) : (s.fill).lastBatch = s.lastBatch := by simp [State.fill]
@[simp] theorem State.fill_plantRx (s : State) : (s.fill).plantRx = s.plantRx := by simp [State.fill]
@[simp] theorem State.fill_portRx (s : State) : (s.fill).portRx = s.portRx := by simp [State.fill]
@[simp] theorem State.fill_busy (s : State) : (s.fill).busy = s.busy := by simp [State.fill]
@[simp] theorem State.fill_inHand (s : State) : (s.fill).inHand = s.inHand := by simp [State.fill]
@[simp] theorem State.fill_store (s : State) : (s.fill).store = s.store := by simp [State.fill]
@[simp] theorem State.fill_draws (s : State) : (s.fill).draws = s.draws := by simp [State.fill]
@[simp] theorem State.fill_pending (s : State) : (s.fill).pending = s.pending := by simp [State.fill]

/-! ### removeAndFill -/

@[simp] theorem State.removeAndFill_powered (s : State) (i : Slot) (r : Record) :
    (s.removeAndFill i r).powered = s.powered := by simp [State.removeAndFill]
@[simp] theorem State.removeAndFill_partTime (s : State) (i : Slot) (r : Record) :
    (s.removeAndFill i r).partTime = s.partTime := by simp [State.removeAndFill]
@[simp] theorem State.removeAndFill_loops (s : State) (i : Slot) (r : Record) :
    (s.removeAndFill i r).loops = s.loops := by simp [State.removeAndFill]
@[simp] theorem State.removeAndFill_cfg (s : State) (i : Slot) (r : Record) :
    (s.removeAndFill i r).cfg = s.cfg := by simp [State.removeAndFill]
@[simp] theorem State.removeAndFill_lines (s : State) (i : Slot) (r : Record) :
    (s.removeAndFill i r).lines = s.lines := by simp [State.removeAndFill]
@[simp] theorem State.removeAndFill_blankEnds (s : State) (i : Slot) (r : Record) :
    (s.removeAndFill i r).blankEnds = s.blankEnds := by simp [State.removeAndFill]
@[simp] theorem State.removeAndFill_routes (s : State) (i : Slot) (r : Record) :
    (s.removeAndFill i r).routes = s.routes := by simp [State.removeAndFill]
@[simp] theorem State.removeAndFill_relay (s : State) (i : Slot) (r : Record) :
    (s.removeAndFill i r).relay = s.relay := by simp [State.removeAndFill]
@[simp] theorem State.removeAndFill_day (s : State) (i : Slot) (r : Record) :
    (s.removeAndFill i r).day = s.day := by simp [State.removeAndFill]
@[simp] theorem State.removeAndFill_lastBatch (s : State) (i : Slot) (r : Record) :
    (s.removeAndFill i r).lastBatch = s.lastBatch := by simp [State.removeAndFill]
@[simp] theorem State.removeAndFill_plantRx (s : State) (i : Slot) (r : Record) :
    (s.removeAndFill i r).plantRx = s.plantRx := by simp [State.removeAndFill]
@[simp] theorem State.removeAndFill_portRx (s : State) (i : Slot) (r : Record) :
    (s.removeAndFill i r).portRx = s.portRx := by simp [State.removeAndFill]
@[simp] theorem State.removeAndFill_busy (s : State) (i : Slot) (r : Record) :
    (s.removeAndFill i r).busy = s.busy := by simp [State.removeAndFill]
@[simp] theorem State.removeAndFill_inHand (s : State) (i : Slot) (r : Record) :
    (s.removeAndFill i r).inHand = s.inHand := by simp [State.removeAndFill]
@[simp] theorem State.removeAndFill_store (s : State) (i : Slot) (r : Record) :
    (s.removeAndFill i r).store = s.store := by simp [State.removeAndFill]
@[simp] theorem State.removeAndFill_draws (s : State) (i : Slot) (r : Record) :
    (s.removeAndFill i r).draws = s.draws := by simp [State.removeAndFill]
@[simp] theorem State.removeAndFill_pending (s : State) (i : Slot) (r : Record) :
    (s.removeAndFill i r).pending = s.pending := by simp [State.removeAndFill]

/-! ### removeAll -/

@[simp] theorem State.removeAll_powered (s : State) (l : List (Slot × Record)) :
    (s.removeAll l).powered = s.powered := by
  unfold State.removeAll
  rw [State.fill_powered]
  exact foldl_same State.powered _ (fun t x => by simp) l s
@[simp] theorem State.removeAll_partTime (s : State) (l : List (Slot × Record)) :
    (s.removeAll l).partTime = s.partTime := by
  unfold State.removeAll
  rw [State.fill_partTime]
  exact foldl_same State.partTime _ (fun t x => by simp) l s
@[simp] theorem State.removeAll_loops (s : State) (l : List (Slot × Record)) : (s.removeAll l).loops = s.loops := by
  unfold State.removeAll
  rw [State.fill_loops]
  exact foldl_same State.loops _ (fun t x => by simp) l s
@[simp] theorem State.removeAll_cfg (s : State) (l : List (Slot × Record)) : (s.removeAll l).cfg = s.cfg := by
  unfold State.removeAll
  rw [State.fill_cfg]
  exact foldl_same State.cfg _ (fun t x => by simp) l s
@[simp] theorem State.removeAll_lines (s : State) (l : List (Slot × Record)) : (s.removeAll l).lines = s.lines := by
  unfold State.removeAll
  rw [State.fill_lines]
  exact foldl_same State.lines _ (fun t x => by simp) l s
@[simp] theorem State.removeAll_blankEnds (s : State) (l : List (Slot × Record)) :
    (s.removeAll l).blankEnds = s.blankEnds := by
  unfold State.removeAll
  rw [State.fill_blankEnds]
  exact foldl_same State.blankEnds _ (fun t x => by simp) l s
@[simp] theorem State.removeAll_routes (s : State) (l : List (Slot × Record)) :
    (s.removeAll l).routes = s.routes := by
  unfold State.removeAll
  rw [State.fill_routes]
  exact foldl_same State.routes _ (fun t x => by simp) l s
@[simp] theorem State.removeAll_relay (s : State) (l : List (Slot × Record)) : (s.removeAll l).relay = s.relay := by
  unfold State.removeAll
  rw [State.fill_relay]
  exact foldl_same State.relay _ (fun t x => by simp) l s
@[simp] theorem State.removeAll_day (s : State) (l : List (Slot × Record)) : (s.removeAll l).day = s.day := by
  unfold State.removeAll
  rw [State.fill_day]
  exact foldl_same State.day _ (fun t x => by simp) l s
@[simp] theorem State.removeAll_lastBatch (s : State) (l : List (Slot × Record)) :
    (s.removeAll l).lastBatch = s.lastBatch := by
  unfold State.removeAll
  rw [State.fill_lastBatch]
  exact foldl_same State.lastBatch _ (fun t x => by simp) l s
@[simp] theorem State.removeAll_plantRx (s : State) (l : List (Slot × Record)) :
    (s.removeAll l).plantRx = s.plantRx := by
  unfold State.removeAll
  rw [State.fill_plantRx]
  exact foldl_same State.plantRx _ (fun t x => by simp) l s
@[simp] theorem State.removeAll_portRx (s : State) (l : List (Slot × Record)) :
    (s.removeAll l).portRx = s.portRx := by
  unfold State.removeAll
  rw [State.fill_portRx]
  exact foldl_same State.portRx _ (fun t x => by simp) l s
@[simp] theorem State.removeAll_busy (s : State) (l : List (Slot × Record)) : (s.removeAll l).busy = s.busy := by
  unfold State.removeAll
  rw [State.fill_busy]
  exact foldl_same State.busy _ (fun t x => by simp) l s
@[simp] theorem State.removeAll_inHand (s : State) (l : List (Slot × Record)) :
    (s.removeAll l).inHand = s.inHand := by
  unfold State.removeAll
  rw [State.fill_inHand]
  exact foldl_same State.inHand _ (fun t x => by simp) l s
@[simp] theorem State.removeAll_store (s : State) (l : List (Slot × Record)) : (s.removeAll l).store = s.store := by
  unfold State.removeAll
  rw [State.fill_store]
  exact foldl_same State.store _ (fun t x => by simp) l s
@[simp] theorem State.removeAll_draws (s : State) (l : List (Slot × Record)) : (s.removeAll l).draws = s.draws := by
  unfold State.removeAll
  rw [State.fill_draws]
  exact foldl_same State.draws _ (fun t x => by simp) l s
@[simp] theorem State.removeAll_pending (s : State) (l : List (Slot × Record)) :
    (s.removeAll l).pending = s.pending := by
  unfold State.removeAll
  rw [State.fill_pending]
  exact foldl_same State.pending _ (fun t x => by simp) l s

/-! ### abortHandover -/

@[simp] theorem State.abortHandover_powered (s : State) (c : Console) (x : HandoverOutcome) :
    (s.abortHandover c x).powered = s.powered := by
  unfold State.abortHandover; split <;> rfl
@[simp] theorem State.abortHandover_partTime (s : State) (c : Console) (x : HandoverOutcome) :
    (s.abortHandover c x).partTime = s.partTime := by
  unfold State.abortHandover; split <;> rfl
@[simp] theorem State.abortHandover_loops (s : State) (c : Console) (x : HandoverOutcome) :
    (s.abortHandover c x).loops = s.loops := by
  unfold State.abortHandover; split <;> rfl
@[simp] theorem State.abortHandover_cfg (s : State) (c : Console) (x : HandoverOutcome) :
    (s.abortHandover c x).cfg = s.cfg := by
  unfold State.abortHandover; split <;> rfl
@[simp] theorem State.abortHandover_lines (s : State) (c : Console) (x : HandoverOutcome) :
    (s.abortHandover c x).lines = s.lines := by
  unfold State.abortHandover; split <;> rfl
@[simp] theorem State.abortHandover_blankEnds (s : State) (c : Console) (x : HandoverOutcome) :
    (s.abortHandover c x).blankEnds = s.blankEnds := by
  unfold State.abortHandover; split <;> rfl
@[simp] theorem State.abortHandover_live (s : State) (c : Console) (x : HandoverOutcome) :
    (s.abortHandover c x).live = s.live := by
  unfold State.abortHandover; split <;> rfl
@[simp] theorem State.abortHandover_waiting (s : State) (c : Console) (x : HandoverOutcome) :
    (s.abortHandover c x).waiting = s.waiting := by
  unfold State.abortHandover; split <;> rfl
@[simp] theorem State.abortHandover_routes (s : State) (c : Console) (x : HandoverOutcome) :
    (s.abortHandover c x).routes = s.routes := by
  unfold State.abortHandover; split <;> rfl
@[simp] theorem State.abortHandover_relay (s : State) (c : Console) (x : HandoverOutcome) :
    (s.abortHandover c x).relay = s.relay := by
  unfold State.abortHandover; split <;> rfl
@[simp] theorem State.abortHandover_day (s : State) (c : Console) (x : HandoverOutcome) :
    (s.abortHandover c x).day = s.day := by
  unfold State.abortHandover; split <;> rfl
@[simp] theorem State.abortHandover_consoles (s : State) (c : Console) (x : HandoverOutcome) :
    (s.abortHandover c x).consoles = s.consoles := by
  unfold State.abortHandover; split <;> rfl
@[simp] theorem State.abortHandover_lastBatch (s : State) (c : Console) (x : HandoverOutcome) :
    (s.abortHandover c x).lastBatch = s.lastBatch := by
  unfold State.abortHandover; split <;> rfl
@[simp] theorem State.abortHandover_plantRx (s : State) (c : Console) (x : HandoverOutcome) :
    (s.abortHandover c x).plantRx = s.plantRx := by
  unfold State.abortHandover; split <;> rfl
@[simp] theorem State.abortHandover_portRx (s : State) (c : Console) (x : HandoverOutcome) :
    (s.abortHandover c x).portRx = s.portRx := by
  unfold State.abortHandover; split <;> rfl
@[simp] theorem State.abortHandover_busy (s : State) (c : Console) (x : HandoverOutcome) :
    (s.abortHandover c x).busy = s.busy := by
  unfold State.abortHandover; split <;> rfl
@[simp] theorem State.abortHandover_inHand (s : State) (c : Console) (x : HandoverOutcome) :
    (s.abortHandover c x).inHand = s.inHand := by
  unfold State.abortHandover; split <;> rfl
@[simp] theorem State.abortHandover_store (s : State) (c : Console) (x : HandoverOutcome) :
    (s.abortHandover c x).store = s.store := by
  unfold State.abortHandover; split <;> rfl
@[simp] theorem State.abortHandover_draws (s : State) (c : Console) (x : HandoverOutcome) :
    (s.abortHandover c x).draws = s.draws := by
  unfold State.abortHandover; split <;> rfl
@[simp] theorem State.abortHandover_pending (s : State) (c : Console) (x : HandoverOutcome) :
    (s.abortHandover c x).pending = s.pending := by
  unfold State.abortHandover; split <;> rfl

/-! ### detach -/

@[simp] theorem State.detach_powered (s : State) (c : Console) : (s.detach c).powered = s.powered := by
  unfold State.detach; split <;> rfl
@[simp] theorem State.detach_partTime (s : State) (c : Console) : (s.detach c).partTime = s.partTime := by
  unfold State.detach; split <;> rfl
@[simp] theorem State.detach_loops (s : State) (c : Console) : (s.detach c).loops = s.loops := by
  unfold State.detach; split <;> rfl
@[simp] theorem State.detach_cfg (s : State) (c : Console) : (s.detach c).cfg = s.cfg := by
  unfold State.detach; split <;> rfl
@[simp] theorem State.detach_lines (s : State) (c : Console) : (s.detach c).lines = s.lines := by
  unfold State.detach; split <;> rfl
@[simp] theorem State.detach_blankEnds (s : State) (c : Console) : (s.detach c).blankEnds = s.blankEnds := by
  unfold State.detach; split <;> rfl
@[simp] theorem State.detach_live (s : State) (c : Console) : (s.detach c).live = s.live := by
  unfold State.detach; split <;> rfl
@[simp] theorem State.detach_waiting (s : State) (c : Console) : (s.detach c).waiting = s.waiting := by
  unfold State.detach; split <;> rfl
@[simp] theorem State.detach_routes (s : State) (c : Console) : (s.detach c).routes = s.routes := by
  unfold State.detach; split <;> rfl
@[simp] theorem State.detach_relay (s : State) (c : Console) : (s.detach c).relay = s.relay := by
  unfold State.detach; split <;> rfl
@[simp] theorem State.detach_day (s : State) (c : Console) : (s.detach c).day = s.day := by
  unfold State.detach; split <;> rfl
@[simp] theorem State.detach_handovers (s : State) (c : Console) : (s.detach c).handovers = s.handovers := by
  unfold State.detach; split <;> rfl
@[simp] theorem State.detach_lastBatch (s : State) (c : Console) : (s.detach c).lastBatch = s.lastBatch := by
  unfold State.detach; split <;> rfl
@[simp] theorem State.detach_plantRx (s : State) (c : Console) : (s.detach c).plantRx = s.plantRx := by
  unfold State.detach; split <;> rfl
@[simp] theorem State.detach_portRx (s : State) (c : Console) : (s.detach c).portRx = s.portRx := by
  unfold State.detach; split <;> rfl
@[simp] theorem State.detach_busy (s : State) (c : Console) : (s.detach c).busy = s.busy := by
  unfold State.detach; split <;> rfl
@[simp] theorem State.detach_inHand (s : State) (c : Console) : (s.detach c).inHand = s.inHand := by
  unfold State.detach; split <;> rfl
@[simp] theorem State.detach_store (s : State) (c : Console) : (s.detach c).store = s.store := by
  unfold State.detach; split <;> rfl
@[simp] theorem State.detach_draws (s : State) (c : Console) : (s.detach c).draws = s.draws := by
  unfold State.detach; split <;> rfl
@[simp] theorem State.detach_pending (s : State) (c : Console) : (s.detach c).pending = s.pending := by
  unfold State.detach; split <;> rfl

/-! ### endSession -/

@[simp] theorem State.endSession_powered (s : State) (c : Console) (x : EndCause) :
    (s.endSession c x).powered = s.powered := by
  unfold State.endSession; split <;> simp
@[simp] theorem State.endSession_partTime (s : State) (c : Console) (x : EndCause) :
    (s.endSession c x).partTime = s.partTime := by
  unfold State.endSession; split <;> simp
@[simp] theorem State.endSession_loops (s : State) (c : Console) (x : EndCause) :
    (s.endSession c x).loops = s.loops := by
  unfold State.endSession; split <;> simp
@[simp] theorem State.endSession_cfg (s : State) (c : Console) (x : EndCause) : (s.endSession c x).cfg = s.cfg := by
  unfold State.endSession; split <;> simp
@[simp] theorem State.endSession_lines (s : State) (c : Console) (x : EndCause) :
    (s.endSession c x).lines = s.lines := by
  unfold State.endSession; split <;> simp
@[simp] theorem State.endSession_blankEnds (s : State) (c : Console) (x : EndCause) :
    (s.endSession c x).blankEnds = s.blankEnds := by
  unfold State.endSession; split <;> simp
@[simp] theorem State.endSession_waiting (s : State) (c : Console) (x : EndCause) :
    (s.endSession c x).waiting = s.waiting := by
  unfold State.endSession; split <;> simp
@[simp] theorem State.endSession_relay (s : State) (c : Console) (x : EndCause) :
    (s.endSession c x).relay = s.relay := by
  unfold State.endSession; split <;> simp
@[simp] theorem State.endSession_day (s : State) (c : Console) (x : EndCause) : (s.endSession c x).day = s.day := by
  unfold State.endSession; split <;> simp
@[simp] theorem State.endSession_handovers (s : State) (c : Console) (x : EndCause) :
    (s.endSession c x).handovers = s.handovers := by
  unfold State.endSession; split <;> simp
@[simp] theorem State.endSession_lastBatch (s : State) (c : Console) (x : EndCause) :
    (s.endSession c x).lastBatch = s.lastBatch := by
  unfold State.endSession; split <;> simp
@[simp] theorem State.endSession_plantRx (s : State) (c : Console) (x : EndCause) :
    (s.endSession c x).plantRx = s.plantRx := by
  unfold State.endSession; split <;> simp
@[simp] theorem State.endSession_portRx (s : State) (c : Console) (x : EndCause) :
    (s.endSession c x).portRx = s.portRx := by
  unfold State.endSession; split <;> simp
@[simp] theorem State.endSession_busy (s : State) (c : Console) (x : EndCause) :
    (s.endSession c x).busy = s.busy := by
  unfold State.endSession; split <;> simp
@[simp] theorem State.endSession_inHand (s : State) (c : Console) (x : EndCause) :
    (s.endSession c x).inHand = s.inHand := by
  unfold State.endSession; split <;> simp
@[simp] theorem State.endSession_store (s : State) (c : Console) (x : EndCause) :
    (s.endSession c x).store = s.store := by
  unfold State.endSession; split <;> simp
@[simp] theorem State.endSession_draws (s : State) (c : Console) (x : EndCause) :
    (s.endSession c x).draws = s.draws := by
  unfold State.endSession; split <;> simp
@[simp] theorem State.endSession_pending (s : State) (c : Console) (x : EndCause) :
    (s.endSession c x).pending = s.pending := by
  unfold State.endSession; split <;> simp

/-! ### loseLink -/

@[simp] theorem State.loseLink_powered (s : State) (c : Console) : (s.loseLink c).powered = s.powered := by
  unfold State.loseLink; split <;> simp
@[simp] theorem State.loseLink_partTime (s : State) (c : Console) : (s.loseLink c).partTime = s.partTime := by
  unfold State.loseLink; split <;> simp
@[simp] theorem State.loseLink_loops (s : State) (c : Console) : (s.loseLink c).loops = s.loops := by
  unfold State.loseLink; split <;> simp
@[simp] theorem State.loseLink_cfg (s : State) (c : Console) : (s.loseLink c).cfg = s.cfg := by
  unfold State.loseLink; split <;> simp
@[simp] theorem State.loseLink_lines (s : State) (c : Console) : (s.loseLink c).lines = s.lines := by
  unfold State.loseLink; split <;> simp
@[simp] theorem State.loseLink_blankEnds (s : State) (c : Console) : (s.loseLink c).blankEnds = s.blankEnds := by
  unfold State.loseLink; split <;> simp
@[simp] theorem State.loseLink_live (s : State) (c : Console) : (s.loseLink c).live = s.live := by
  unfold State.loseLink; split <;> simp
@[simp] theorem State.loseLink_waiting (s : State) (c : Console) : (s.loseLink c).waiting = s.waiting := by
  unfold State.loseLink; split <;> simp
@[simp] theorem State.loseLink_routes (s : State) (c : Console) : (s.loseLink c).routes = s.routes := by
  unfold State.loseLink; split <;> simp
@[simp] theorem State.loseLink_relay (s : State) (c : Console) : (s.loseLink c).relay = s.relay := by
  unfold State.loseLink; split <;> simp
@[simp] theorem State.loseLink_day (s : State) (c : Console) : (s.loseLink c).day = s.day := by
  unfold State.loseLink; split <;> simp
@[simp] theorem State.loseLink_lastBatch (s : State) (c : Console) : (s.loseLink c).lastBatch = s.lastBatch := by
  unfold State.loseLink; split <;> simp
@[simp] theorem State.loseLink_plantRx (s : State) (c : Console) : (s.loseLink c).plantRx = s.plantRx := by
  unfold State.loseLink; split <;> simp
@[simp] theorem State.loseLink_portRx (s : State) (c : Console) : (s.loseLink c).portRx = s.portRx := by
  unfold State.loseLink; split <;> simp
@[simp] theorem State.loseLink_busy (s : State) (c : Console) : (s.loseLink c).busy = s.busy := by
  unfold State.loseLink; split <;> simp
@[simp] theorem State.loseLink_inHand (s : State) (c : Console) : (s.loseLink c).inHand = s.inHand := by
  unfold State.loseLink; split <;> simp
@[simp] theorem State.loseLink_store (s : State) (c : Console) : (s.loseLink c).store = s.store := by
  unfold State.loseLink; split <;> simp
@[simp] theorem State.loseLink_draws (s : State) (c : Console) : (s.loseLink c).draws = s.draws := by
  unfold State.loseLink; split <;> simp
@[simp] theorem State.loseLink_pending (s : State) (c : Console) : (s.loseLink c).pending = s.pending := by
  unfold State.loseLink; split <;> simp

/-! ### failWindow -/

@[simp] theorem State.failWindow_powered (s : State) (c : Console) (t : Nat) :
    (s.failWindow c t).powered = s.powered := by
  unfold State.failWindow; dsimp only; split <;> simp
@[simp] theorem State.failWindow_partTime (s : State) (c : Console) (t : Nat) :
    (s.failWindow c t).partTime = s.partTime := by
  unfold State.failWindow; dsimp only; split <;> simp
@[simp] theorem State.failWindow_loops (s : State) (c : Console) (t : Nat) : (s.failWindow c t).loops = s.loops := by
  unfold State.failWindow; dsimp only; split <;> simp
@[simp] theorem State.failWindow_cfg (s : State) (c : Console) (t : Nat) : (s.failWindow c t).cfg = s.cfg := by
  unfold State.failWindow; dsimp only; split <;> simp
@[simp] theorem State.failWindow_lines (s : State) (c : Console) (t : Nat) : (s.failWindow c t).lines = s.lines := by
  unfold State.failWindow; dsimp only; split <;> simp
@[simp] theorem State.failWindow_blankEnds (s : State) (c : Console) (t : Nat) :
    (s.failWindow c t).blankEnds = s.blankEnds := by
  unfold State.failWindow; dsimp only; split <;> simp
@[simp] theorem State.failWindow_waiting (s : State) (c : Console) (t : Nat) :
    (s.failWindow c t).waiting = s.waiting := by
  unfold State.failWindow; dsimp only; split <;> simp
@[simp] theorem State.failWindow_relay (s : State) (c : Console) (t : Nat) : (s.failWindow c t).relay = s.relay := by
  unfold State.failWindow; dsimp only; split <;> simp
@[simp] theorem State.failWindow_day (s : State) (c : Console) (t : Nat) : (s.failWindow c t).day = s.day := by
  unfold State.failWindow; dsimp only; split <;> simp
@[simp] theorem State.failWindow_lastBatch (s : State) (c : Console) (t : Nat) :
    (s.failWindow c t).lastBatch = s.lastBatch := by
  unfold State.failWindow; dsimp only; split <;> simp
@[simp] theorem State.failWindow_plantRx (s : State) (c : Console) (t : Nat) :
    (s.failWindow c t).plantRx = s.plantRx := by
  unfold State.failWindow; dsimp only; split <;> simp
@[simp] theorem State.failWindow_portRx (s : State) (c : Console) (t : Nat) :
    (s.failWindow c t).portRx = s.portRx := by
  unfold State.failWindow; dsimp only; split <;> simp
@[simp] theorem State.failWindow_busy (s : State) (c : Console) (t : Nat) : (s.failWindow c t).busy = s.busy := by
  unfold State.failWindow; dsimp only; split <;> simp
@[simp] theorem State.failWindow_inHand (s : State) (c : Console) (t : Nat) :
    (s.failWindow c t).inHand = s.inHand := by
  unfold State.failWindow; dsimp only; split <;> simp
@[simp] theorem State.failWindow_store (s : State) (c : Console) (t : Nat) : (s.failWindow c t).store = s.store := by
  unfold State.failWindow; dsimp only; split <;> simp
@[simp] theorem State.failWindow_draws (s : State) (c : Console) (t : Nat) : (s.failWindow c t).draws = s.draws := by
  unfold State.failWindow; dsimp only; split <;> simp
@[simp] theorem State.failWindow_pending (s : State) (c : Console) (t : Nat) :
    (s.failWindow c t).pending = s.pending := by
  unfold State.failWindow; dsimp only; split <;> simp

/-! ### hornReport -/

@[simp] theorem State.hornReport_powered (s : State) (c : Console) (b : Bool) :
    (s.hornReport c b).powered = s.powered := by
  unfold State.hornReport State.faultHorn; split <;> simp
@[simp] theorem State.hornReport_partTime (s : State) (c : Console) (b : Bool) :
    (s.hornReport c b).partTime = s.partTime := by
  unfold State.hornReport State.faultHorn; split <;> simp
@[simp] theorem State.hornReport_loops (s : State) (c : Console) (b : Bool) : (s.hornReport c b).loops = s.loops := by
  unfold State.hornReport State.faultHorn; split <;> simp
@[simp] theorem State.hornReport_cfg (s : State) (c : Console) (b : Bool) : (s.hornReport c b).cfg = s.cfg := by
  unfold State.hornReport State.faultHorn; split <;> simp
@[simp] theorem State.hornReport_lines (s : State) (c : Console) (b : Bool) : (s.hornReport c b).lines = s.lines := by
  unfold State.hornReport State.faultHorn; split <;> simp
@[simp] theorem State.hornReport_blankEnds (s : State) (c : Console) (b : Bool) :
    (s.hornReport c b).blankEnds = s.blankEnds := by
  unfold State.hornReport State.faultHorn; split <;> simp
@[simp] theorem State.hornReport_waiting (s : State) (c : Console) (b : Bool) :
    (s.hornReport c b).waiting = s.waiting := by
  unfold State.hornReport State.faultHorn; split <;> simp
@[simp] theorem State.hornReport_routes (s : State) (c : Console) (b : Bool) :
    (s.hornReport c b).routes = s.routes := by
  unfold State.hornReport State.faultHorn; split <;> simp
@[simp] theorem State.hornReport_relay (s : State) (c : Console) (b : Bool) : (s.hornReport c b).relay = s.relay := by
  unfold State.hornReport State.faultHorn; split <;> simp
@[simp] theorem State.hornReport_day (s : State) (c : Console) (b : Bool) : (s.hornReport c b).day = s.day := by
  unfold State.hornReport State.faultHorn; split <;> simp
@[simp] theorem State.hornReport_handovers (s : State) (c : Console) (b : Bool) :
    (s.hornReport c b).handovers = s.handovers := by
  unfold State.hornReport State.faultHorn; split <;> simp
theorem State.hornReport_changeSet (s : State) (c : Console) (b : Bool) :
    (s.hornReport c b).changeSet =
      if b && !s.consoles[c].hornFault then addRefs s.changeSet (s.hornRefs c) else s.changeSet := by
  unfold State.hornReport State.faultHorn; split <;> simp
theorem State.hornReport_attention (s : State) (c : Console) (b : Bool) :
    (s.hornReport c b).attention = (s.attention || b && !s.consoles[c].hornFault) := by
  unfold State.hornReport State.faultHorn
  split
  · next h => simp only [h]; simp [State.hornRefs, State.markAll]
  · next h => simp only [Bool.not_eq_true] at h; rw [h, Bool.or_false]
@[simp] theorem State.hornReport_lastBatch (s : State) (c : Console) (b : Bool) :
    (s.hornReport c b).lastBatch = s.lastBatch := by
  unfold State.hornReport State.faultHorn; split <;> simp
@[simp] theorem State.hornReport_plantRx (s : State) (c : Console) (b : Bool) :
    (s.hornReport c b).plantRx = s.plantRx := by
  unfold State.hornReport State.faultHorn; split <;> simp
@[simp] theorem State.hornReport_portRx (s : State) (c : Console) (b : Bool) :
    (s.hornReport c b).portRx = s.portRx := by
  unfold State.hornReport State.faultHorn; split <;> simp
@[simp] theorem State.hornReport_busy (s : State) (c : Console) (b : Bool) : (s.hornReport c b).busy = s.busy := by
  unfold State.hornReport State.faultHorn; split <;> simp
@[simp] theorem State.hornReport_inHand (s : State) (c : Console) (b : Bool) :
    (s.hornReport c b).inHand = s.inHand := by
  unfold State.hornReport State.faultHorn; split <;> simp
@[simp] theorem State.hornReport_store (s : State) (c : Console) (b : Bool) : (s.hornReport c b).store = s.store := by
  unfold State.hornReport State.faultHorn; split <;> simp
@[simp] theorem State.hornReport_draws (s : State) (c : Console) (b : Bool) : (s.hornReport c b).draws = s.draws := by
  unfold State.hornReport State.faultHorn; split <;> simp
@[simp] theorem State.hornReport_pending (s : State) (c : Console) (b : Bool) :
    (s.hornReport c b).pending = s.pending := by
  unfold State.hornReport State.faultHorn; split <;> simp

/-! ### successWindow -/

@[simp] theorem State.successWindow_powered (s : State) (c : Console) : (s.successWindow c).powered = s.powered := by
  unfold State.successWindow; dsimp only; split <;> simp
@[simp] theorem State.successWindow_partTime (s : State) (c : Console) :
    (s.successWindow c).partTime = s.partTime := by
  unfold State.successWindow; dsimp only; split <;> simp
@[simp] theorem State.successWindow_loops (s : State) (c : Console) : (s.successWindow c).loops = s.loops := by
  unfold State.successWindow; dsimp only; split <;> simp
@[simp] theorem State.successWindow_cfg (s : State) (c : Console) : (s.successWindow c).cfg = s.cfg := by
  unfold State.successWindow; dsimp only; split <;> simp
@[simp] theorem State.successWindow_lines (s : State) (c : Console) : (s.successWindow c).lines = s.lines := by
  unfold State.successWindow; dsimp only; split <;> simp
@[simp] theorem State.successWindow_blankEnds (s : State) (c : Console) :
    (s.successWindow c).blankEnds = s.blankEnds := by
  unfold State.successWindow; dsimp only; split <;> simp
@[simp] theorem State.successWindow_waiting (s : State) (c : Console) : (s.successWindow c).waiting = s.waiting := by
  unfold State.successWindow; dsimp only; split <;> simp
@[simp] theorem State.successWindow_relay (s : State) (c : Console) : (s.successWindow c).relay = s.relay := by
  unfold State.successWindow; dsimp only; split <;> simp
@[simp] theorem State.successWindow_day (s : State) (c : Console) : (s.successWindow c).day = s.day := by
  unfold State.successWindow; dsimp only; split <;> simp
@[simp] theorem State.successWindow_handovers (s : State) (c : Console) :
    (s.successWindow c).handovers = s.handovers := by
  unfold State.successWindow; dsimp only; split <;> simp
@[simp] theorem State.successWindow_changeSet (s : State) (c : Console) :
    (s.successWindow c).changeSet = s.changeSet := by
  unfold State.successWindow; dsimp only; split <;> simp
@[simp] theorem State.successWindow_attention (s : State) (c : Console) :
    (s.successWindow c).attention = s.attention := by
  unfold State.successWindow; dsimp only; split <;> simp
@[simp] theorem State.successWindow_lastBatch (s : State) (c : Console) :
    (s.successWindow c).lastBatch = s.lastBatch := by
  unfold State.successWindow; dsimp only; split <;> simp
@[simp] theorem State.successWindow_plantRx (s : State) (c : Console) : (s.successWindow c).plantRx = s.plantRx := by
  unfold State.successWindow; dsimp only; split <;> simp
@[simp] theorem State.successWindow_portRx (s : State) (c : Console) : (s.successWindow c).portRx = s.portRx := by
  unfold State.successWindow; dsimp only; split <;> simp
@[simp] theorem State.successWindow_busy (s : State) (c : Console) : (s.successWindow c).busy = s.busy := by
  unfold State.successWindow; dsimp only; split <;> simp
@[simp] theorem State.successWindow_inHand (s : State) (c : Console) : (s.successWindow c).inHand = s.inHand := by
  unfold State.successWindow; dsimp only; split <;> simp
@[simp] theorem State.successWindow_store (s : State) (c : Console) : (s.successWindow c).store = s.store := by
  unfold State.successWindow; dsimp only; split <;> simp
@[simp] theorem State.successWindow_draws (s : State) (c : Console) : (s.successWindow c).draws = s.draws := by
  unfold State.successWindow; dsimp only; split <;> simp
@[simp] theorem State.successWindow_pending (s : State) (c : Console) : (s.successWindow c).pending = s.pending := by
  unfold State.successWindow; dsimp only; split <;> simp

/-! ### heartbeat -/

@[simp] theorem State.heartbeat_powered (s : State) (c : Console) (b : Bool) :
    ((s.heartbeat c b).1).powered = s.powered := by
  unfold State.heartbeat; split <;> (try split) <;> simp
@[simp] theorem State.heartbeat_partTime (s : State) (c : Console) (b : Bool) :
    ((s.heartbeat c b).1).partTime = s.partTime := by
  unfold State.heartbeat; split <;> (try split) <;> simp
@[simp] theorem State.heartbeat_loops (s : State) (c : Console) (b : Bool) :
    ((s.heartbeat c b).1).loops = s.loops := by
  unfold State.heartbeat; split <;> (try split) <;> simp
@[simp] theorem State.heartbeat_cfg (s : State) (c : Console) (b : Bool) : ((s.heartbeat c b).1).cfg = s.cfg := by
  unfold State.heartbeat; split <;> (try split) <;> simp
@[simp] theorem State.heartbeat_lines (s : State) (c : Console) (b : Bool) :
    ((s.heartbeat c b).1).lines = s.lines := by
  unfold State.heartbeat; split <;> (try split) <;> simp
@[simp] theorem State.heartbeat_blankEnds (s : State) (c : Console) (b : Bool) :
    ((s.heartbeat c b).1).blankEnds = s.blankEnds := by
  unfold State.heartbeat; split <;> (try split) <;> simp
@[simp] theorem State.heartbeat_waiting (s : State) (c : Console) (b : Bool) :
    ((s.heartbeat c b).1).waiting = s.waiting := by
  unfold State.heartbeat; split <;> (try split) <;> simp
@[simp] theorem State.heartbeat_relay (s : State) (c : Console) (b : Bool) :
    ((s.heartbeat c b).1).relay = s.relay := by
  unfold State.heartbeat; split <;> (try split) <;> simp
@[simp] theorem State.heartbeat_day (s : State) (c : Console) (b : Bool) : ((s.heartbeat c b).1).day = s.day := by
  unfold State.heartbeat; split <;> (try split) <;> simp
@[simp] theorem State.heartbeat_lastBatch (s : State) (c : Console) (b : Bool) :
    ((s.heartbeat c b).1).lastBatch = s.lastBatch := by
  unfold State.heartbeat; split <;> (try split) <;> simp
@[simp] theorem State.heartbeat_plantRx (s : State) (c : Console) (b : Bool) :
    ((s.heartbeat c b).1).plantRx = s.plantRx := by
  unfold State.heartbeat; split <;> (try split) <;> simp
@[simp] theorem State.heartbeat_portRx (s : State) (c : Console) (b : Bool) :
    ((s.heartbeat c b).1).portRx = s.portRx := by
  unfold State.heartbeat; split <;> (try split) <;> simp
@[simp] theorem State.heartbeat_busy (s : State) (c : Console) (b : Bool) : ((s.heartbeat c b).1).busy = s.busy := by
  unfold State.heartbeat; split <;> (try split) <;> simp
@[simp] theorem State.heartbeat_inHand (s : State) (c : Console) (b : Bool) :
    ((s.heartbeat c b).1).inHand = s.inHand := by
  unfold State.heartbeat; split <;> (try split) <;> simp
@[simp] theorem State.heartbeat_store (s : State) (c : Console) (b : Bool) :
    ((s.heartbeat c b).1).store = s.store := by
  unfold State.heartbeat; split <;> (try split) <;> simp
@[simp] theorem State.heartbeat_draws (s : State) (c : Console) (b : Bool) :
    ((s.heartbeat c b).1).draws = s.draws := by
  unfold State.heartbeat; split <;> (try split) <;> simp
@[simp] theorem State.heartbeat_pending (s : State) (c : Console) (b : Bool) :
    ((s.heartbeat c b).1).pending = s.pending := by
  unfold State.heartbeat; split <;> (try split) <;> simp

/-! ### acknowledge -/

@[simp] theorem State.acknowledge_powered (s : State) (i : Slot) (r : Record) (o : Operator) :
    (s.acknowledge i r o).powered = s.powered := by
  unfold State.acknowledge State.keepAcknowledged; split <;> simp
@[simp] theorem State.acknowledge_partTime (s : State) (i : Slot) (r : Record) (o : Operator) :
    (s.acknowledge i r o).partTime = s.partTime := by
  unfold State.acknowledge State.keepAcknowledged; split <;> simp
@[simp] theorem State.acknowledge_loops (s : State) (i : Slot) (r : Record) (o : Operator) :
    (s.acknowledge i r o).loops = s.loops := by
  unfold State.acknowledge State.keepAcknowledged; split <;> simp
@[simp] theorem State.acknowledge_cfg (s : State) (i : Slot) (r : Record) (o : Operator) :
    (s.acknowledge i r o).cfg = s.cfg := by
  unfold State.acknowledge State.keepAcknowledged; split <;> simp
@[simp] theorem State.acknowledge_lines (s : State) (i : Slot) (r : Record) (o : Operator) :
    (s.acknowledge i r o).lines = s.lines := by
  unfold State.acknowledge State.keepAcknowledged; split <;> simp
@[simp] theorem State.acknowledge_blankEnds (s : State) (i : Slot) (r : Record) (o : Operator) :
    (s.acknowledge i r o).blankEnds = s.blankEnds := by
  unfold State.acknowledge State.keepAcknowledged; split <;> simp
@[simp] theorem State.acknowledge_routes (s : State) (i : Slot) (r : Record) (o : Operator) :
    (s.acknowledge i r o).routes = s.routes := by
  unfold State.acknowledge State.keepAcknowledged; split <;> simp
@[simp] theorem State.acknowledge_relay (s : State) (i : Slot) (r : Record) (o : Operator) :
    (s.acknowledge i r o).relay = s.relay := by
  unfold State.acknowledge State.keepAcknowledged; split <;> simp
@[simp] theorem State.acknowledge_day (s : State) (i : Slot) (r : Record) (o : Operator) :
    (s.acknowledge i r o).day = s.day := by
  unfold State.acknowledge State.keepAcknowledged; split <;> simp
@[simp] theorem State.acknowledge_lastBatch (s : State) (i : Slot) (r : Record) (o : Operator) :
    (s.acknowledge i r o).lastBatch = s.lastBatch := by
  unfold State.acknowledge State.keepAcknowledged; split <;> simp
@[simp] theorem State.acknowledge_plantRx (s : State) (i : Slot) (r : Record) (o : Operator) :
    (s.acknowledge i r o).plantRx = s.plantRx := by
  unfold State.acknowledge State.keepAcknowledged; split <;> simp
@[simp] theorem State.acknowledge_portRx (s : State) (i : Slot) (r : Record) (o : Operator) :
    (s.acknowledge i r o).portRx = s.portRx := by
  unfold State.acknowledge State.keepAcknowledged; split <;> simp
@[simp] theorem State.acknowledge_busy (s : State) (i : Slot) (r : Record) (o : Operator) :
    (s.acknowledge i r o).busy = s.busy := by
  unfold State.acknowledge State.keepAcknowledged; split <;> simp
@[simp] theorem State.acknowledge_inHand (s : State) (i : Slot) (r : Record) (o : Operator) :
    (s.acknowledge i r o).inHand = s.inHand := by
  unfold State.acknowledge State.keepAcknowledged; split <;> simp
@[simp] theorem State.acknowledge_store (s : State) (i : Slot) (r : Record) (o : Operator) :
    (s.acknowledge i r o).store = s.store := by
  unfold State.acknowledge State.keepAcknowledged; split <;> simp
@[simp] theorem State.acknowledge_draws (s : State) (i : Slot) (r : Record) (o : Operator) :
    (s.acknowledge i r o).draws = s.draws := by
  unfold State.acknowledge State.keepAcknowledged; split <;> simp
@[simp] theorem State.acknowledge_pending (s : State) (i : Slot) (r : Record) (o : Operator) :
    (s.acknowledge i r o).pending = s.pending := by
  unfold State.acknowledge State.keepAcknowledged; split <;> simp

/-! ### endShelf -/

@[simp] theorem State.endShelf_powered (s : State) (i : Slot) (r : Record) :
    (s.endShelf i r).powered = s.powered := by
  unfold State.endShelf; split <;> simp
@[simp] theorem State.endShelf_partTime (s : State) (i : Slot) (r : Record) :
    (s.endShelf i r).partTime = s.partTime := by
  unfold State.endShelf; split <;> simp
@[simp] theorem State.endShelf_loops (s : State) (i : Slot) (r : Record) : (s.endShelf i r).loops = s.loops := by
  unfold State.endShelf; split <;> simp
@[simp] theorem State.endShelf_cfg (s : State) (i : Slot) (r : Record) : (s.endShelf i r).cfg = s.cfg := by
  unfold State.endShelf; split <;> simp
@[simp] theorem State.endShelf_lines (s : State) (i : Slot) (r : Record) : (s.endShelf i r).lines = s.lines := by
  unfold State.endShelf; split <;> simp
@[simp] theorem State.endShelf_blankEnds (s : State) (i : Slot) (r : Record) :
    (s.endShelf i r).blankEnds = s.blankEnds := by
  unfold State.endShelf; split <;> simp
@[simp] theorem State.endShelf_routes (s : State) (i : Slot) (r : Record) : (s.endShelf i r).routes = s.routes := by
  unfold State.endShelf; split <;> simp
@[simp] theorem State.endShelf_relay (s : State) (i : Slot) (r : Record) : (s.endShelf i r).relay = s.relay := by
  unfold State.endShelf; split <;> simp
@[simp] theorem State.endShelf_day (s : State) (i : Slot) (r : Record) : (s.endShelf i r).day = s.day := by
  unfold State.endShelf; split <;> simp
@[simp] theorem State.endShelf_lastBatch (s : State) (i : Slot) (r : Record) :
    (s.endShelf i r).lastBatch = s.lastBatch := by
  unfold State.endShelf; split <;> simp
@[simp] theorem State.endShelf_plantRx (s : State) (i : Slot) (r : Record) :
    (s.endShelf i r).plantRx = s.plantRx := by
  unfold State.endShelf; split <;> simp
@[simp] theorem State.endShelf_portRx (s : State) (i : Slot) (r : Record) : (s.endShelf i r).portRx = s.portRx := by
  unfold State.endShelf; split <;> simp
@[simp] theorem State.endShelf_busy (s : State) (i : Slot) (r : Record) : (s.endShelf i r).busy = s.busy := by
  unfold State.endShelf; split <;> simp
@[simp] theorem State.endShelf_inHand (s : State) (i : Slot) (r : Record) : (s.endShelf i r).inHand = s.inHand := by
  unfold State.endShelf; split <;> simp
@[simp] theorem State.endShelf_store (s : State) (i : Slot) (r : Record) : (s.endShelf i r).store = s.store := by
  unfold State.endShelf; split <;> simp
@[simp] theorem State.endShelf_draws (s : State) (i : Slot) (r : Record) : (s.endShelf i r).draws = s.draws := by
  unfold State.endShelf; split <;> simp
@[simp] theorem State.endShelf_pending (s : State) (i : Slot) (r : Record) :
    (s.endShelf i r).pending = s.pending := by
  unfold State.endShelf; split <;> simp

/-! ### raiseNormal -/

@[simp] theorem State.raiseNormal_powered (s : State) (p : Point) (k : Cause) :
    (s.raiseNormal p k).powered = s.powered := by
  unfold State.raiseNormal; split <;> simp
@[simp] theorem State.raiseNormal_partTime (s : State) (p : Point) (k : Cause) :
    (s.raiseNormal p k).partTime = s.partTime := by
  unfold State.raiseNormal; split <;> simp
@[simp] theorem State.raiseNormal_loops (s : State) (p : Point) (k : Cause) :
    (s.raiseNormal p k).loops = s.loops := by
  unfold State.raiseNormal; split <;> simp
@[simp] theorem State.raiseNormal_cfg (s : State) (p : Point) (k : Cause) : (s.raiseNormal p k).cfg = s.cfg := by
  unfold State.raiseNormal; split <;> simp
@[simp] theorem State.raiseNormal_lines (s : State) (p : Point) (k : Cause) :
    (s.raiseNormal p k).lines = s.lines := by
  unfold State.raiseNormal; split <;> simp
@[simp] theorem State.raiseNormal_blankEnds (s : State) (p : Point) (k : Cause) :
    (s.raiseNormal p k).blankEnds = s.blankEnds := by
  unfold State.raiseNormal; split <;> simp
@[simp] theorem State.raiseNormal_routes (s : State) (p : Point) (k : Cause) :
    (s.raiseNormal p k).routes = s.routes := by
  unfold State.raiseNormal; split <;> simp
@[simp] theorem State.raiseNormal_relay (s : State) (p : Point) (k : Cause) :
    (s.raiseNormal p k).relay = s.relay := by
  unfold State.raiseNormal; split <;> simp
@[simp] theorem State.raiseNormal_day (s : State) (p : Point) (k : Cause) : (s.raiseNormal p k).day = s.day := by
  unfold State.raiseNormal; split <;> simp
@[simp] theorem State.raiseNormal_changeSet (s : State) (p : Point) (k : Cause) :
    (s.raiseNormal p k).changeSet = s.changeSet := by
  unfold State.raiseNormal; split <;> simp
@[simp] theorem State.raiseNormal_attention (s : State) (p : Point) (k : Cause) :
    (s.raiseNormal p k).attention = s.attention := by
  unfold State.raiseNormal; split <;> simp
@[simp] theorem State.raiseNormal_lastBatch (s : State) (p : Point) (k : Cause) :
    (s.raiseNormal p k).lastBatch = s.lastBatch := by
  unfold State.raiseNormal; split <;> simp
@[simp] theorem State.raiseNormal_plantRx (s : State) (p : Point) (k : Cause) :
    (s.raiseNormal p k).plantRx = s.plantRx := by
  unfold State.raiseNormal; split <;> simp
@[simp] theorem State.raiseNormal_portRx (s : State) (p : Point) (k : Cause) :
    (s.raiseNormal p k).portRx = s.portRx := by
  unfold State.raiseNormal; split <;> simp
@[simp] theorem State.raiseNormal_busy (s : State) (p : Point) (k : Cause) : (s.raiseNormal p k).busy = s.busy := by
  unfold State.raiseNormal; split <;> simp
@[simp] theorem State.raiseNormal_inHand (s : State) (p : Point) (k : Cause) :
    (s.raiseNormal p k).inHand = s.inHand := by
  unfold State.raiseNormal; split <;> simp
@[simp] theorem State.raiseNormal_store (s : State) (p : Point) (k : Cause) :
    (s.raiseNormal p k).store = s.store := by
  unfold State.raiseNormal; split <;> simp
@[simp] theorem State.raiseNormal_draws (s : State) (p : Point) (k : Cause) :
    (s.raiseNormal p k).draws = s.draws := by
  unfold State.raiseNormal; split <;> simp
@[simp] theorem State.raiseNormal_pending (s : State) (p : Point) (k : Cause) :
    (s.raiseNormal p k).pending = s.pending := by
  unfold State.raiseNormal; split <;> simp

/-! ### raiseAfter -/

@[simp] theorem State.raiseAfter_powered (s : State) (p : Point) (k : Cause) :
    ((s.raisePoint p k).after s).powered = s.powered := by
  unfold State.raisePoint State.raiseRecord State.raiseStanding Effect.after
  repeat' split
  all_goals simp [Effect.accept, Effect.refuse]
@[simp] theorem State.raiseAfter_partTime (s : State) (p : Point) (k : Cause) :
    ((s.raisePoint p k).after s).partTime = s.partTime := by
  unfold State.raisePoint State.raiseRecord State.raiseStanding Effect.after
  repeat' split
  all_goals simp [Effect.accept, Effect.refuse]
@[simp] theorem State.raiseAfter_loops (s : State) (p : Point) (k : Cause) :
    ((s.raisePoint p k).after s).loops = s.loops := by
  unfold State.raisePoint State.raiseRecord State.raiseStanding Effect.after
  repeat' split
  all_goals simp [Effect.accept, Effect.refuse]
@[simp] theorem State.raiseAfter_cfg (s : State) (p : Point) (k : Cause) :
    ((s.raisePoint p k).after s).cfg = s.cfg := by
  unfold State.raisePoint State.raiseRecord State.raiseStanding Effect.after
  repeat' split
  all_goals simp [Effect.accept, Effect.refuse]
@[simp] theorem State.raiseAfter_lines (s : State) (p : Point) (k : Cause) :
    ((s.raisePoint p k).after s).lines = s.lines := by
  unfold State.raisePoint State.raiseRecord State.raiseStanding Effect.after
  repeat' split
  all_goals simp [Effect.accept, Effect.refuse]
@[simp] theorem State.raiseAfter_blankEnds (s : State) (p : Point) (k : Cause) :
    ((s.raisePoint p k).after s).blankEnds = s.blankEnds := by
  unfold State.raisePoint State.raiseRecord State.raiseStanding Effect.after
  repeat' split
  all_goals simp [Effect.accept, Effect.refuse]
@[simp] theorem State.raiseAfter_routes (s : State) (p : Point) (k : Cause) :
    ((s.raisePoint p k).after s).routes = s.routes := by
  unfold State.raisePoint State.raiseRecord State.raiseStanding Effect.after
  repeat' split
  all_goals simp [Effect.accept, Effect.refuse]
@[simp] theorem State.raiseAfter_relay (s : State) (p : Point) (k : Cause) :
    ((s.raisePoint p k).after s).relay = s.relay := by
  unfold State.raisePoint State.raiseRecord State.raiseStanding Effect.after
  repeat' split
  all_goals simp [Effect.accept, Effect.refuse]
@[simp] theorem State.raiseAfter_day (s : State) (p : Point) (k : Cause) :
    ((s.raisePoint p k).after s).day = s.day := by
  unfold State.raisePoint State.raiseRecord State.raiseStanding Effect.after
  repeat' split
  all_goals simp [Effect.accept, Effect.refuse]
@[simp] theorem State.raiseAfter_changeSet (s : State) (p : Point) (k : Cause) :
    ((s.raisePoint p k).after s).changeSet = s.changeSet := by
  unfold State.raisePoint State.raiseRecord State.raiseStanding Effect.after
  repeat' split
  all_goals simp [Effect.accept, Effect.refuse]
@[simp] theorem State.raiseAfter_attention (s : State) (p : Point) (k : Cause) :
    ((s.raisePoint p k).after s).attention = s.attention := by
  unfold State.raisePoint State.raiseRecord State.raiseStanding Effect.after
  repeat' split
  all_goals simp [Effect.accept, Effect.refuse]
@[simp] theorem State.raiseAfter_lastBatch (s : State) (p : Point) (k : Cause) :
    ((s.raisePoint p k).after s).lastBatch = s.lastBatch := by
  unfold State.raisePoint State.raiseRecord State.raiseStanding Effect.after
  repeat' split
  all_goals simp [Effect.accept, Effect.refuse]
@[simp] theorem State.raiseAfter_plantRx (s : State) (p : Point) (k : Cause) :
    ((s.raisePoint p k).after s).plantRx = s.plantRx := by
  unfold State.raisePoint State.raiseRecord State.raiseStanding Effect.after
  repeat' split
  all_goals simp [Effect.accept, Effect.refuse]
@[simp] theorem State.raiseAfter_portRx (s : State) (p : Point) (k : Cause) :
    ((s.raisePoint p k).after s).portRx = s.portRx := by
  unfold State.raisePoint State.raiseRecord State.raiseStanding Effect.after
  repeat' split
  all_goals simp [Effect.accept, Effect.refuse]
@[simp] theorem State.raiseAfter_busy (s : State) (p : Point) (k : Cause) :
    ((s.raisePoint p k).after s).busy = s.busy := by
  unfold State.raisePoint State.raiseRecord State.raiseStanding Effect.after
  repeat' split
  all_goals simp [Effect.accept, Effect.refuse]
@[simp] theorem State.raiseAfter_inHand (s : State) (p : Point) (k : Cause) :
    ((s.raisePoint p k).after s).inHand = s.inHand := by
  unfold State.raisePoint State.raiseRecord State.raiseStanding Effect.after
  repeat' split
  all_goals simp [Effect.accept, Effect.refuse]
@[simp] theorem State.raiseAfter_store (s : State) (p : Point) (k : Cause) :
    ((s.raisePoint p k).after s).store = s.store := by
  unfold State.raisePoint State.raiseRecord State.raiseStanding Effect.after
  repeat' split
  all_goals simp [Effect.accept, Effect.refuse]
@[simp] theorem State.raiseAfter_draws (s : State) (p : Point) (k : Cause) :
    ((s.raisePoint p k).after s).draws = s.draws := by
  unfold State.raisePoint State.raiseRecord State.raiseStanding Effect.after
  repeat' split
  all_goals simp [Effect.accept, Effect.refuse]
@[simp] theorem State.raiseAfter_pending (s : State) (p : Point) (k : Cause) :
    ((s.raisePoint p k).after s).pending = s.pending := by
  unfold State.raisePoint State.raiseRecord State.raiseStanding Effect.after
  repeat' split
  all_goals simp [Effect.accept, Effect.refuse]

/-! ### clearAfter -/

@[simp] theorem State.clearAfter_powered (s : State) (p : Point) :
    ((s.clearPoint p).after s).powered = s.powered := by
  unfold State.clearPoint State.clearRecord State.clearEntry Effect.after
  repeat' split
  all_goals simp [Effect.accept, Effect.refuse]
@[simp] theorem State.clearAfter_partTime (s : State) (p : Point) :
    ((s.clearPoint p).after s).partTime = s.partTime := by
  unfold State.clearPoint State.clearRecord State.clearEntry Effect.after
  repeat' split
  all_goals simp [Effect.accept, Effect.refuse]
@[simp] theorem State.clearAfter_loops (s : State) (p : Point) : ((s.clearPoint p).after s).loops = s.loops := by
  unfold State.clearPoint State.clearRecord State.clearEntry Effect.after
  repeat' split
  all_goals simp [Effect.accept, Effect.refuse]
@[simp] theorem State.clearAfter_cfg (s : State) (p : Point) : ((s.clearPoint p).after s).cfg = s.cfg := by
  unfold State.clearPoint State.clearRecord State.clearEntry Effect.after
  repeat' split
  all_goals simp [Effect.accept, Effect.refuse]
@[simp] theorem State.clearAfter_lines (s : State) (p : Point) : ((s.clearPoint p).after s).lines = s.lines := by
  unfold State.clearPoint State.clearRecord State.clearEntry Effect.after
  repeat' split
  all_goals simp [Effect.accept, Effect.refuse]
@[simp] theorem State.clearAfter_blankEnds (s : State) (p : Point) :
    ((s.clearPoint p).after s).blankEnds = s.blankEnds := by
  unfold State.clearPoint State.clearRecord State.clearEntry Effect.after
  repeat' split
  all_goals simp [Effect.accept, Effect.refuse]
@[simp] theorem State.clearAfter_routes (s : State) (p : Point) : ((s.clearPoint p).after s).routes = s.routes := by
  unfold State.clearPoint State.clearRecord State.clearEntry Effect.after
  repeat' split
  all_goals simp [Effect.accept, Effect.refuse]
@[simp] theorem State.clearAfter_relay (s : State) (p : Point) : ((s.clearPoint p).after s).relay = s.relay := by
  unfold State.clearPoint State.clearRecord State.clearEntry Effect.after
  repeat' split
  all_goals simp [Effect.accept, Effect.refuse]
@[simp] theorem State.clearAfter_day (s : State) (p : Point) : ((s.clearPoint p).after s).day = s.day := by
  unfold State.clearPoint State.clearRecord State.clearEntry Effect.after
  repeat' split
  all_goals simp [Effect.accept, Effect.refuse]
@[simp] theorem State.clearAfter_lastBatch (s : State) (p : Point) :
    ((s.clearPoint p).after s).lastBatch = s.lastBatch := by
  unfold State.clearPoint State.clearRecord State.clearEntry Effect.after
  repeat' split
  all_goals simp [Effect.accept, Effect.refuse]
@[simp] theorem State.clearAfter_plantRx (s : State) (p : Point) :
    ((s.clearPoint p).after s).plantRx = s.plantRx := by
  unfold State.clearPoint State.clearRecord State.clearEntry Effect.after
  repeat' split
  all_goals simp [Effect.accept, Effect.refuse]
@[simp] theorem State.clearAfter_portRx (s : State) (p : Point) : ((s.clearPoint p).after s).portRx = s.portRx := by
  unfold State.clearPoint State.clearRecord State.clearEntry Effect.after
  repeat' split
  all_goals simp [Effect.accept, Effect.refuse]
@[simp] theorem State.clearAfter_busy (s : State) (p : Point) : ((s.clearPoint p).after s).busy = s.busy := by
  unfold State.clearPoint State.clearRecord State.clearEntry Effect.after
  repeat' split
  all_goals simp [Effect.accept, Effect.refuse]
@[simp] theorem State.clearAfter_inHand (s : State) (p : Point) : ((s.clearPoint p).after s).inHand = s.inHand := by
  unfold State.clearPoint State.clearRecord State.clearEntry Effect.after
  repeat' split
  all_goals simp [Effect.accept, Effect.refuse]
@[simp] theorem State.clearAfter_store (s : State) (p : Point) : ((s.clearPoint p).after s).store = s.store := by
  unfold State.clearPoint State.clearRecord State.clearEntry Effect.after
  repeat' split
  all_goals simp [Effect.accept, Effect.refuse]
@[simp] theorem State.clearAfter_draws (s : State) (p : Point) : ((s.clearPoint p).after s).draws = s.draws := by
  unfold State.clearPoint State.clearRecord State.clearEntry Effect.after
  repeat' split
  all_goals simp [Effect.accept, Effect.refuse]
@[simp] theorem State.clearAfter_pending (s : State) (p : Point) :
    ((s.clearPoint p).after s).pending = s.pending := by
  unfold State.clearPoint State.clearRecord State.clearEntry Effect.after
  repeat' split
  all_goals simp [Effect.accept, Effect.refuse]

/-! ### lineEvent -/

@[simp] theorem State.lineEvent_powered (s : State) (p : Point) (x : LineState) :
    (s.lineEvent p x).powered = s.powered := by
  unfold State.lineEvent; split <;> simp
@[simp] theorem State.lineEvent_partTime (s : State) (p : Point) (x : LineState) :
    (s.lineEvent p x).partTime = s.partTime := by
  unfold State.lineEvent; split <;> simp
@[simp] theorem State.lineEvent_loops (s : State) (p : Point) (x : LineState) :
    (s.lineEvent p x).loops = s.loops := by
  unfold State.lineEvent; split <;> simp
@[simp] theorem State.lineEvent_cfg (s : State) (p : Point) (x : LineState) : (s.lineEvent p x).cfg = s.cfg := by
  unfold State.lineEvent; split <;> simp
@[simp] theorem State.lineEvent_lines (s : State) (p : Point) (x : LineState) :
    (s.lineEvent p x).lines = s.lines := by
  unfold State.lineEvent; split <;> simp
@[simp] theorem State.lineEvent_blankEnds (s : State) (p : Point) (x : LineState) :
    (s.lineEvent p x).blankEnds = s.blankEnds := by
  unfold State.lineEvent; split <;> simp
@[simp] theorem State.lineEvent_routes (s : State) (p : Point) (x : LineState) :
    (s.lineEvent p x).routes = s.routes := by
  unfold State.lineEvent; split <;> simp
@[simp] theorem State.lineEvent_relay (s : State) (p : Point) (x : LineState) :
    (s.lineEvent p x).relay = s.relay := by
  unfold State.lineEvent; split <;> simp
@[simp] theorem State.lineEvent_day (s : State) (p : Point) (x : LineState) : (s.lineEvent p x).day = s.day := by
  unfold State.lineEvent; split <;> simp
@[simp] theorem State.lineEvent_lastBatch (s : State) (p : Point) (x : LineState) :
    (s.lineEvent p x).lastBatch = s.lastBatch := by
  unfold State.lineEvent; split <;> simp
@[simp] theorem State.lineEvent_plantRx (s : State) (p : Point) (x : LineState) :
    (s.lineEvent p x).plantRx = s.plantRx := by
  unfold State.lineEvent; split <;> simp
@[simp] theorem State.lineEvent_portRx (s : State) (p : Point) (x : LineState) :
    (s.lineEvent p x).portRx = s.portRx := by
  unfold State.lineEvent; split <;> simp
@[simp] theorem State.lineEvent_busy (s : State) (p : Point) (x : LineState) : (s.lineEvent p x).busy = s.busy := by
  unfold State.lineEvent; split <;> simp
@[simp] theorem State.lineEvent_inHand (s : State) (p : Point) (x : LineState) :
    (s.lineEvent p x).inHand = s.inHand := by
  unfold State.lineEvent; split <;> simp
@[simp] theorem State.lineEvent_store (s : State) (p : Point) (x : LineState) :
    (s.lineEvent p x).store = s.store := by
  unfold State.lineEvent; split <;> simp
@[simp] theorem State.lineEvent_draws (s : State) (p : Point) (x : LineState) :
    (s.lineEvent p x).draws = s.draws := by
  unfold State.lineEvent; split <;> simp
@[simp] theorem State.lineEvent_pending (s : State) (p : Point) (x : LineState) :
    (s.lineEvent p x).pending = s.pending := by
  unfold State.lineEvent; split <;> simp

/-! ### qualify -/

@[simp] theorem State.qualify_powered (s : State) (l : Line) : (s.qualify l).powered = s.powered := by
  unfold State.qualify; dsimp only; split <;> simp
@[simp] theorem State.qualify_partTime (s : State) (l : Line) : (s.qualify l).partTime = s.partTime := by
  unfold State.qualify; dsimp only; split <;> simp
@[simp] theorem State.qualify_loops (s : State) (l : Line) : (s.qualify l).loops = s.loops := by
  unfold State.qualify; dsimp only; split <;> simp
@[simp] theorem State.qualify_cfg (s : State) (l : Line) : (s.qualify l).cfg = s.cfg := by
  unfold State.qualify; dsimp only; split <;> simp
@[simp] theorem State.qualify_blankEnds (s : State) (l : Line) : (s.qualify l).blankEnds = s.blankEnds := by
  unfold State.qualify; dsimp only; split <;> simp
@[simp] theorem State.qualify_routes (s : State) (l : Line) : (s.qualify l).routes = s.routes := by
  unfold State.qualify; dsimp only; split <;> simp
@[simp] theorem State.qualify_relay (s : State) (l : Line) : (s.qualify l).relay = s.relay := by
  unfold State.qualify; dsimp only; split <;> simp
@[simp] theorem State.qualify_day (s : State) (l : Line) : (s.qualify l).day = s.day := by
  unfold State.qualify; dsimp only; split <;> simp
@[simp] theorem State.qualify_lastBatch (s : State) (l : Line) : (s.qualify l).lastBatch = s.lastBatch := by
  unfold State.qualify; dsimp only; split <;> simp
@[simp] theorem State.qualify_plantRx (s : State) (l : Line) : (s.qualify l).plantRx = s.plantRx := by
  unfold State.qualify; dsimp only; split <;> simp
@[simp] theorem State.qualify_portRx (s : State) (l : Line) : (s.qualify l).portRx = s.portRx := by
  unfold State.qualify; dsimp only; split <;> simp
@[simp] theorem State.qualify_busy (s : State) (l : Line) : (s.qualify l).busy = s.busy := by
  unfold State.qualify; dsimp only; split <;> simp
@[simp] theorem State.qualify_inHand (s : State) (l : Line) : (s.qualify l).inHand = s.inHand := by
  unfold State.qualify; dsimp only; split <;> simp
@[simp] theorem State.qualify_store (s : State) (l : Line) : (s.qualify l).store = s.store := by
  unfold State.qualify; dsimp only; split <;> simp
@[simp] theorem State.qualify_draws (s : State) (l : Line) : (s.qualify l).draws = s.draws := by
  unfold State.qualify; dsimp only; split <;> simp
@[simp] theorem State.qualify_pending (s : State) (l : Line) : (s.qualify l).pending = s.pending := by
  unfold State.qualify; dsimp only; split <;> simp

/-! ### bindingRaise -/

@[simp] theorem State.bindingRaise_powered (s : State) (p : Point) (x y : PointUse) :
    (s.bindingRaise p x y).powered = s.powered := by
  unfold State.bindingRaise; repeat' split
  all_goals simp
@[simp] theorem State.bindingRaise_partTime (s : State) (p : Point) (x y : PointUse) :
    (s.bindingRaise p x y).partTime = s.partTime := by
  unfold State.bindingRaise; repeat' split
  all_goals simp
@[simp] theorem State.bindingRaise_loops (s : State) (p : Point) (x y : PointUse) :
    (s.bindingRaise p x y).loops = s.loops := by
  unfold State.bindingRaise; repeat' split
  all_goals simp
@[simp] theorem State.bindingRaise_cfg (s : State) (p : Point) (x y : PointUse) :
    (s.bindingRaise p x y).cfg = s.cfg := by
  unfold State.bindingRaise; repeat' split
  all_goals simp
@[simp] theorem State.bindingRaise_lines (s : State) (p : Point) (x y : PointUse) :
    (s.bindingRaise p x y).lines = s.lines := by
  unfold State.bindingRaise; repeat' split
  all_goals simp
@[simp] theorem State.bindingRaise_blankEnds (s : State) (p : Point) (x y : PointUse) :
    (s.bindingRaise p x y).blankEnds = s.blankEnds := by
  unfold State.bindingRaise; repeat' split
  all_goals simp
@[simp] theorem State.bindingRaise_routes (s : State) (p : Point) (x y : PointUse) :
    (s.bindingRaise p x y).routes = s.routes := by
  unfold State.bindingRaise; repeat' split
  all_goals simp
@[simp] theorem State.bindingRaise_relay (s : State) (p : Point) (x y : PointUse) :
    (s.bindingRaise p x y).relay = s.relay := by
  unfold State.bindingRaise; repeat' split
  all_goals simp
@[simp] theorem State.bindingRaise_day (s : State) (p : Point) (x y : PointUse) :
    (s.bindingRaise p x y).day = s.day := by
  unfold State.bindingRaise; repeat' split
  all_goals simp
@[simp] theorem State.bindingRaise_lastBatch (s : State) (p : Point) (x y : PointUse) :
    (s.bindingRaise p x y).lastBatch = s.lastBatch := by
  unfold State.bindingRaise; repeat' split
  all_goals simp
@[simp] theorem State.bindingRaise_plantRx (s : State) (p : Point) (x y : PointUse) :
    (s.bindingRaise p x y).plantRx = s.plantRx := by
  unfold State.bindingRaise; repeat' split
  all_goals simp
@[simp] theorem State.bindingRaise_portRx (s : State) (p : Point) (x y : PointUse) :
    (s.bindingRaise p x y).portRx = s.portRx := by
  unfold State.bindingRaise; repeat' split
  all_goals simp
@[simp] theorem State.bindingRaise_busy (s : State) (p : Point) (x y : PointUse) :
    (s.bindingRaise p x y).busy = s.busy := by
  unfold State.bindingRaise; repeat' split
  all_goals simp
@[simp] theorem State.bindingRaise_inHand (s : State) (p : Point) (x y : PointUse) :
    (s.bindingRaise p x y).inHand = s.inHand := by
  unfold State.bindingRaise; repeat' split
  all_goals simp
@[simp] theorem State.bindingRaise_store (s : State) (p : Point) (x y : PointUse) :
    (s.bindingRaise p x y).store = s.store := by
  unfold State.bindingRaise; repeat' split
  all_goals simp
@[simp] theorem State.bindingRaise_draws (s : State) (p : Point) (x y : PointUse) :
    (s.bindingRaise p x y).draws = s.draws := by
  unfold State.bindingRaise; repeat' split
  all_goals simp
@[simp] theorem State.bindingRaise_pending (s : State) (p : Point) (x y : PointUse) :
    (s.bindingRaise p x y).pending = s.pending := by
  unfold State.bindingRaise; repeat' split
  all_goals simp

/-! ### secondsEnd -/

@[simp] theorem State.secondsEnd_powered (s : State) (c : Console) : (s.secondsEnd c).powered = s.powered := by
  unfold State.secondsEnd State.releaseHeld; dsimp only; split <;> simp
@[simp] theorem State.secondsEnd_partTime (s : State) (c : Console) : (s.secondsEnd c).partTime = s.partTime := by
  unfold State.secondsEnd State.releaseHeld; dsimp only; split <;> simp
@[simp] theorem State.secondsEnd_loops (s : State) (c : Console) : (s.secondsEnd c).loops = s.loops := by
  unfold State.secondsEnd State.releaseHeld; dsimp only; split <;> simp
@[simp] theorem State.secondsEnd_cfg (s : State) (c : Console) : (s.secondsEnd c).cfg = s.cfg := by
  unfold State.secondsEnd State.releaseHeld; dsimp only; split <;> simp
@[simp] theorem State.secondsEnd_lines (s : State) (c : Console) : (s.secondsEnd c).lines = s.lines := by
  unfold State.secondsEnd State.releaseHeld; dsimp only; split <;> simp
@[simp] theorem State.secondsEnd_blankEnds (s : State) (c : Console) : (s.secondsEnd c).blankEnds = s.blankEnds := by
  unfold State.secondsEnd State.releaseHeld; dsimp only; split <;> simp
@[simp] theorem State.secondsEnd_waiting (s : State) (c : Console) : (s.secondsEnd c).waiting = s.waiting := by
  unfold State.secondsEnd State.releaseHeld; dsimp only; split <;> simp
@[simp] theorem State.secondsEnd_routes (s : State) (c : Console) : (s.secondsEnd c).routes = s.routes := by
  unfold State.secondsEnd State.releaseHeld; dsimp only; split <;> simp
@[simp] theorem State.secondsEnd_relay (s : State) (c : Console) : (s.secondsEnd c).relay = s.relay := by
  unfold State.secondsEnd State.releaseHeld; dsimp only; split <;> simp
@[simp] theorem State.secondsEnd_day (s : State) (c : Console) : (s.secondsEnd c).day = s.day := by
  unfold State.secondsEnd State.releaseHeld; dsimp only; split <;> simp
@[simp] theorem State.secondsEnd_handovers (s : State) (c : Console) : (s.secondsEnd c).handovers = s.handovers := by
  unfold State.secondsEnd State.releaseHeld; dsimp only; split <;> simp
@[simp] theorem State.secondsEnd_lastBatch (s : State) (c : Console) : (s.secondsEnd c).lastBatch = s.lastBatch := by
  unfold State.secondsEnd State.releaseHeld; dsimp only; split <;> simp
@[simp] theorem State.secondsEnd_plantRx (s : State) (c : Console) : (s.secondsEnd c).plantRx = s.plantRx := by
  unfold State.secondsEnd State.releaseHeld; dsimp only; split <;> simp
@[simp] theorem State.secondsEnd_portRx (s : State) (c : Console) : (s.secondsEnd c).portRx = s.portRx := by
  unfold State.secondsEnd State.releaseHeld; dsimp only; split <;> simp
@[simp] theorem State.secondsEnd_busy (s : State) (c : Console) : (s.secondsEnd c).busy = s.busy := by
  unfold State.secondsEnd State.releaseHeld; dsimp only; split <;> simp
@[simp] theorem State.secondsEnd_inHand (s : State) (c : Console) : (s.secondsEnd c).inHand = s.inHand := by
  unfold State.secondsEnd State.releaseHeld; dsimp only; split <;> simp
@[simp] theorem State.secondsEnd_store (s : State) (c : Console) : (s.secondsEnd c).store = s.store := by
  unfold State.secondsEnd State.releaseHeld; dsimp only; split <;> simp
@[simp] theorem State.secondsEnd_draws (s : State) (c : Console) : (s.secondsEnd c).draws = s.draws := by
  unfold State.secondsEnd State.releaseHeld; dsimp only; split <;> simp
@[simp] theorem State.secondsEnd_pending (s : State) (c : Console) : (s.secondsEnd c).pending = s.pending := by
  unfold State.secondsEnd State.releaseHeld; dsimp only; split <;> simp

/-! ### signIn -/

@[simp] theorem State.signIn_powered (s : State) (c : Console) (o : Operator) :
    (s.signIn c o).powered = s.powered := by
  simp [State.signIn]
@[simp] theorem State.signIn_partTime (s : State) (c : Console) (o : Operator) :
    (s.signIn c o).partTime = s.partTime := by
  simp [State.signIn]
@[simp] theorem State.signIn_loops (s : State) (c : Console) (o : Operator) : (s.signIn c o).loops = s.loops := by
  simp [State.signIn]
@[simp] theorem State.signIn_cfg (s : State) (c : Console) (o : Operator) : (s.signIn c o).cfg = s.cfg := by
  simp [State.signIn]
@[simp] theorem State.signIn_lines (s : State) (c : Console) (o : Operator) : (s.signIn c o).lines = s.lines := by
  simp [State.signIn]
@[simp] theorem State.signIn_blankEnds (s : State) (c : Console) (o : Operator) :
    (s.signIn c o).blankEnds = s.blankEnds := by
  simp [State.signIn]
@[simp] theorem State.signIn_waiting (s : State) (c : Console) (o : Operator) :
    (s.signIn c o).waiting = s.waiting := by
  simp [State.signIn]
@[simp] theorem State.signIn_relay (s : State) (c : Console) (o : Operator) : (s.signIn c o).relay = s.relay := by
  simp [State.signIn]
@[simp] theorem State.signIn_day (s : State) (c : Console) (o : Operator) : (s.signIn c o).day = s.day := by
  simp [State.signIn]
@[simp] theorem State.signIn_handovers (s : State) (c : Console) (o : Operator) :
    (s.signIn c o).handovers = s.handovers := by
  simp [State.signIn]
@[simp] theorem State.signIn_lastBatch (s : State) (c : Console) (o : Operator) :
    (s.signIn c o).lastBatch = s.lastBatch := by
  simp [State.signIn]
@[simp] theorem State.signIn_plantRx (s : State) (c : Console) (o : Operator) :
    (s.signIn c o).plantRx = s.plantRx := by
  simp [State.signIn]
@[simp] theorem State.signIn_portRx (s : State) (c : Console) (o : Operator) : (s.signIn c o).portRx = s.portRx := by
  simp [State.signIn]
@[simp] theorem State.signIn_busy (s : State) (c : Console) (o : Operator) : (s.signIn c o).busy = s.busy := by
  simp [State.signIn]
@[simp] theorem State.signIn_inHand (s : State) (c : Console) (o : Operator) : (s.signIn c o).inHand = s.inHand := by
  simp [State.signIn]
@[simp] theorem State.signIn_store (s : State) (c : Console) (o : Operator) : (s.signIn c o).store = s.store := by
  simp [State.signIn]
@[simp] theorem State.signIn_draws (s : State) (c : Console) (o : Operator) : (s.signIn c o).draws = s.draws := by
  simp [State.signIn]
@[simp] theorem State.signIn_pending (s : State) (c : Console) (o : Operator) :
    (s.signIn c o).pending = s.pending := by
  simp [State.signIn]

/-! ### comeIn -/

@[simp] theorem State.comeIn_powered (s : State) (c : Console) (o : Operator) :
    (s.comeIn c o).powered = s.powered := by
  unfold State.comeIn; dsimp only; split <;> simp
@[simp] theorem State.comeIn_partTime (s : State) (c : Console) (o : Operator) :
    (s.comeIn c o).partTime = s.partTime := by
  unfold State.comeIn; dsimp only; split <;> simp
@[simp] theorem State.comeIn_loops (s : State) (c : Console) (o : Operator) : (s.comeIn c o).loops = s.loops := by
  unfold State.comeIn; dsimp only; split <;> simp
@[simp] theorem State.comeIn_cfg (s : State) (c : Console) (o : Operator) : (s.comeIn c o).cfg = s.cfg := by
  unfold State.comeIn; dsimp only; split <;> simp
@[simp] theorem State.comeIn_lines (s : State) (c : Console) (o : Operator) : (s.comeIn c o).lines = s.lines := by
  unfold State.comeIn; dsimp only; split <;> simp
@[simp] theorem State.comeIn_blankEnds (s : State) (c : Console) (o : Operator) :
    (s.comeIn c o).blankEnds = s.blankEnds := by
  unfold State.comeIn; dsimp only; split <;> simp
@[simp] theorem State.comeIn_waiting (s : State) (c : Console) (o : Operator) :
    (s.comeIn c o).waiting = s.waiting := by
  unfold State.comeIn; dsimp only; split <;> simp
@[simp] theorem State.comeIn_relay (s : State) (c : Console) (o : Operator) : (s.comeIn c o).relay = s.relay := by
  unfold State.comeIn; dsimp only; split <;> simp
@[simp] theorem State.comeIn_day (s : State) (c : Console) (o : Operator) : (s.comeIn c o).day = s.day := by
  unfold State.comeIn; dsimp only; split <;> simp
@[simp] theorem State.comeIn_lastBatch (s : State) (c : Console) (o : Operator) :
    (s.comeIn c o).lastBatch = s.lastBatch := by
  unfold State.comeIn; dsimp only; split <;> simp
@[simp] theorem State.comeIn_plantRx (s : State) (c : Console) (o : Operator) :
    (s.comeIn c o).plantRx = s.plantRx := by
  unfold State.comeIn; dsimp only; split <;> simp
@[simp] theorem State.comeIn_portRx (s : State) (c : Console) (o : Operator) : (s.comeIn c o).portRx = s.portRx := by
  unfold State.comeIn; dsimp only; split <;> simp
@[simp] theorem State.comeIn_busy (s : State) (c : Console) (o : Operator) : (s.comeIn c o).busy = s.busy := by
  unfold State.comeIn; dsimp only; split <;> simp
@[simp] theorem State.comeIn_inHand (s : State) (c : Console) (o : Operator) : (s.comeIn c o).inHand = s.inHand := by
  unfold State.comeIn; dsimp only; split <;> simp
@[simp] theorem State.comeIn_store (s : State) (c : Console) (o : Operator) : (s.comeIn c o).store = s.store := by
  unfold State.comeIn; dsimp only; split <;> simp
@[simp] theorem State.comeIn_draws (s : State) (c : Console) (o : Operator) : (s.comeIn c o).draws = s.draws := by
  unfold State.comeIn; dsimp only; split <;> simp
@[simp] theorem State.comeIn_pending (s : State) (c : Console) (o : Operator) :
    (s.comeIn c o).pending = s.pending := by
  unfold State.comeIn; dsimp only; split <;> simp

/-! ### restartPort -/

@[simp] theorem State.restartPort_powered (s : State) (c : Console) : (s.restartPort c).powered = s.powered := by
  simp [State.restartPort]
@[simp] theorem State.restartPort_partTime (s : State) (c : Console) : (s.restartPort c).partTime = s.partTime := by
  simp [State.restartPort]
@[simp] theorem State.restartPort_loops (s : State) (c : Console) : (s.restartPort c).loops = s.loops := by
  simp [State.restartPort]
@[simp] theorem State.restartPort_cfg (s : State) (c : Console) : (s.restartPort c).cfg = s.cfg := by
  simp [State.restartPort]
@[simp] theorem State.restartPort_lines (s : State) (c : Console) : (s.restartPort c).lines = s.lines := by
  simp [State.restartPort]
@[simp] theorem State.restartPort_blankEnds (s : State) (c : Console) :
    (s.restartPort c).blankEnds = s.blankEnds := by
  simp [State.restartPort]
@[simp] theorem State.restartPort_waiting (s : State) (c : Console) : (s.restartPort c).waiting = s.waiting := by
  simp [State.restartPort]
@[simp] theorem State.restartPort_relay (s : State) (c : Console) : (s.restartPort c).relay = s.relay := by
  simp [State.restartPort]
@[simp] theorem State.restartPort_day (s : State) (c : Console) : (s.restartPort c).day = s.day := by
  simp [State.restartPort]
@[simp] theorem State.restartPort_lastBatch (s : State) (c : Console) :
    (s.restartPort c).lastBatch = s.lastBatch := by
  simp [State.restartPort]
@[simp] theorem State.restartPort_plantRx (s : State) (c : Console) : (s.restartPort c).plantRx = s.plantRx := by
  simp [State.restartPort]
@[simp] theorem State.restartPort_portRx (s : State) (c : Console) : (s.restartPort c).portRx = s.portRx := by
  simp [State.restartPort]
@[simp] theorem State.restartPort_busy (s : State) (c : Console) : (s.restartPort c).busy = s.busy := by
  simp [State.restartPort]
@[simp] theorem State.restartPort_inHand (s : State) (c : Console) : (s.restartPort c).inHand = s.inHand := by
  simp [State.restartPort]
@[simp] theorem State.restartPort_store (s : State) (c : Console) : (s.restartPort c).store = s.store := by
  simp [State.restartPort]
@[simp] theorem State.restartPort_draws (s : State) (c : Console) : (s.restartPort c).draws = s.draws := by
  simp [State.restartPort]
@[simp] theorem State.restartPort_pending (s : State) (c : Console) : (s.restartPort c).pending = s.pending := by
  simp [State.restartPort]

/-! ### setEnabled -/

@[simp] theorem State.setEnabled_powered (s : State) (c : Console) (b : Bool) :
    (s.setEnabled c b).powered = s.powered := by
  simp [State.setEnabled]
@[simp] theorem State.setEnabled_partTime (s : State) (c : Console) (b : Bool) :
    (s.setEnabled c b).partTime = s.partTime := by
  simp [State.setEnabled]
@[simp] theorem State.setEnabled_loops (s : State) (c : Console) (b : Bool) : (s.setEnabled c b).loops = s.loops := by
  simp [State.setEnabled]
@[simp] theorem State.setEnabled_lines (s : State) (c : Console) (b : Bool) : (s.setEnabled c b).lines = s.lines := by
  simp [State.setEnabled]
@[simp] theorem State.setEnabled_blankEnds (s : State) (c : Console) (b : Bool) :
    (s.setEnabled c b).blankEnds = s.blankEnds := by
  simp [State.setEnabled]
@[simp] theorem State.setEnabled_waiting (s : State) (c : Console) (b : Bool) :
    (s.setEnabled c b).waiting = s.waiting := by
  simp [State.setEnabled]
@[simp] theorem State.setEnabled_relay (s : State) (c : Console) (b : Bool) : (s.setEnabled c b).relay = s.relay := by
  simp [State.setEnabled]
@[simp] theorem State.setEnabled_day (s : State) (c : Console) (b : Bool) : (s.setEnabled c b).day = s.day := by
  simp [State.setEnabled]
@[simp] theorem State.setEnabled_handovers (s : State) (c : Console) (b : Bool) :
    (s.setEnabled c b).handovers = s.handovers := by
  simp [State.setEnabled]
@[simp] theorem State.setEnabled_changeSet (s : State) (c : Console) (b : Bool) :
    (s.setEnabled c b).changeSet = s.changeSet := by
  simp [State.setEnabled]
@[simp] theorem State.setEnabled_attention (s : State) (c : Console) (b : Bool) :
    (s.setEnabled c b).attention = s.attention := by
  simp [State.setEnabled]
@[simp] theorem State.setEnabled_lastBatch (s : State) (c : Console) (b : Bool) :
    (s.setEnabled c b).lastBatch = s.lastBatch := by
  simp [State.setEnabled]
@[simp] theorem State.setEnabled_plantRx (s : State) (c : Console) (b : Bool) :
    (s.setEnabled c b).plantRx = s.plantRx := by
  simp [State.setEnabled]
@[simp] theorem State.setEnabled_busy (s : State) (c : Console) (b : Bool) : (s.setEnabled c b).busy = s.busy := by
  simp [State.setEnabled]
@[simp] theorem State.setEnabled_inHand (s : State) (c : Console) (b : Bool) :
    (s.setEnabled c b).inHand = s.inHand := by
  simp [State.setEnabled]
@[simp] theorem State.setEnabled_pending (s : State) (c : Console) (b : Bool) :
    (s.setEnabled c b).pending = s.pending := by
  simp [State.setEnabled]

/-! ### moveArea -/

@[simp] theorem State.moveArea_powered (s : State) (a : Area) (x y : Option Console) :
    (s.moveArea a x y).powered = s.powered := by
  unfold State.moveArea; dsimp only; split <;> simp
@[simp] theorem State.moveArea_partTime (s : State) (a : Area) (x y : Option Console) :
    (s.moveArea a x y).partTime = s.partTime := by
  unfold State.moveArea; dsimp only; split <;> simp
@[simp] theorem State.moveArea_loops (s : State) (a : Area) (x y : Option Console) :
    (s.moveArea a x y).loops = s.loops := by
  unfold State.moveArea; dsimp only; split <;> simp
@[simp] theorem State.moveArea_lines (s : State) (a : Area) (x y : Option Console) :
    (s.moveArea a x y).lines = s.lines := by
  unfold State.moveArea; dsimp only; split <;> simp
@[simp] theorem State.moveArea_blankEnds (s : State) (a : Area) (x y : Option Console) :
    (s.moveArea a x y).blankEnds = s.blankEnds := by
  unfold State.moveArea; dsimp only; split <;> simp
@[simp] theorem State.moveArea_waiting (s : State) (a : Area) (x y : Option Console) :
    (s.moveArea a x y).waiting = s.waiting := by
  unfold State.moveArea; dsimp only; split <;> simp
@[simp] theorem State.moveArea_relay (s : State) (a : Area) (x y : Option Console) :
    (s.moveArea a x y).relay = s.relay := by
  unfold State.moveArea; dsimp only; split <;> simp
@[simp] theorem State.moveArea_day (s : State) (a : Area) (x y : Option Console) :
    (s.moveArea a x y).day = s.day := by
  unfold State.moveArea; dsimp only; split <;> simp
@[simp] theorem State.moveArea_handovers (s : State) (a : Area) (x y : Option Console) :
    (s.moveArea a x y).handovers = s.handovers := by
  unfold State.moveArea; dsimp only; split <;> simp
@[simp] theorem State.moveArea_lastBatch (s : State) (a : Area) (x y : Option Console) :
    (s.moveArea a x y).lastBatch = s.lastBatch := by
  unfold State.moveArea; dsimp only; split <;> simp
@[simp] theorem State.moveArea_plantRx (s : State) (a : Area) (x y : Option Console) :
    (s.moveArea a x y).plantRx = s.plantRx := by
  unfold State.moveArea; dsimp only; split <;> simp
@[simp] theorem State.moveArea_portRx (s : State) (a : Area) (x y : Option Console) :
    (s.moveArea a x y).portRx = s.portRx := by
  unfold State.moveArea; dsimp only; split <;> simp
@[simp] theorem State.moveArea_busy (s : State) (a : Area) (x y : Option Console) :
    (s.moveArea a x y).busy = s.busy := by
  unfold State.moveArea; dsimp only; split <;> simp
@[simp] theorem State.moveArea_inHand (s : State) (a : Area) (x y : Option Console) :
    (s.moveArea a x y).inHand = s.inHand := by
  unfold State.moveArea; dsimp only; split <;> simp
@[simp] theorem State.moveArea_pending (s : State) (a : Area) (x y : Option Console) :
    (s.moveArea a x y).pending = s.pending := by
  unfold State.moveArea; dsimp only; split <;> simp

/-! ### relimit -/

@[simp] theorem State.relimit_powered (s : State) : (s.relimit).powered = s.powered := by
  unfold State.relimit
  dsimp only
  split
  · simp
  · rw [State.rerouteStep_powered, foldl_same State.powered State.loseLink (fun t x => by simp)]; simp
@[simp] theorem State.relimit_partTime (s : State) : (s.relimit).partTime = s.partTime := by
  unfold State.relimit
  dsimp only
  split
  · simp
  · rw [State.rerouteStep_partTime, foldl_same State.partTime State.loseLink (fun t x => by simp)]; simp
@[simp] theorem State.relimit_loops (s : State) : (s.relimit).loops = s.loops := by
  unfold State.relimit
  dsimp only
  split
  · simp
  · rw [State.rerouteStep_loops, foldl_same State.loops State.loseLink (fun t x => by simp)]; simp
@[simp] theorem State.relimit_cfg (s : State) : (s.relimit).cfg = s.cfg := by
  unfold State.relimit
  dsimp only
  split
  · simp
  · rw [State.rerouteStep_cfg, foldl_same State.cfg State.loseLink (fun t x => by simp)]; simp
@[simp] theorem State.relimit_lines (s : State) : (s.relimit).lines = s.lines := by
  unfold State.relimit
  dsimp only
  split
  · simp
  · rw [State.rerouteStep_lines, foldl_same State.lines State.loseLink (fun t x => by simp)]; simp
@[simp] theorem State.relimit_blankEnds (s : State) : (s.relimit).blankEnds = s.blankEnds := by
  unfold State.relimit
  dsimp only
  split
  · simp
  · rw [State.rerouteStep_blankEnds, foldl_same State.blankEnds State.loseLink (fun t x => by simp)]; simp
@[simp] theorem State.relimit_waiting (s : State) : (s.relimit).waiting = s.waiting := by
  unfold State.relimit
  dsimp only
  split
  · simp
  · rw [State.rerouteStep_waiting, foldl_same State.waiting State.loseLink (fun t x => by simp)]; simp
@[simp] theorem State.relimit_relay (s : State) : (s.relimit).relay = s.relay := by
  unfold State.relimit
  dsimp only
  split
  · simp
  · rw [State.rerouteStep_relay, foldl_same State.relay State.loseLink (fun t x => by simp)]; simp
@[simp] theorem State.relimit_day (s : State) : (s.relimit).day = s.day := by
  unfold State.relimit
  dsimp only
  split
  · simp
  · rw [State.rerouteStep_day, foldl_same State.day State.loseLink (fun t x => by simp)]; simp
@[simp] theorem State.relimit_lastBatch (s : State) : (s.relimit).lastBatch = s.lastBatch := by
  unfold State.relimit
  dsimp only
  split
  · simp
  · rw [State.rerouteStep_lastBatch, foldl_same State.lastBatch State.loseLink (fun t x => by simp)]; simp
@[simp] theorem State.relimit_plantRx (s : State) : (s.relimit).plantRx = s.plantRx := by
  unfold State.relimit
  dsimp only
  split
  · simp
  · rw [State.rerouteStep_plantRx, foldl_same State.plantRx State.loseLink (fun t x => by simp)]; simp
@[simp] theorem State.relimit_portRx (s : State) : (s.relimit).portRx = s.portRx := by
  unfold State.relimit
  dsimp only
  split
  · simp
  · rw [State.rerouteStep_portRx, foldl_same State.portRx State.loseLink (fun t x => by simp)]; simp
@[simp] theorem State.relimit_busy (s : State) : (s.relimit).busy = s.busy := by
  unfold State.relimit
  dsimp only
  split
  · simp
  · rw [State.rerouteStep_busy, foldl_same State.busy State.loseLink (fun t x => by simp)]; simp
@[simp] theorem State.relimit_inHand (s : State) : (s.relimit).inHand = s.inHand := by
  unfold State.relimit
  dsimp only
  split
  · simp
  · rw [State.rerouteStep_inHand, foldl_same State.inHand State.loseLink (fun t x => by simp)]; simp
@[simp] theorem State.relimit_store (s : State) : (s.relimit).store = s.store := by
  unfold State.relimit
  dsimp only
  split
  · simp
  · rw [State.rerouteStep_store, foldl_same State.store State.loseLink (fun t x => by simp)]; simp
@[simp] theorem State.relimit_draws (s : State) : (s.relimit).draws = s.draws := by
  unfold State.relimit
  dsimp only
  split
  · simp
  · rw [State.rerouteStep_draws, foldl_same State.draws State.loseLink (fun t x => by simp)]; simp
@[simp] theorem State.relimit_pending (s : State) : (s.relimit).pending = s.pending := by
  unfold State.relimit
  dsimp only
  split
  · simp
  · rw [State.rerouteStep_pending, foldl_same State.pending State.loseLink (fun t x => by simp)]; simp

/-! ### takeParams -/

@[simp] theorem State.takeParams_powered (s : State) (w : Parameter) (p : Params) :
    (s.takeParams w p).powered = s.powered := by
  unfold State.takeParams; dsimp only; split <;> simp
@[simp] theorem State.takeParams_partTime (s : State) (w : Parameter) (p : Params) :
    (s.takeParams w p).partTime = s.partTime := by
  unfold State.takeParams; dsimp only; split <;> simp
@[simp] theorem State.takeParams_loops (s : State) (w : Parameter) (p : Params) :
    (s.takeParams w p).loops = s.loops := by
  unfold State.takeParams; dsimp only; split <;> simp
@[simp] theorem State.takeParams_lines (s : State) (w : Parameter) (p : Params) :
    (s.takeParams w p).lines = s.lines := by
  unfold State.takeParams; dsimp only; split <;> simp
@[simp] theorem State.takeParams_blankEnds (s : State) (w : Parameter) (p : Params) :
    (s.takeParams w p).blankEnds = s.blankEnds := by
  unfold State.takeParams; dsimp only; split <;> simp
@[simp] theorem State.takeParams_waiting (s : State) (w : Parameter) (p : Params) :
    (s.takeParams w p).waiting = s.waiting := by
  unfold State.takeParams; dsimp only; split <;> simp
@[simp] theorem State.takeParams_relay (s : State) (w : Parameter) (p : Params) :
    (s.takeParams w p).relay = s.relay := by
  unfold State.takeParams; dsimp only; split <;> simp
@[simp] theorem State.takeParams_day (s : State) (w : Parameter) (p : Params) : (s.takeParams w p).day = s.day := by
  unfold State.takeParams; dsimp only; split <;> simp
@[simp] theorem State.takeParams_lastBatch (s : State) (w : Parameter) (p : Params) :
    (s.takeParams w p).lastBatch = s.lastBatch := by
  unfold State.takeParams; dsimp only; split <;> simp
@[simp] theorem State.takeParams_plantRx (s : State) (w : Parameter) (p : Params) :
    (s.takeParams w p).plantRx = s.plantRx := by
  unfold State.takeParams; dsimp only; split <;> simp
@[simp] theorem State.takeParams_portRx (s : State) (w : Parameter) (p : Params) :
    (s.takeParams w p).portRx = s.portRx := by
  unfold State.takeParams; dsimp only; split <;> simp
@[simp] theorem State.takeParams_busy (s : State) (w : Parameter) (p : Params) :
    (s.takeParams w p).busy = s.busy := by
  unfold State.takeParams; dsimp only; split <;> simp
@[simp] theorem State.takeParams_inHand (s : State) (w : Parameter) (p : Params) :
    (s.takeParams w p).inHand = s.inHand := by
  unfold State.takeParams; dsimp only; split <;> simp
@[simp] theorem State.takeParams_store (s : State) (w : Parameter) (p : Params) :
    (s.takeParams w p).store = s.store := by
  unfold State.takeParams; dsimp only; split <;> simp
@[simp] theorem State.takeParams_draws (s : State) (w : Parameter) (p : Params) :
    (s.takeParams w p).draws = s.draws := by
  unfold State.takeParams; dsimp only; split <;> simp
@[simp] theorem State.takeParams_pending (s : State) (w : Parameter) (p : Params) :
    (s.takeParams w p).pending = s.pending := by
  unfold State.takeParams; dsimp only; split <;> simp

/-! ### endSuspended -/

@[simp] theorem State.endSuspended_powered (s : State) (l : List Console) :
    (s.endSuspended l).powered = s.powered := by
  unfold State.endSuspended State.dropSuspended; split <;> simp
@[simp] theorem State.endSuspended_partTime (s : State) (l : List Console) :
    (s.endSuspended l).partTime = s.partTime := by
  unfold State.endSuspended State.dropSuspended; split <;> simp
@[simp] theorem State.endSuspended_loops (s : State) (l : List Console) :
    (s.endSuspended l).loops = s.loops := by
  unfold State.endSuspended State.dropSuspended; split <;> simp
@[simp] theorem State.endSuspended_lines (s : State) (l : List Console) :
    (s.endSuspended l).lines = s.lines := by
  unfold State.endSuspended State.dropSuspended; split <;> simp
@[simp] theorem State.endSuspended_blankEnds (s : State) (l : List Console) :
    (s.endSuspended l).blankEnds = s.blankEnds := by
  unfold State.endSuspended State.dropSuspended; split <;> simp
@[simp] theorem State.endSuspended_waiting (s : State) (l : List Console) :
    (s.endSuspended l).waiting = s.waiting := by
  unfold State.endSuspended State.dropSuspended; split <;> simp
@[simp] theorem State.endSuspended_relay (s : State) (l : List Console) :
    (s.endSuspended l).relay = s.relay := by
  unfold State.endSuspended State.dropSuspended; split <;> simp
@[simp] theorem State.endSuspended_day (s : State) (l : List Console) :
    (s.endSuspended l).day = s.day := by
  unfold State.endSuspended State.dropSuspended; split <;> simp
@[simp] theorem State.endSuspended_lastBatch (s : State) (l : List Console) :
    (s.endSuspended l).lastBatch = s.lastBatch := by
  unfold State.endSuspended State.dropSuspended; split <;> simp
@[simp] theorem State.endSuspended_plantRx (s : State) (l : List Console) :
    (s.endSuspended l).plantRx = s.plantRx := by
  unfold State.endSuspended State.dropSuspended; split <;> simp
@[simp] theorem State.endSuspended_portRx (s : State) (l : List Console) :
    (s.endSuspended l).portRx = s.portRx := by
  unfold State.endSuspended State.dropSuspended; split <;> simp
@[simp] theorem State.endSuspended_busy (s : State) (l : List Console) :
    (s.endSuspended l).busy = s.busy := by
  unfold State.endSuspended State.dropSuspended; split <;> simp
@[simp] theorem State.endSuspended_inHand (s : State) (l : List Console) :
    (s.endSuspended l).inHand = s.inHand := by
  unfold State.endSuspended State.dropSuspended; split <;> simp
@[simp] theorem State.endSuspended_pending (s : State) (l : List Console) :
    (s.endSuspended l).pending = s.pending := by
  unfold State.endSuspended State.dropSuspended; split <;> simp
@[simp] theorem State.endSuspended_cfg (s : State) (l : List Console) :
    (s.endSuspended l).cfg = s.cfg := by
  unfold State.endSuspended State.dropSuspended; split <;> simp
@[simp] theorem State.endSuspended_handovers (s : State) (l : List Console) :
    (s.endSuspended l).handovers = s.handovers := by
  unfold State.endSuspended State.dropSuspended; split <;> simp
@[simp] theorem State.endSuspended_store (s : State) (l : List Console) :
    (s.endSuspended l).store = s.store := by
  unfold State.endSuspended State.dropSuspended; split <;> simp
@[simp] theorem State.endSuspended_draws (s : State) (l : List Console) :
    (s.endSuspended l).draws = s.draws := by
  unfold State.endSuspended State.dropSuspended; split <;> simp

/-! ### suspend -/

@[simp] theorem State.suspend_powered (s : State) (o : Operator) : (s.suspend o).powered = s.powered := by
  unfold State.suspend
  dsimp only
  rw [State.storeWrite_powered, State.markAll_powered, State.endSuspended_powered, foldl_same State.powered _ (fun t x => by simp)]; simp [State.setStatus]
@[simp] theorem State.suspend_partTime (s : State) (o : Operator) : (s.suspend o).partTime = s.partTime := by
  unfold State.suspend
  dsimp only
  rw [State.storeWrite_partTime, State.markAll_partTime, State.endSuspended_partTime, foldl_same State.partTime _ (fun t x => by simp)]; simp [State.setStatus]
@[simp] theorem State.suspend_loops (s : State) (o : Operator) : (s.suspend o).loops = s.loops := by
  unfold State.suspend
  dsimp only
  rw [State.storeWrite_loops, State.markAll_loops, State.endSuspended_loops, foldl_same State.loops _ (fun t x => by simp)]; simp [State.setStatus]
@[simp] theorem State.suspend_lines (s : State) (o : Operator) : (s.suspend o).lines = s.lines := by
  unfold State.suspend
  dsimp only
  rw [State.storeWrite_lines, State.markAll_lines, State.endSuspended_lines, foldl_same State.lines _ (fun t x => by simp)]; simp [State.setStatus]
@[simp] theorem State.suspend_blankEnds (s : State) (o : Operator) : (s.suspend o).blankEnds = s.blankEnds := by
  unfold State.suspend
  dsimp only
  rw [State.storeWrite_blankEnds, State.markAll_blankEnds, State.endSuspended_blankEnds, foldl_same State.blankEnds _ (fun t x => by simp)]; simp [State.setStatus]
@[simp] theorem State.suspend_waiting (s : State) (o : Operator) : (s.suspend o).waiting = s.waiting := by
  unfold State.suspend
  dsimp only
  rw [State.storeWrite_waiting, State.markAll_waiting, State.endSuspended_waiting, foldl_same State.waiting _ (fun t x => by simp)]; simp [State.setStatus]
@[simp] theorem State.suspend_relay (s : State) (o : Operator) : (s.suspend o).relay = s.relay := by
  unfold State.suspend
  dsimp only
  rw [State.storeWrite_relay, State.markAll_relay, State.endSuspended_relay, foldl_same State.relay _ (fun t x => by simp)]; simp [State.setStatus]
@[simp] theorem State.suspend_day (s : State) (o : Operator) : (s.suspend o).day = s.day := by
  unfold State.suspend
  dsimp only
  rw [State.storeWrite_day, State.markAll_day, State.endSuspended_day, foldl_same State.day _ (fun t x => by simp)]; simp [State.setStatus]
@[simp] theorem State.suspend_lastBatch (s : State) (o : Operator) : (s.suspend o).lastBatch = s.lastBatch := by
  unfold State.suspend
  dsimp only
  rw [State.storeWrite_lastBatch, State.markAll_lastBatch, State.endSuspended_lastBatch, foldl_same State.lastBatch _ (fun t x => by simp)]; simp [State.setStatus]
@[simp] theorem State.suspend_plantRx (s : State) (o : Operator) : (s.suspend o).plantRx = s.plantRx := by
  unfold State.suspend
  dsimp only
  rw [State.storeWrite_plantRx, State.markAll_plantRx, State.endSuspended_plantRx, foldl_same State.plantRx _ (fun t x => by simp)]; simp [State.setStatus]
@[simp] theorem State.suspend_portRx (s : State) (o : Operator) : (s.suspend o).portRx = s.portRx := by
  unfold State.suspend
  dsimp only
  rw [State.storeWrite_portRx, State.markAll_portRx, State.endSuspended_portRx, foldl_same State.portRx _ (fun t x => by simp)]; simp [State.setStatus]
@[simp] theorem State.suspend_busy (s : State) (o : Operator) : (s.suspend o).busy = s.busy := by
  unfold State.suspend
  dsimp only
  rw [State.storeWrite_busy, State.markAll_busy, State.endSuspended_busy, foldl_same State.busy _ (fun t x => by simp)]; simp [State.setStatus]
@[simp] theorem State.suspend_inHand (s : State) (o : Operator) : (s.suspend o).inHand = s.inHand := by
  unfold State.suspend
  dsimp only
  rw [State.storeWrite_inHand, State.markAll_inHand, State.endSuspended_inHand, foldl_same State.inHand _ (fun t x => by simp)]; simp [State.setStatus]
@[simp] theorem State.suspend_pending (s : State) (o : Operator) : (s.suspend o).pending = s.pending := by
  unfold State.suspend
  dsimp only
  rw [State.storeWrite_pending, State.markAll_pending, State.endSuspended_pending, foldl_same State.pending _ (fun t x => by simp)]; simp [State.setStatus]

/-! ### putNote -/

@[simp] theorem State.putNote_powered (s : State) (n : Note) (r : NoteRecord) :
    (s.putNote n r).powered = s.powered := by
  simp [State.putNote]
@[simp] theorem State.putNote_partTime (s : State) (n : Note) (r : NoteRecord) :
    (s.putNote n r).partTime = s.partTime := by
  simp [State.putNote]
@[simp] theorem State.putNote_loops (s : State) (n : Note) (r : NoteRecord) : (s.putNote n r).loops = s.loops := by
  simp [State.putNote]
@[simp] theorem State.putNote_lines (s : State) (n : Note) (r : NoteRecord) : (s.putNote n r).lines = s.lines := by
  simp [State.putNote]
@[simp] theorem State.putNote_blankEnds (s : State) (n : Note) (r : NoteRecord) :
    (s.putNote n r).blankEnds = s.blankEnds := by
  simp [State.putNote]
@[simp] theorem State.putNote_live (s : State) (n : Note) (r : NoteRecord) : (s.putNote n r).live = s.live := by
  simp [State.putNote]
@[simp] theorem State.putNote_waiting (s : State) (n : Note) (r : NoteRecord) :
    (s.putNote n r).waiting = s.waiting := by
  simp [State.putNote]
@[simp] theorem State.putNote_routes (s : State) (n : Note) (r : NoteRecord) : (s.putNote n r).routes = s.routes := by
  simp [State.putNote]
@[simp] theorem State.putNote_relay (s : State) (n : Note) (r : NoteRecord) : (s.putNote n r).relay = s.relay := by
  simp [State.putNote]
@[simp] theorem State.putNote_day (s : State) (n : Note) (r : NoteRecord) : (s.putNote n r).day = s.day := by
  simp [State.putNote]
@[simp] theorem State.putNote_consoles (s : State) (n : Note) (r : NoteRecord) :
    (s.putNote n r).consoles = s.consoles := by
  simp [State.putNote]
@[simp] theorem State.putNote_lastBatch (s : State) (n : Note) (r : NoteRecord) :
    (s.putNote n r).lastBatch = s.lastBatch := by
  simp [State.putNote]
@[simp] theorem State.putNote_plantRx (s : State) (n : Note) (r : NoteRecord) :
    (s.putNote n r).plantRx = s.plantRx := by
  simp [State.putNote]
@[simp] theorem State.putNote_portRx (s : State) (n : Note) (r : NoteRecord) : (s.putNote n r).portRx = s.portRx := by
  simp [State.putNote]
@[simp] theorem State.putNote_busy (s : State) (n : Note) (r : NoteRecord) : (s.putNote n r).busy = s.busy := by
  simp [State.putNote]
@[simp] theorem State.putNote_inHand (s : State) (n : Note) (r : NoteRecord) : (s.putNote n r).inHand = s.inHand := by
  simp [State.putNote]
@[simp] theorem State.putNote_pending (s : State) (n : Note) (r : NoteRecord) :
    (s.putNote n r).pending = s.pending := by
  simp [State.putNote]

/-! ### emptyNote -/

@[simp] theorem State.emptyNote_powered (s : State) (n : Note) : (s.emptyNote n).powered = s.powered := by
  simp [State.emptyNote]
@[simp] theorem State.emptyNote_partTime (s : State) (n : Note) : (s.emptyNote n).partTime = s.partTime := by
  simp [State.emptyNote]
@[simp] theorem State.emptyNote_loops (s : State) (n : Note) : (s.emptyNote n).loops = s.loops := by
  simp [State.emptyNote]
@[simp] theorem State.emptyNote_lines (s : State) (n : Note) : (s.emptyNote n).lines = s.lines := by
  simp [State.emptyNote]
@[simp] theorem State.emptyNote_blankEnds (s : State) (n : Note) : (s.emptyNote n).blankEnds = s.blankEnds := by
  simp [State.emptyNote]
@[simp] theorem State.emptyNote_live (s : State) (n : Note) : (s.emptyNote n).live = s.live := by
  simp [State.emptyNote]
@[simp] theorem State.emptyNote_waiting (s : State) (n : Note) : (s.emptyNote n).waiting = s.waiting := by
  simp [State.emptyNote]
@[simp] theorem State.emptyNote_routes (s : State) (n : Note) : (s.emptyNote n).routes = s.routes := by
  simp [State.emptyNote]
@[simp] theorem State.emptyNote_relay (s : State) (n : Note) : (s.emptyNote n).relay = s.relay := by
  simp [State.emptyNote]
@[simp] theorem State.emptyNote_day (s : State) (n : Note) : (s.emptyNote n).day = s.day := by
  simp [State.emptyNote]
@[simp] theorem State.emptyNote_consoles (s : State) (n : Note) : (s.emptyNote n).consoles = s.consoles := by
  simp [State.emptyNote]
@[simp] theorem State.emptyNote_lastBatch (s : State) (n : Note) : (s.emptyNote n).lastBatch = s.lastBatch := by
  simp [State.emptyNote]
@[simp] theorem State.emptyNote_plantRx (s : State) (n : Note) : (s.emptyNote n).plantRx = s.plantRx := by
  simp [State.emptyNote]
@[simp] theorem State.emptyNote_portRx (s : State) (n : Note) : (s.emptyNote n).portRx = s.portRx := by
  simp [State.emptyNote]
@[simp] theorem State.emptyNote_busy (s : State) (n : Note) : (s.emptyNote n).busy = s.busy := by
  simp [State.emptyNote]
@[simp] theorem State.emptyNote_inHand (s : State) (n : Note) : (s.emptyNote n).inHand = s.inHand := by
  simp [State.emptyNote]
@[simp] theorem State.emptyNote_pending (s : State) (n : Note) : (s.emptyNote n).pending = s.pending := by
  simp [State.emptyNote]

/-! ### dropAuthor -/

@[simp] theorem State.dropAuthor_powered (s : State) (o : Operator) : (s.dropAuthor o).powered = s.powered := by
  simp [State.dropAuthor]
@[simp] theorem State.dropAuthor_partTime (s : State) (o : Operator) : (s.dropAuthor o).partTime = s.partTime := by
  simp [State.dropAuthor]
@[simp] theorem State.dropAuthor_loops (s : State) (o : Operator) : (s.dropAuthor o).loops = s.loops := by
  simp [State.dropAuthor]
@[simp] theorem State.dropAuthor_lines (s : State) (o : Operator) : (s.dropAuthor o).lines = s.lines := by
  simp [State.dropAuthor]
@[simp] theorem State.dropAuthor_blankEnds (s : State) (o : Operator) : (s.dropAuthor o).blankEnds = s.blankEnds := by
  simp [State.dropAuthor]
@[simp] theorem State.dropAuthor_live (s : State) (o : Operator) : (s.dropAuthor o).live = s.live := by
  simp [State.dropAuthor]
@[simp] theorem State.dropAuthor_waiting (s : State) (o : Operator) : (s.dropAuthor o).waiting = s.waiting := by
  simp [State.dropAuthor]
@[simp] theorem State.dropAuthor_routes (s : State) (o : Operator) : (s.dropAuthor o).routes = s.routes := by
  simp [State.dropAuthor]
@[simp] theorem State.dropAuthor_relay (s : State) (o : Operator) : (s.dropAuthor o).relay = s.relay := by
  simp [State.dropAuthor]
@[simp] theorem State.dropAuthor_day (s : State) (o : Operator) : (s.dropAuthor o).day = s.day := by
  simp [State.dropAuthor]
@[simp] theorem State.dropAuthor_consoles (s : State) (o : Operator) : (s.dropAuthor o).consoles = s.consoles := by
  simp [State.dropAuthor]
@[simp] theorem State.dropAuthor_handovers (s : State) (o : Operator) : (s.dropAuthor o).handovers = s.handovers := by
  simp [State.dropAuthor]
@[simp] theorem State.dropAuthor_lastBatch (s : State) (o : Operator) : (s.dropAuthor o).lastBatch = s.lastBatch := by
  simp [State.dropAuthor]
@[simp] theorem State.dropAuthor_plantRx (s : State) (o : Operator) : (s.dropAuthor o).plantRx = s.plantRx := by
  simp [State.dropAuthor]
@[simp] theorem State.dropAuthor_portRx (s : State) (o : Operator) : (s.dropAuthor o).portRx = s.portRx := by
  simp [State.dropAuthor]
@[simp] theorem State.dropAuthor_busy (s : State) (o : Operator) : (s.dropAuthor o).busy = s.busy := by
  simp [State.dropAuthor]
@[simp] theorem State.dropAuthor_inHand (s : State) (o : Operator) : (s.dropAuthor o).inHand = s.inHand := by
  simp [State.dropAuthor]
@[simp] theorem State.dropAuthor_store (s : State) (o : Operator) : (s.dropAuthor o).store = s.store := by
  simp [State.dropAuthor]
@[simp] theorem State.dropAuthor_draws (s : State) (o : Operator) : (s.dropAuthor o).draws = s.draws := by
  simp [State.dropAuthor]
@[simp] theorem State.dropAuthor_pending (s : State) (o : Operator) : (s.dropAuthor o).pending = s.pending := by
  simp [State.dropAuthor]

/-! ### busyFrame -/

@[simp] theorem State.busyFrame_powered (s : State) : (s.busyFrame).powered = s.powered := by
  unfold State.busyFrame; split <;> rfl
@[simp] theorem State.busyFrame_partTime (s : State) : (s.busyFrame).partTime = s.partTime := by
  unfold State.busyFrame; split <;> rfl
@[simp] theorem State.busyFrame_loops (s : State) : (s.busyFrame).loops = s.loops := by
  unfold State.busyFrame; split <;> rfl
@[simp] theorem State.busyFrame_cfg (s : State) : (s.busyFrame).cfg = s.cfg := by
  unfold State.busyFrame; split <;> rfl
@[simp] theorem State.busyFrame_lines (s : State) : (s.busyFrame).lines = s.lines := by
  unfold State.busyFrame; split <;> rfl
@[simp] theorem State.busyFrame_blankEnds (s : State) : (s.busyFrame).blankEnds = s.blankEnds := by
  unfold State.busyFrame; split <;> rfl
@[simp] theorem State.busyFrame_live (s : State) : (s.busyFrame).live = s.live := by
  unfold State.busyFrame; split <;> rfl
@[simp] theorem State.busyFrame_waiting (s : State) : (s.busyFrame).waiting = s.waiting := by
  unfold State.busyFrame; split <;> rfl
@[simp] theorem State.busyFrame_routes (s : State) : (s.busyFrame).routes = s.routes := by
  unfold State.busyFrame; split <;> rfl
@[simp] theorem State.busyFrame_relay (s : State) : (s.busyFrame).relay = s.relay := by
  unfold State.busyFrame; split <;> rfl
@[simp] theorem State.busyFrame_day (s : State) : (s.busyFrame).day = s.day := by
  unfold State.busyFrame; split <;> rfl
@[simp] theorem State.busyFrame_consoles (s : State) : (s.busyFrame).consoles = s.consoles := by
  unfold State.busyFrame; split <;> rfl
@[simp] theorem State.busyFrame_handovers (s : State) : (s.busyFrame).handovers = s.handovers := by
  unfold State.busyFrame; split <;> rfl
@[simp] theorem State.busyFrame_changeSet (s : State) : (s.busyFrame).changeSet = s.changeSet := by
  unfold State.busyFrame; split <;> rfl
@[simp] theorem State.busyFrame_attention (s : State) : (s.busyFrame).attention = s.attention := by
  unfold State.busyFrame; split <;> rfl
@[simp] theorem State.busyFrame_lastBatch (s : State) : (s.busyFrame).lastBatch = s.lastBatch := by
  unfold State.busyFrame; split <;> rfl
@[simp] theorem State.busyFrame_portRx (s : State) : (s.busyFrame).portRx = s.portRx := by
  unfold State.busyFrame; split <;> rfl
@[simp] theorem State.busyFrame_inHand (s : State) : (s.busyFrame).inHand = s.inHand := by
  unfold State.busyFrame; split <;> rfl
@[simp] theorem State.busyFrame_store (s : State) : (s.busyFrame).store = s.store := by
  unfold State.busyFrame; split <;> rfl
@[simp] theorem State.busyFrame_draws (s : State) : (s.busyFrame).draws = s.draws := by
  unfold State.busyFrame; split <;> rfl
@[simp] theorem State.busyFrame_pending (s : State) : (s.busyFrame).pending = s.pending := by
  unfold State.busyFrame; split <;> rfl

/-! ### setReceiver -/

@[simp] theorem State.setReceiver_powered (s : State) (rx : Rx) (f : Receiver → Receiver) :
    (s.setReceiver rx f).powered = s.powered := by
  cases rx <;> rfl
@[simp] theorem State.setReceiver_partTime (s : State) (rx : Rx) (f : Receiver → Receiver) :
    (s.setReceiver rx f).partTime = s.partTime := by
  cases rx <;> rfl
@[simp] theorem State.setReceiver_loops (s : State) (rx : Rx) (f : Receiver → Receiver) :
    (s.setReceiver rx f).loops = s.loops := by
  cases rx <;> rfl
@[simp] theorem State.setReceiver_cfg (s : State) (rx : Rx) (f : Receiver → Receiver) :
    (s.setReceiver rx f).cfg = s.cfg := by
  cases rx <;> rfl
@[simp] theorem State.setReceiver_lines (s : State) (rx : Rx) (f : Receiver → Receiver) :
    (s.setReceiver rx f).lines = s.lines := by
  cases rx <;> rfl
@[simp] theorem State.setReceiver_blankEnds (s : State) (rx : Rx) (f : Receiver → Receiver) :
    (s.setReceiver rx f).blankEnds = s.blankEnds := by
  cases rx <;> rfl
@[simp] theorem State.setReceiver_live (s : State) (rx : Rx) (f : Receiver → Receiver) :
    (s.setReceiver rx f).live = s.live := by
  cases rx <;> rfl
@[simp] theorem State.setReceiver_waiting (s : State) (rx : Rx) (f : Receiver → Receiver) :
    (s.setReceiver rx f).waiting = s.waiting := by
  cases rx <;> rfl
@[simp] theorem State.setReceiver_routes (s : State) (rx : Rx) (f : Receiver → Receiver) :
    (s.setReceiver rx f).routes = s.routes := by
  cases rx <;> rfl
@[simp] theorem State.setReceiver_relay (s : State) (rx : Rx) (f : Receiver → Receiver) :
    (s.setReceiver rx f).relay = s.relay := by
  cases rx <;> rfl
@[simp] theorem State.setReceiver_day (s : State) (rx : Rx) (f : Receiver → Receiver) :
    (s.setReceiver rx f).day = s.day := by
  cases rx <;> rfl
@[simp] theorem State.setReceiver_consoles (s : State) (rx : Rx) (f : Receiver → Receiver) :
    (s.setReceiver rx f).consoles = s.consoles := by
  cases rx <;> rfl
@[simp] theorem State.setReceiver_handovers (s : State) (rx : Rx) (f : Receiver → Receiver) :
    (s.setReceiver rx f).handovers = s.handovers := by
  cases rx <;> rfl
@[simp] theorem State.setReceiver_changeSet (s : State) (rx : Rx) (f : Receiver → Receiver) :
    (s.setReceiver rx f).changeSet = s.changeSet := by
  cases rx <;> rfl
@[simp] theorem State.setReceiver_attention (s : State) (rx : Rx) (f : Receiver → Receiver) :
    (s.setReceiver rx f).attention = s.attention := by
  cases rx <;> rfl
@[simp] theorem State.setReceiver_lastBatch (s : State) (rx : Rx) (f : Receiver → Receiver) :
    (s.setReceiver rx f).lastBatch = s.lastBatch := by
  cases rx <;> rfl
@[simp] theorem State.setReceiver_busy (s : State) (rx : Rx) (f : Receiver → Receiver) :
    (s.setReceiver rx f).busy = s.busy := by
  cases rx <;> rfl
@[simp] theorem State.setReceiver_inHand (s : State) (rx : Rx) (f : Receiver → Receiver) :
    (s.setReceiver rx f).inHand = s.inHand := by
  cases rx <;> rfl
@[simp] theorem State.setReceiver_store (s : State) (rx : Rx) (f : Receiver → Receiver) :
    (s.setReceiver rx f).store = s.store := by
  cases rx <;> rfl
@[simp] theorem State.setReceiver_draws (s : State) (rx : Rx) (f : Receiver → Receiver) :
    (s.setReceiver rx f).draws = s.draws := by
  cases rx <;> rfl
@[simp] theorem State.setReceiver_pending (s : State) (rx : Rx) (f : Receiver → Receiver) :
    (s.setReceiver rx f).pending = s.pending := by
  cases rx <;> rfl

end Sys2Proof.Machine
end

