-- ==== Sys2Proof/Laws/Skeleton.lean ====
section
/-! SUPPORT. The skeleton of a state: all that the laws of the device speak of, but for the horns, the relay and the change
set. Two states with one skeleton satisfy the same laws; what the end of an event, an answer, a mark or a receiver does
leaves the skeleton alone. -/

namespace Sys2Proof.Machine

/-- The fields of a console record that the laws speak of. -/
structure Bone where
  link : Link
  count : Nat
  session : Session
  load : Nat
  flooded : Bool
  secondSum : Nat
deriving DecidableEq, Repr

def ConsoleRecord.bone (k : ConsoleRecord) : Bone :=
  { link := k.link, count := k.count, session := k.session, load := k.load, flooded := k.flooded,
    secondSum := k.secondSum }

structure Skeleton where
  time : Nat
  cfg : Settings
  copyA : Option StoredCopy
  copyB : Option StoredCopy
  live : Vector (Option Record) 64
  waiting : List Entry
  routes : Vector (Option Console) 12
  handovers : Vector Handover 8
  bones : Vector Bone 8
deriving DecidableEq, Repr

def State.skel (s : State) : Skeleton :=
  { time := s.partTime, cfg := s.cfg, copyA := s.store.copyA, copyB := s.store.copyB, live := s.live,
    waiting := s.waiting, routes := s.routes, handovers := s.handovers, bones := s.consoles.map ConsoleRecord.bone }

/-! ### Reading a skeleton -/

theorem bone_eq {s t : State} (h : t.skel = s.skel) (c : Console) :
    (t.consoles[c.val]).bone = (s.consoles[c.val]).bone := by
  have := congrArg (fun k : Skeleton => k.bones[c.val]) h
  simpa [State.skel] using this

theorem skel_ext {s t : State} (h1 : t.cfg = s.cfg) (h2 : t.live = s.live) (h3 : t.waiting = s.waiting)
    (h4 : t.routes = s.routes) (h5 : t.handovers = s.handovers)
    (h6 : ∀ c : Console, (t.consoles[c.val]).bone = (s.consoles[c.val]).bone)
    (h7 : t.partTime = s.partTime) (h8 : t.store.copyA = s.store.copyA) (h9 : t.store.copyB = s.store.copyB) :
    t.skel = s.skel := by
  unfold State.skel
  rw [h1, h2, h3, h4, h5, h7, h8, h9]
  congr 1
  apply Vector.ext
  intro i hi
  simpa using h6 ⟨i, hi⟩

section Fields

variable {s t : State} (h : t.skel = s.skel)
include h

theorem skel_time : t.partTime = s.partTime := congrArg Skeleton.time h
theorem skel_cfg : t.cfg = s.cfg := congrArg Skeleton.cfg h
theorem skel_copy (w : CopyName) : t.store.copy w = s.store.copy w := by
  cases w
  · exact congrArg Skeleton.copyA h
  · exact congrArg Skeleton.copyB h
theorem skel_live : t.live = s.live := congrArg Skeleton.live h
theorem skel_waiting : t.waiting = s.waiting := congrArg Skeleton.waiting h
theorem skel_routes : t.routes = s.routes := congrArg Skeleton.routes h
theorem skel_handovers : t.handovers = s.handovers := congrArg Skeleton.handovers h
theorem skel_link (c : Console) : (t.consoles[c.val]).link = (s.consoles[c.val]).link :=
  congrArg Bone.link (bone_eq h c)
theorem skel_count (c : Console) : (t.consoles[c.val]).count = (s.consoles[c.val]).count :=
  congrArg Bone.count (bone_eq h c)
theorem skel_session (c : Console) : (t.consoles[c.val]).session = (s.consoles[c.val]).session :=
  congrArg Bone.session (bone_eq h c)
theorem skel_load (c : Console) : (t.consoles[c.val]).load = (s.consoles[c.val]).load :=
  congrArg Bone.load (bone_eq h c)
theorem skel_flooded (c : Console) : (t.consoles[c.val]).flooded = (s.consoles[c.val]).flooded :=
  congrArg Bone.flooded (bone_eq h c)
theorem skel_secondSum (c : Console) : (t.consoles[c.val]).secondSum = (s.consoles[c.val]).secondSum :=
  congrArg Bone.secondSum (bone_eq h c)

theorem skel_records : t.records = s.records := by
  unfold State.records; rw [skel_live h]

theorem skel_linkUp (c : Console) : t.linkUp c = s.linkUp c := by
  simp [State.linkUp, skel_link h]

theorem skel_attachedAt (c : Console) : t.attachedAt c = s.attachedAt c := by
  simp [State.attachedAt, skel_session h]

theorem skel_staffed (c : Console) : t.staffed c = s.staffed c := by
  simp [State.staffed, skel_linkUp h, skel_attachedAt h]

theorem skel_staffedOption (o : Option Console) : t.staffedOption o = s.staffedOption o := by
  cases o <;> simp [State.staffedOption, skel_staffed h]

theorem skel_routeOf (a : Area) : t.routeOf a = s.routeOf a := by
  simp [State.routeOf, skel_staffedOption h, skel_linkUp h, skel_cfg h]

theorem skel_ownedAreas (c : Console) : t.ownedAreas c = s.ownedAreas c := by
  simp [State.ownedAreas, skel_cfg h]

theorem skel_lowestEmpty : t.lowestEmpty = s.lowestEmpty := by
  simp [State.lowestEmpty, skel_live h]

end Fields

/-! ### The laws depend on the skeleton alone -/

theorem recordLaw_skel {s t : State} (h : t.skel = s.skel) (l : s.recordLaw) : t.recordLaw := by
  unfold State.recordLaw at *; rw [skel_records h, skel_waiting h, skel_cfg h]; exact l

theorem tableLaw_skel {s t : State} (h : t.skel = s.skel) (l : s.tableLaw) : t.tableLaw := by
  obtain ⟨l1, l2, l3, l4, l5, l6⟩ := l
  constructor
  · rw [skel_records h]; exact l1
  · rw [skel_waiting h]; exact l2
  · rw [skel_records h, skel_waiting h]; exact l3
  · rw [skel_lowestEmpty h, skel_waiting h]; exact l4
  · rw [skel_waiting h]; exact l5
  · rw [skel_waiting h, skel_time h]; exact l6

theorem routeLaw_skel {s t : State} (h : t.skel = s.skel) (l : s.routeLaw) : t.routeLaw := by
  obtain ⟨l1, l2⟩ := l
  constructor
  · intro a; rw [skel_routes h, skel_routeOf h]; exact l1 a
  · rw [skel_records h, skel_routes h]; exact l2

theorem heldLaw_skel {s t : State} (h : t.skel = s.skel) (l : s.heldLaw) : t.heldLaw := by
  intro r hr hf
  rw [skel_records h] at hr
  obtain ⟨h1, h2, h3, c, h4, h5⟩ := l r hr hf
  exact ⟨h1, h2, h3, c, h4, (skel_flooded h c).trans h5⟩

theorem loadLaw_skel {s t : State} (h : t.skel = s.skel) (l : s.loadLaw) : t.loadLaw := by
  intro c
  have := l c
  simpa [skel_load h, skel_secondSum h] using this

theorem linkLaw_skel {s t : State} (h : t.skel = s.skel) (l : s.linkLaw) : t.linkLaw := by
  obtain ⟨l1, l2, l3, l4, l5, l6⟩ := l
  constructor
  · rw [skel_cfg h]; exact l1
  · intro c; have := l2 c; simpa [skel_cfg h, skel_count h] using this
  · intro c w; have := l3 c w; simpa [skel_link h, skel_count h] using this
  · intro c; have := l4 c; simpa [skel_cfg h, skel_link h] using this
  · intro c; rw [skel_attachedAt h, skel_linkUp h]; exact l5 c
  · intro c; have := l6 c; simpa [skel_linkUp h, skel_session h] using this

theorem handoverLaw_skel {s t : State} (h : t.skel = s.skel) (l : s.handoverLaw) : t.handoverLaw := by
  intro c hc
  rw [skel_handovers h] at *
  rw [skel_linkUp h, skel_attachedAt h, skel_ownedAreas h]
  exact l c hc

theorem settingsLaw_skel {s t : State} (h : t.skel = s.skel) (l : s.settingsLaw) : t.settingsLaw := by
  obtain ⟨l1, l2, l3⟩ := l
  constructor
  · rw [skel_cfg h]; exact l1
  · rw [skel_cfg h]; exact l2
  · intro w k hk; exact l3 w k (by rw [← skel_copy h]; exact hk)

theorem skel_engaged {s t : State} (h : t.skel = s.skel) (c : Console) (o : Operator) :
    t.engaged c o ↔ s.engaged c o := by
  simp [State.engaged, skel_handovers h, skel_session h]

theorem placeLaw_skel {s t : State} (h : t.skel = s.skel) (l : s.placeLaw) : t.placeLaw := by
  obtain ⟨l1, l2, l3⟩ := l
  constructor
  · intro o c d; rw [skel_engaged h, skel_engaged h]; exact l1 o c d
  · intro o c; have := l2 o c; simpa [skel_handovers h, skel_session h] using this
  · intro o c; rw [skel_engaged h, skel_cfg h]; exact l3 o c

theorem itemLaw_skel {s t : State} (h : t.skel = s.skel) (l : s.itemLaw) : t.itemLaw := by
  obtain ⟨l1, l2, l3, l4⟩ := l
  constructor
  · rw [skel_handovers h]; exact l1
  · rw [skel_handovers h]; exact l2
  · rw [skel_handovers h, skel_records h, skel_cfg h]; exact l3
  · rw [skel_handovers h, skel_cfg h]; exact l4

/-! ### What leaves the skeleton alone -/

@[simp] theorem compose_bone (k : ConsoleRecord) (x : Telegram) : (k.compose x).bone = k.bone := by
  unfold ConsoleRecord.compose
  split
  · rfl
  · rfl
  · split <;> rfl

@[simp] theorem skel_markAll (s : State) (l : List Ref) : (s.markAll l).skel = s.skel := rfl

@[simp] theorem skel_answer (s : State) (code seq : Byte) (r : Reply) : (s.answer code seq r).skel = s.skel := rfl

@[simp] theorem skel_plantHunting (s : State) : s.plantHunting.skel = s.skel := rfl

@[simp] theorem skel_portHunting (s : State) (c : Console) : (s.portHunting c).skel = s.skel := rfl

@[simp] theorem skel_busyFrame (s : State) : s.busyFrame.skel = s.skel := by
  unfold State.busyFrame; split <;> rfl

@[simp] theorem skel_setReceiver (s : State) (rx : Rx) (f : Receiver → Receiver) :
    (s.setReceiver rx f).skel = s.skel := by
  cases rx <;> rfl

@[simp] theorem skel_released (s : State) : s.released.skel = s.skel := rfl

@[simp] theorem skel_rerelay (s : State) : s.rerelay.skel = s.skel := rfl

@[simp] theorem skel_rehorn (s : State) : s.rehorn.skel = s.skel := by
  apply skel_ext <;> simp [ConsoleRecord.bone]

@[simp] theorem skel_composeAll (t s : State) (x : Option Console) : (t.composeAll s x).skel = t.skel := by
  apply skel_ext <;> try simp
  intro c
  simp only [State.composeAll, Vector.getElem_ofFn]
  split <;> simp

@[simp] theorem skel_settle (s t : State) (x : Option Console) : (settle s t x).skel = t.skel := by
  simp [settle]

@[simp] theorem skel_requalify (s : State) (l : List Console) : (s.requalify l).skel = s.skel := by
  unfold State.requalify
  rw [skel_markAll]
  apply skel_ext <;> try rfl
  intro c
  simp only [Vector.getElem_ofFn]
  split <;> simp [ConsoleRecord.bone]

/-- A change of one console record that keeps its bone. -/
theorem skel_setConsole (s : State) (c : Console) (f : ConsoleRecord → ConsoleRecord) (h : ∀ k, (f k).bone = k.bone) :
    (s.setConsole c f).skel = s.skel := by
  apply skel_ext <;> try rfl
  intro d
  simp only [State.setConsole_consoles, upd_get]
  split
  · next e => subst e; exact h _
  · rfl

@[simp] theorem skel_withResult (s : State) (c : Console) (k : ResultSource) (r : Result) :
    (s.withResult c k r).skel = s.skel := skel_setConsole s c _ fun _ => rfl

end Sys2Proof.Machine
end

