-- ==== Sys2Proof/Laws/Keeps.lean ====
section
/-! SUPPORT. What every command can do, said once. OpsKeep lists, for a predicate that depends on the skeleton alone, the
operations behind the commands, each under the conditions a command meets before it takes it; exec_keeps and step_keeps
carry the predicate through every command and every step. -/

namespace Sys2Proof.Machine

/-! ### The three shapes of a command -/

theorem request_ready {code seq : Byte} {act : Option (State → Verdict)} {s : State} (h : s.linkReady = true) :
    request code seq act s =
      .next (match act with
        | some f => s.plantHunting.decide code seq (f s.plantHunting)
        | none => s.plantHunting.answer code seq (.refused .badRequest)) := by
  unfold request
  rw [if_pos h]
  cases act <;> rfl

/-- A request on a busy line, or one that finds the module without power or its line ignored. -/
theorem request_unready {code seq : Byte} {act : Option (State → Verdict)} {s : State} (h : s.linkReady = false) :
    request code seq act s =
      .next (if s.powered && s.inHand.isSome then s.busyFrame else s) := by
  unfold request
  rw [if_neg (by simp [h])]
  split <;> simp_all

theorem decide_skel (s : State) (code seq : Byte) (v : Verdict) :
    (s.decide code seq v).skel = (v.after.getD s).skel := by
  unfold State.decide
  cases v.after <;> simp

theorem request_skel {code seq : Byte} {act : Option (State → Verdict)} {s t : State}
    (h : request code seq act s = .next t) :
    t.skel = s.skel ∨
      ∃ f u, act = some f ∧ (f s.plantHunting).after = some u ∧ t.skel = u.skel := by
  cases hr : s.linkReady
  · rw [request_unready hr] at h
    left
    injection h with h
    rw [← h]
    split <;> simp
  · rw [request_ready hr] at h
    injection h with h
    cases act with
    | none => left; rw [← h]; simp
    | some f =>
      cases ha : (f s.plantHunting).after with
      | none => left; rw [← h]; simp [decide_skel, ha]
      | some u => right; exact ⟨f, u, rfl, ha, by rw [← h]; simp [decide_skel, ha]⟩

theorem finishTelegram_skel (s : State) (c : Console) (k : ResultSource) (e : Effect) :
    (s.finishTelegram c k e).skel = (e.1.getD s).skel := by
  unfold State.finishTelegram
  cases e.1 <;> simp

theorem panelTelegram_skel {c : Console} {k : ResultSource} {act : State → Effect} {s t : State}
    (h : panelTelegram c k act s = .next t) :
    t.skel = s.skel ∨
      ∃ u, s.linkUp c = true ∧ (act (s.portHunting c)).1 = some u ∧ t.skel = u.skel := by
  unfold panelTelegram at h
  split at h
  · dsimp only at h
    split at h
    · next hu =>
      injection h with h
      cases ha : (act (s.portHunting c)).1 with
      | none => left; rw [← h, finishTelegram_skel, ha]; simp
      | some u => right; exact ⟨u, hu, rfl, by rw [← h, finishTelegram_skel, ha]; simp⟩
    · injection h with h; left; rw [← h]; simp
  · injection h with h; left; rw [← h]

theorem timed_skel {s t u : State} {due : Bool} (h : timed s due u = .next t) :
    t.skel = s.skel ∨ due = true ∧ t.skel = u.skel := by
  unfold timed at h
  split at h
  · next hd => injection h with h; right; exact ⟨by simp at hd; exact hd.2, by rw [← h]; simp⟩
  · injection h with h; left; rw [h]

/-! ### Verdicts and effects that keep a predicate -/

def Verdict.keeps (P : State → Prop) (v : Verdict) : Prop := ∀ u, v.after = some u → P u

def Effect.keeps (P : State → Prop) (e : Effect) : Prop := ∀ u, e.1 = some u → P u

section Keeps

variable {P : State → Prop}

@[simp] theorem Verdict.keeps_refuse (r : Reason) : (Verdict.refuse r).keeps P := by
  intro u h; cases h

@[simp] theorem Verdict.keeps_unchanged (d : List Byte) : (Verdict.unchanged d).keeps P := by
  intro u h; cases h

theorem Verdict.keeps_accept {t : State} {d : List Byte} (h : P t) : (Verdict.accept t d).keeps P := by
  intro u hu; cases hu; exact h

theorem Verdict.keeps_check {r : Result} {v : Verdict} (h : r = none → v.keeps P) : (Verdict.check r v).keeps P := by
  cases r with
  | none => exact h rfl
  | some x => exact Verdict.keeps_refuse x

theorem Effect.keeps_verdict {e : Effect} (d : List Byte) (h : e.keeps P) : (e.verdict d).keeps P := h

@[simp] theorem Effect.keeps_refuse (r : Reason) : (Effect.refuse r).keeps P := by
  intro u h; cases h

theorem Effect.keeps_accept {t : State} (h : P t) : (Effect.accept t).keeps P := by
  intro u hu; cases hu; exact h

theorem Effect.keeps_after {e : Effect} {s : State} (h : e.keeps P) (hs : P s) : P (e.after s) := by
  unfold Effect.after
  cases he : e.1 with
  | none => exact hs
  | some u => exact h u he

end Keeps

theorem firstRefusal_none {l : List (Bool × Reason)} : firstRefusal l = none ↔ ∀ x ∈ l, x.1 = true := by
  induction l with
  | nil => simp [firstRefusal]
  | cons x xs ih =>
    obtain ⟨b, r⟩ := x
    unfold firstRefusal
    cases b <;> simp [ih]

/-! ### The operations behind the commands -/

/-- A predicate that the skeleton decides, and that every operation behind a command keeps. -/
structure OpsKeep (P : State → Prop) : Prop where
  skel : ∀ {s t : State}, t.skel = s.skel → P s → P t
  raise : ∀ {s : State} (p : Point) (k : Cause), P s → (s.raisePoint p k).keeps P
  clear : ∀ {s : State} (p : Point), P s → (s.clearPoint p).keeps P
  point : ∀ {s : State} (c : Console) (o : Option Operator) (p : Point) (n : PointConfig),
    P s → s.pointWriteRefusal c o p n.corrected = none → P (s.setPoint p n.corrected)
  lineConfig : ∀ {s : State} (l : Line) (n : LineConfig), P s → P (s.setLineConfig l n)
  acknowledge : ∀ {s : State} {i : Slot} {r : Record} (o : Operator),
    P s → s.live[i] = some r → r.unacknowledged = true → P (s.acknowledge i r o)
  silence : ∀ {s : State} (c : Console), P s → P (s.mapRecords (s.silenced c))
  removal : ∀ {s : State} {i : Slot} {r : Record}, P s → s.live[i] = some r → P (s.removeAndFill i r)
  removals : ∀ {s : State} (c : Console) (o : Operator), P s → P (s.removeAll (s.resettable c o))
  shelve : ∀ {s : State} {i : Slot} {r : Record} (o : Operator) (t : Nat),
    P s → s.live[i] = some r → r.state = .raisedUnack ∨ r.state = .acked → P (s.setSlot i (some (r.shelve o t)))
  endShelf : ∀ {s : State} {i : Slot} {r : Record},
    P s → s.live[i] = some r → r.state = .shelved → P (s.endShelf i r)
  remind : ∀ {s : State} {i : Slot} {r : Record},
    P s → s.live[i] = some r → r.escalates = true → P (s.setSlot i (some r.remind))
  escalate : ∀ {s : State} {i : Slot} {r : Record},
    P s → s.live[i] = some r → r.escalates = true → P (s.setSlot i (some r.escalate))
  levels : ∀ {s : State} (a : Area) (k h r : Level), P s → P (s.setArea a fun _ => (s.cfg.areas[a]).withLevels k h r)
  move : ∀ {s : State} (c : Console) (o : Option Operator) (a : Area) (x y : Option Console),
    P s → s.moveRefusal c o a x y = none → P (s.moveArea a x y)
  roster : ∀ {s : State} (c : Console) (o named : Option Operator) (b : Badge) (g : Vector Level 12) (e : Option Nat)
    (slot : Operator), P s → b ≠ 0 → s.rosterWriteRefusal c o named b g e = none → s.rosterSlot named = some slot →
    P (s.setRoster slot (some (rosterRecord (s.rosterTarget named) b g e)))
  status : ∀ {s : State} (o : Operator), P s → P (s.setStatus o .active)
  retire : ∀ {s : State} (o : Operator), P s → s.placeOf o = .none → P ((s.setRoster o none).dropAuthor o)
  abort : ∀ {s : State} (c : Console) (x : HandoverOutcome), P s → P (s.abortHandover c x)
  sessionEnd : ∀ {s : State} (c : Console) (x : EndCause),
    P s → s.handovers[c].phase.active = false → P (s.endSession c x)
  leave : ∀ {s : State} (c : Console) (x : EndCause), P s → s.ownedAreas c = [] → P (s.endSession c x)
  graceEnd : ∀ {s : State} (c : Console) (x : EndCause),
    P s → s.consoles[c].session.graceEnd ≠ none → P (s.endSession c x)
  suspend : ∀ {s : State} (o : Operator), P s → P (s.suspend o)
  seconds : ∀ {s : State} (c : Console), P s → P (s.secondsEnd c)
  failed : ∀ {s : State} (c : Console) (t : Nat), P s → P (s.failWindow c t)
  bringUp : ∀ {s : State} (c : Console), P s → s.consoles[c].link ≠ .off → P (s.bringUp c)
  success : ∀ {s : State} (c : Console) (w : Window), P s →
    ¬(s.consoles[c].count ≤ 1 ∧ s.linkUp c = false) →
    P (s.setConsole c fun k => { k with count := k.count - 1, link := k.link.withWindow w })
  horn : ∀ {s : State} (c : Console) (b : Bool), P s → P (s.hornReport c b)
  signIn : ∀ {s : State} (c : Console) (o : Operator) (r : OperatorRecord),
    P s → s.linkUp c = true → s.consoles[c].session.inCharge = none → s.cfg.roster[o] = some r →
    s.badgeRefusal c o r = none → P (s.signIn c o)
  comeIn : ∀ {s : State} (c : Console) (o p : Operator) (d : Nat) (l : List Item) (r : OperatorRecord),
    P s → s.linkUp c = true → s.consoles[c].session.inCharge ≠ some o → s.handovers[c].phase = .offered p d l →
    s.cfg.roster[o] = some r → s.badgeRefusal c o r = none → P (s.comeIn c o)
  restart : ∀ {s : State} (c : Console), P s → s.consoles[c].link ≠ .off → P (s.restartPort c)
  enable : ∀ {s : State} (c : Console) (b : Bool), P s → s.cfg.enabled[c] ≠ b →
    (b = true ∨ s.consoles[c].session.inCharge = none) → P (s.setEnabled c b)
  enterNote : ∀ {s : State} (n : Note) (o : Option Operator) (a : Area) (k : NoteKind) (x : List Byte),
    P s → s.lowestFreeNote = some n → x ≠ [] → P (s.putNote n (s.newNote o a k x))
  clearNote : ∀ {s : State} (n : Note), P s → P (s.emptyNote n)
  offer : ∀ {s : State} (c : Console) (o : Operator), P s → s.attachedAt c = some o →
    s.handovers[c].phase.active = false → s.offerRefusal c = none → P (s.offer c o)
  seen : ∀ {s : State} (c : Console) (x : ItemRef), P s → P (s.markSeen c x)
  accept : ∀ {s : State} (c : Console) (o i : Operator) (t : Nat) (l : List Item), P s →
    s.handovers[c].phase = .review o i t l → P (s.acceptDesk c o i)
  params : ∀ {s : State} (w : Parameter) (x y : Nat) (p : Params), P s → s.cfg.params.write w x y = some p →
    P (s.takeParams w p)
  storeWrite : ∀ {s : State}, P s → P s.storeWrite
  later : ∀ {s : State}, P s → P { s with partTime := s.partTime + 1 }
  unpowered : ∀ {s : State} (b : Bool), P s → P (s.unpowered b)
  cold : ∀ {s : State} (b : Bool), P s → P (s.started (s.store.cutOff b))

/-! ### From a command to its operation -/

section Carry

variable {P : State → Prop}

theorem OpsKeep.same {s t : State} (hP : OpsKeep P) (hs : P s) (h : t.skel = s.skel) : P t := hP.skel h hs

theorem request_keeps {code seq : Byte} {act : Option (State → Verdict)} {s t : State} (hP : OpsKeep P) (hs : P s)
    (ha : ∀ f, act = some f → ∀ u, P u → (f u).keeps P) (h : request code seq act s = .next t) : P t := by
  rcases request_skel h with e | ⟨f, u, hf, hu, e⟩
  · exact hP.skel e hs
  · exact hP.skel e (ha f hf s.plantHunting (hP.skel (skel_plantHunting s) hs) u hu)

theorem panel_keeps {c : Console} {k : ResultSource} {act : State → Effect} {s t : State} (hP : OpsKeep P) (hs : P s)
    (ha : ∀ u, P u → u.linkUp c = true → (act u).keeps P) (h : panelTelegram c k act s = .next t) : P t := by
  rcases panelTelegram_skel h with e | ⟨u, hu, hf, e⟩
  · exact hP.skel e hs
  · have e' := skel_portHunting s c
    exact hP.skel e (ha (s.portHunting c) (hP.skel e' hs) (by rw [skel_linkUp e']; exact hu) u hf)

theorem timed_keeps {s t u : State} {due : Bool} (hP : OpsKeep P) (hs : P s) (ha : due = true → P u)
    (h : timed s due u = .next t) : P t := by
  rcases timed_skel h with e | ⟨hd, e⟩
  · exact hP.skel e hs
  · exact hP.skel e (ha hd)

theorem settle_keeps {s u : State} {x : Option Console} (hP : OpsKeep P) (hu : P u) : P (settle s u x) :=
  hP.skel (skel_settle s u x) hu

theorem read_keeps {α : Type} {code seq : Byte} {field : Option α} {data : State → α → List Byte} {s t : State}
    (hP : OpsKeep P) (hs : P s) (h : readOf code seq field data s = .next t) : P t := by
  refine request_keeps hP hs ?_ h
  intro f hf u _
  cases field with
  | none => cases hf
  | some x => cases hf; simp

theorem namedRecord_keeps {s : State} {c : Console} {o : Operator} {p : Point} {own : Result}
    {suits : PointStatus → Result} {config : PointConfig → Result} {required : AreaConfig → Level}
    {act : Slot → Record → Verdict}
    (h : ∀ i r, s.find p = some (i, r) → suits (.live r.state) = none → (act i r).keeps P) :
    (s.namedRecord c o p own suits config required act).keeps P := by
  unfold State.namedRecord
  refine Verdict.keeps_check fun _ => Verdict.keeps_check fun _ => Verdict.keeps_check fun hst =>
    Verdict.keeps_check fun _ => Verdict.keeps_check fun _ => ?_
  cases hf : s.find p with
  | none => simp
  | some x =>
    obtain ⟨i, r⟩ := x
    refine Verdict.keeps_check fun _ => h i r hf ?_
    have hs : s.statusOf p = .live r.state := by simp [State.statusOf, State.recordOf, hf]
    rw [← hs]; exact hst

theorem lineEvent_keeps {s : State} (hP : OpsKeep P) (hs : P s) (p : Point) (x : LineState) : P (s.lineEvent p x) := by
  cases x
  · exact Effect.keeps_after (hP.clear p hs) hs
  · exact Effect.keeps_after (hP.raise p .alarm hs) hs
  · exact Effect.keeps_after (hP.raise p .lineFault hs) hs

theorem bindingRaise_keeps {s : State} (hP : OpsKeep P) (hs : P s) (p : Point) (x y : PointUse) :
    P (s.bindingRaise p x y) := by
  unfold State.bindingRaise
  split
  · split
    · exact hs
    · split
      · exact hs
      · exact lineEvent_keeps hP hs p _
  · exact hs

theorem markAll_keeps {s : State} (hP : OpsKeep P) (hs : P s) (l : List Ref) : P (s.markAll l) :=
  hP.skel (skel_markAll s l) hs

theorem storeWrite_keeps {s : State} (hP : OpsKeep P) (hs : P s) : P s.storeWrite :=
  hP.storeWrite hs

theorem requalify_keeps {s : State} (hP : OpsKeep P) (hs : P s) (l : List Console) : P (s.requalify l) :=
  hP.skel (skel_requalify s l) hs

end Carry

/-! ### Every command -/

section Commands

variable {P : State → Prop} {s t : State}

/-- Open the decoding of a request's fields: what is left is the verdict on the decoded fields. -/
theorem person_act {f : State → Verdict} {w : Acting} {α : Type} {d : Option α} {k : Console × Operator → α → State → Verdict}
    (h : (do let w ← decodePerson w; let p ← d; pure (k w p)) = some f) : ∃ w p, f = k w p := by
  simp only [bind, Option.bind_eq_some_iff, pure, Option.some.injEq] at h
  obtain ⟨w, -, p, -, rfl⟩ := h
  exact ⟨w, p, rfl⟩

theorem engineer_act {f : State → Verdict} {w : Acting} {α : Type} {d : Option α}
    {k : Console × Option Operator → α → State → Verdict}
    (h : (do let w ← decodeEngineer w; let p ← d; pure (k w p)) = some f) : ∃ w p, f = k w p := by
  simp only [bind, Option.bind_eq_some_iff, pure, Option.some.injEq] at h
  obtain ⟨w, -, p, -, rfl⟩ := h
  exact ⟨w, p, rfl⟩

theorem find_live {s : State} {p : Point} {i : Slot} {r : Record} (h : s.find p = some (i, r)) :
    s.live[i] = some r := (find_some h).1

theorem ackChoice_live {s : State} {c : Console} {o : Operator} {i : Slot} {r : Record}
    (h : s.ackChoice c o = some (i, r)) : s.live[i] = some r ∧ r.unacknowledged = true := by
  have key : ∀ (l : List Slot) (best : Option (Slot × Record)),
      (∀ j q, best = some (j, q) → s.live[j] = some q ∧ q.unacknowledged = true) →
      ∀ j q, l.foldl (fun b i => betterCandidate (s.ackCandidate c o) b (i, s.live[i])) best = some (j, q) →
        s.live[j] = some q ∧ q.unacknowledged = true := by
    intro l
    induction l with
    | nil => intro best hb; exact hb
    | cons x xs ih =>
      intro best hb
      apply ih
      intro j q hj
      dsimp only [betterCandidate] at hj
      split at hj
      · exact hb j q hj
      · next r hr =>
        split at hj
        · next hc =>
          have hu : r.unacknowledged = true := by
            simp [State.ackCandidate, Record.waitsAt] at hc; exact hc.1.1.2
          split at hj
          · split at hj
            · cases hj; exact ⟨hr, hu⟩
            · exact hb j q hj
          · cases hj; exact ⟨hr, hu⟩
        · exact hb j q hj
  exact key _ none (by simp) i r h

theorem onNamedPoint_keeps {code seq : Byte} {who : Acting} {point : Byte}
    {decided : Console → Operator → Point → State → Verdict} (hP : OpsKeep P) (hs : P s)
    (hd : ∀ c o p u, P u → (decided c o p u).keeps P) (h : onNamedPoint code seq who point decided s = .next t) :
    P t := by
  refine request_keeps hP hs ?_ h
  intro f hf u hu
  obtain ⟨w, p, rfl⟩ := person_act (k := fun w p s => decided w.1 w.2 p s) hf
  exact hd _ _ _ u hu

theorem onPerson_keeps {code seq : Byte} {who : Acting} {decided : Console → Operator → State → Verdict}
    (hP : OpsKeep P) (hs : P s) (hd : ∀ c o u, P u → (decided c o u).keeps P)
    (h : onPerson code seq who decided s = .next t) : P t := by
  refine request_keeps hP hs ?_ h
  intro f hf u hu
  simp only [Option.map_eq_some_iff] at hf
  obtain ⟨w, -, rfl⟩ := hf
  exact hd _ _ u hu

theorem onRosterSlot_keeps {code seq : Byte} {who : Acting} {slot : Byte}
    {decided : Console → Option Operator → Operator → State → Verdict} (hP : OpsKeep P) (hs : P s)
    (hd : ∀ c o n u, P u → (decided c o n u).keeps P) (h : onRosterSlot code seq who slot decided s = .next t) :
    P t := by
  refine request_keeps hP hs ?_ h
  intro f hf u hu
  obtain ⟨w, p, rfl⟩ := engineer_act (k := fun w n s => decided w.1 w.2 n s) hf
  exact hd _ _ _ u hu

theorem execBandChange_keeps {l : Line} {x : Nat} (hP : OpsKeep P) (hs : P s)
    (h : execBandChange l x s = .next t) : P t := by
  unfold execBandChange at h
  dsimp only at h
  split at h <;> injection h with h <;> subst h
  · exact settle_keeps hP (hP.same hs rfl)
  · exact hP.same hs rfl

theorem execQualificationDeadline_keeps {l : Line} (hP : OpsKeep P) (hs : P s)
    (h : execQualificationDeadline l s = .next t) : P t := by
  refine timed_keeps hP hs (fun _ => ?_) h
  unfold State.qualify
  have ht : P (s.setLine l fun x => { x with qualified := s.lines[l].candidate }) := hP.same hs rfl
  dsimp only
  split
  · exact lineEvent_keeps hP ht _ _
  · exact ht

theorem execBlankEnd_keeps {g : Group} (hP : OpsKeep P) (hs : P s) (h : execBlankEnd g s = .next t) : P t := by
  unfold execBlankEnd at h
  split at h <;> injection h with h <;> subst h
  · exact hP.same hs rfl
  · exact hs

theorem execRaise_keeps {q p : Byte} (hP : OpsKeep P) (hs : P s) (h : execRaise q p s = .next t) : P t := by
  refine request_keeps hP hs ?_ h
  intro f hf u hu
  simp only [Option.map_eq_some_iff] at hf
  obtain ⟨x, -, rfl⟩ := hf
  dsimp only
  split
  · simp
  · simp
  · exact Effect.keeps_verdict _ (hP.raise x .alarm hu)

theorem execClear_keeps {q p : Byte} (hP : OpsKeep P) (hs : P s) (h : execClear q p s = .next t) : P t := by
  refine request_keeps hP hs ?_ h
  intro f hf u hu
  simp only [Option.map_eq_some_iff] at hf
  obtain ⟨x, -, rfl⟩ := hf
  dsimp only
  split
  · simp
  · simp
  · exact Effect.keeps_verdict _ (hP.clear x hu)

theorem execPointWrite_keeps {q : Byte} {w : Acting} {p x1 x2 x3 x4 x5 x6 : Byte} {m : Half} (hP : OpsKeep P)
    (hs : P s) (h : execPointWrite q w p x1 x2 x3 x4 x5 x6 m s = .next t) : P t := by
  refine request_keeps hP hs ?_ h
  intro f hf u hu
  simp only [bind, Option.bind_eq_some_iff, pure, Option.some.injEq] at hf
  obtain ⟨w, -, p, -, n, -, rfl⟩ := hf
  refine Verdict.keeps_check fun hc => ?_
  split
  · simp
  · exact Verdict.keeps_accept
      (storeWrite_keeps hP (bindingRaise_keeps hP (markAll_keeps hP (hP.point w.1 w.2 p n hu hc) _) _ _ _))

theorem execLineWrite_keeps {q : Byte} {w : Acting} {l x1 x2 x3 x4 : Byte} (hP : OpsKeep P)
    (hs : P s) (h : execLineWrite q w l x1 x2 x3 x4 s = .next t) : P t := by
  refine request_keeps hP hs ?_ h
  intro f hf u hu
  simp only [bind, Option.bind_eq_some_iff, pure, Option.some.injEq] at hf
  obtain ⟨w, -, l, -, n, -, rfl⟩ := hf
  refine Verdict.keeps_check fun hc => ?_
  split
  · simp
  · refine Verdict.keeps_accept (storeWrite_keeps hP (markAll_keeps hP ?_ _))
    exact hP.same (hP.lineConfig l n hu) rfl

theorem execBlankGroup_keeps {q : Byte} {w : Acting} {g : Byte} (hP : OpsKeep P)
    (hs : P s) (h : execBlankGroup q w g s = .next t) : P t := by
  refine request_keeps hP hs ?_ h
  intro f hf u hu
  obtain ⟨w, g, rfl⟩ := engineer_act (k := fun w g s => s.blankGroup w.1 w.2 g) hf
  refine Verdict.keeps_check fun hc => Verdict.keeps_accept ?_
  refine hP.same hu ?_
  simp [State.blank, State.skel]

theorem execAck_keeps {q : Byte} {w : Acting} {p : Byte} (hP : OpsKeep P) (hs : P s)
    (h : execAck q w p s = .next t) : P t := by
  refine onNamedPoint_keeps hP hs ?_ h
  intro c o p u hu
  refine namedRecord_keeps fun i r hf hst => Verdict.keeps_accept (hP.acknowledge o hu (find_live hf) ?_)
  cases hr : r.state <;> simp_all [ackSuits, Record.unacknowledged]

theorem execAckKey_keeps {c : Console} (hP : OpsKeep P) (hs : P s) (h : execAckKey c s = .next t) : P t := by
  refine panel_keeps hP hs ?_ h
  intro u hu _
  unfold State.ackKey
  split
  · simp
  · split
    · next hc => exact Effect.keeps_accept (hP.acknowledge _ hu (ackChoice_live hc).1 (ackChoice_live hc).2)
    · simp

theorem execSilenceKey_keeps {c : Console} (hP : OpsKeep P) (hs : P s) (h : execSilenceKey c s = .next t) : P t := by
  refine panel_keeps hP hs ?_ h
  intro u hu _
  unfold State.silenceKey
  split
  · simp
  · split
    · exact Effect.keeps_accept (hP.silence c hu)
    · simp

theorem execResetKey_keeps {c : Console} (hP : OpsKeep P) (hs : P s) (h : execResetKey c s = .next t) : P t := by
  refine panel_keeps hP hs ?_ h
  intro u hu _
  unfold State.resetKey
  split
  · simp
  · next o _ =>
    split
    · intro v hv
      dsimp only at hv
      split at hv
      · cases hv
      · cases hv; exact hP.removals c o hu
    · simp

theorem execResetHeld_keeps {q : Byte} {w : Acting} {p : Byte} (hP : OpsKeep P) (hs : P s)
    (h : execResetHeld q w p s = .next t) : P t := by
  refine onNamedPoint_keeps hP hs ?_ h
  intro c o p u hu
  exact namedRecord_keeps fun i r hf _ => Verdict.keeps_accept (hP.removal hu (find_live hf))

theorem execShelve_keeps {q : Byte} {w : Acting} {p : Byte} {m : Half} (hP : OpsKeep P) (hs : P s)
    (h : execShelve q w p m s = .next t) : P t := by
  refine onNamedPoint_keeps hP hs ?_ h
  intro c o p u hu
  refine namedRecord_keeps fun i r hf hst => Verdict.keeps_accept (hP.shelve o _ hu (find_live hf) ?_)
  cases hr : r.state <;> simp_all [shelveSuits]

theorem execUnshelve_keeps {q : Byte} {w : Acting} {p : Byte} (hP : OpsKeep P) (hs : P s)
    (h : execUnshelve q w p s = .next t) : P t := by
  refine onNamedPoint_keeps hP hs ?_ h
  intro c o p u hu
  refine namedRecord_keeps fun i r hf hst => Verdict.keeps_accept (hP.endShelf hu (find_live hf) ?_)
  cases hr : r.state <;> simp_all [unshelveSuits]

theorem execShelfExpiry_keeps {p : Point} (hP : OpsKeep P) (hs : P s) (h : execShelfExpiry p s = .next t) : P t := by
  unfold execShelfExpiry at h
  split at h
  · next i r hf =>
    exact timed_keeps hP hs (fun hd => hP.endShelf hs (find_live hf) (by simp at hd; exact hd.1)) h
  · injection h with h; subst h; exact hs

theorem reached_some {n : Nat} {x : Option Nat} (h : reached n x = true) : ∃ t, x = some t ∧ t ≤ n := by
  cases x with
  | none => cases h
  | some t => exact ⟨t, rfl, by simpa [reached] using h⟩

theorem execReminderDeadline_keeps {p : Point} (hP : OpsKeep P) (hs : P s)
    (h : execReminderDeadline p s = .next t) : P t := by
  unfold execReminderDeadline at h
  split at h
  · next i r hf =>
    refine timed_keeps hP hs (fun hd => hP.remind hs (find_live hf) ?_) h
    obtain ⟨x, hx, -⟩ := reached_some hd
    unfold reminderDeadline at hx
    split at hx
    · next hc => simp at hc; exact hc.1.1
    · cases hx
  · injection h with h; subst h; exact hs

theorem execEscalationDeadline_keeps {p : Point} (hP : OpsKeep P) (hs : P s)
    (h : execEscalationDeadline p s = .next t) : P t := by
  unfold execEscalationDeadline at h
  split at h
  · next i r hf =>
    refine timed_keeps hP hs (fun hd => hP.escalate hs (find_live hf) ?_) h
    obtain ⟨x, hx, -⟩ := reached_some hd
    unfold escalationDeadline at hx
    split at hx
    · next hc => simp at hc; exact hc.1.1
    · cases hx
  · injection h with h; subst h; exact hs

theorem execAreaWrite_keeps {q : Byte} {w : Acting} {a x1 x2 x3 : Byte} (hP : OpsKeep P)
    (hs : P s) (h : execAreaWrite q w a x1 x2 x3 s = .next t) : P t := by
  refine request_keeps hP hs ?_ h
  intro f hf u hu
  simp only [bind, Option.bind_eq_some_iff, pure, Option.some.injEq] at hf
  obtain ⟨w, -, a, -, k, -, l, -, r, -, rfl⟩ := hf
  refine Verdict.keeps_check fun hc => ?_
  split
  · simp
  · exact Verdict.keeps_accept (storeWrite_keeps hP (markAll_keeps hP (hP.levels a k l r hu) _))

theorem execMoveArea_keeps {q : Byte} {w : Acting} {a x1 x2 : Byte} (hP : OpsKeep P)
    (hs : P s) (h : execMoveArea q w a x1 x2 s = .next t) : P t := by
  refine request_keeps hP hs ?_ h
  intro f hf u hu
  simp only [bind, Option.bind_eq_some_iff, pure, Option.some.injEq] at hf
  obtain ⟨w, -, a, -, x, -, y, -, rfl⟩ := hf
  refine Verdict.keeps_check fun hc => ?_
  split
  · simp
  · exact Verdict.keeps_accept (hP.move w.1 w.2 a x y hu hc)

theorem execSetDay_keeps {q : Byte} {d : Half} (hP : OpsKeep P) (hs : P s) (h : execSetDay q d s = .next t) : P t := by
  refine request_keeps hP hs ?_ h
  intro f hf u hu
  cases hf
  dsimp only
  split
  · simp
  · split
    · simp
    · refine Verdict.keeps_accept (requalify_keeps hP (markAll_keeps hP ?_ _) _)
      exact hP.same hu rfl

theorem execRosterWrite_keeps {q : Byte} {w : Acting} {n : Byte} {b : Badge} {g : Vector Byte 12} {e : Half}
    (hP : OpsKeep P) (hs : P s) (h : execRosterWrite q w n b g e s = .next t) : P t := by
  refine request_keeps hP hs ?_ h
  intro f hf u hu
  simp only [bind, Option.bind_eq_some_iff, pure, Option.some.injEq] at hf
  obtain ⟨w, -, n, -, b', hb, g, -, rfl⟩ := hf
  have hb' : b' ≠ 0 := by
    unfold decodeBadge at hb
    split at hb
    · cases hb
    · cases hb; assumption
  refine Verdict.keeps_check fun hc => ?_
  split
  · next slot hslot =>
    split
    · simp
    · exact Verdict.keeps_accept (storeWrite_keeps hP (requalify_keeps hP (markAll_keeps hP
        (hP.roster w.1 w.2 n b' g _ slot hu hb' hc hslot) _) _))
  · simp

theorem execRosterSuspend_keeps {q : Byte} {w : Acting} {n : Byte} (hP : OpsKeep P) (hs : P s)
    (h : execRosterSuspend q w n s = .next t) : P t := by
  refine onRosterSlot_keeps hP hs ?_ h
  intro c o n u hu
  exact Verdict.keeps_check fun _ => Verdict.keeps_accept (hP.suspend n hu)

theorem execRosterRestore_keeps {q : Byte} {w : Acting} {n : Byte} (hP : OpsKeep P) (hs : P s)
    (h : execRosterRestore q w n s = .next t) : P t := by
  refine onRosterSlot_keeps hP hs ?_ h
  intro c o n u hu
  exact Verdict.keeps_check fun _ => Verdict.keeps_accept
    (storeWrite_keeps hP (markAll_keeps hP (hP.status n hu) _))

theorem execRosterRetire_keeps {q : Byte} {w : Acting} {n : Byte} (hP : OpsKeep P) (hs : P s)
    (h : execRosterRetire q w n s = .next t) : P t := by
  refine onRosterSlot_keeps hP hs ?_ h
  intro c o n u hu
  refine Verdict.keeps_check fun hc => Verdict.keeps_accept
    (storeWrite_keeps hP (markAll_keeps hP (hP.retire n hu ?_) _))
  simpa using firstRefusal_none.mp hc (u.placeOf n == .none, .inSession) (by simp)

theorem execSecondsEnd_keeps {c : Console} (hP : OpsKeep P) (hs : P s) (h : execSecondsEnd c s = .next t) : P t :=
  timed_keeps hP hs (fun _ => hP.seconds c hs) h

theorem execWindowEnd_keeps {c : Console} (hP : OpsKeep P) (hs : P s) (h : execWindowEnd c s = .next t) : P t := by
  unfold execWindowEnd at h
  split at h
  · exact timed_keeps hP hs (fun _ => hP.failed c _ hs) h
  · injection h with h; subst h; exact hs

theorem heartbeat_keeps {c : Console} {x : Bool} (hP : OpsKeep P) (hs : P s) : P (s.heartbeat c x).1 := by
  have hw : ∀ w, s.consoles[c].link = .up w ∨ s.consoles[c].link = .lost w → P (s.successWindow c) := by
    intro w hl
    unfold State.successWindow
    dsimp only
    split
    · refine hP.bringUp c hs ?_
      rcases hl with hl | hl <;> rw [hl] <;> simp
    · next hn => exact hP.success c _ hs (by simpa [State.linkUp] using hn)
  unfold State.heartbeat
  split
  · exact hs
  · next hl => exact hP.horn c x (hP.bringUp c hs (by rw [hl]; simp))
  · next w hl =>
    split
    · exact hP.horn c x (hP.failed c _ hs)
    · exact hP.horn c x (hw w (.inl hl))
  · next w hl =>
    split
    · exact hP.horn c x (hP.failed c _ hs)
    · exact hP.horn c x (hw w (.inr hl))

theorem execHeartbeat_keeps {c : Console} {x : Byte} (hP : OpsKeep P) (hs : P s)
    (h : execHeartbeat c x s = .next t) : P t := by
  unfold execHeartbeat at h
  split at h
  · injection h with h
    subst h
    exact settle_keeps hP (heartbeat_keeps hP (hP.skel (skel_portHunting s c) hs))
  · injection h with h; subst h; exact hs

theorem execTelegramSent_keeps {c : Console} (hP : OpsKeep P) (hs : P s)
    (h : execTelegramSent c s = .next t) : P t := by
  unfold execTelegramSent at h
  split at h
  · injection h with h
    subst h
    refine hP.skel (skel_setConsole s c _ fun k => ?_) hs
    unfold ConsoleRecord.telegramSent
    split
    · rfl
    · split <;> rfl
  · injection h with h; subst h; exact hs

theorem execUndefinedTelegram_keeps {c : Console} {b : List Byte} (hP : OpsKeep P) (hs : P s)
    (h : execUndefinedTelegram c b s = .next t) : P t := by
  unfold execUndefinedTelegram at h
  split at h
  · exact panel_keeps hP hs (fun u _ _ => by simp) h
  · injection h with h; subst h; exact hs

/-- The holder of a badge is an occupied slot with that badge (R116). -/
theorem holderOf_some {n : Badge} {o : Operator} {r : OperatorRecord} (h : s.holderOf n = some (o, r)) :
    s.cfg.roster[o] = some r ∧ r.badge = n := by
  unfold State.holderOf at h
  split at h
  · cases h
  · obtain ⟨q, -, hq⟩ := List.exists_of_findSome?_eq_some h
    split at hq
    · next x hx =>
      split at hq
      · next hb => cases hq; exact ⟨hx, hb⟩
      · cases hq
    · cases hq

theorem badgeStep_keeps {c : Console} {n : Badge} {f : Operator → State}
    (hf : ∀ o r, s.cfg.roster[o] = some r → r.badge = n → s.badgeRefusal c o r = none → P (f o)) :
    (s.badgeStep c n f).keeps P := by
  unfold State.badgeStep
  split
  · simp
  · next hh =>
    split
    · simp
    · next hr => exact Effect.keeps_accept (hf _ _ (holderOf_some hh).1 (holderOf_some hh).2 hr)

theorem execBadge_keeps {c : Console} {n : Badge} (hP : OpsKeep P) (hs : P s) (h : execBadge c n s = .next t) :
    P t := by
  refine panel_keeps hP hs ?_ h
  intro u hu hl
  unfold State.badge
  split
  · next hn => exact badgeStep_keeps fun o r hh _ hr => hP.signIn c o r hu hl hn hh hr
  · next q hq =>
    split
    · simp
    · next hb =>
      split
      · next hp =>
        refine badgeStep_keeps fun o r hh hn hr => hP.comeIn c o _ _ _ r hu hl ?_ hp hh hr
        intro he
        rw [hq] at he
        cases he
        exact hb (by simp [State.isBadgeOf, hh, hn])
      · simp

theorem execSignOutKey_keeps {c : Console} (hP : OpsKeep P) (hs : P s) (h : execSignOutKey c s = .next t) : P t := by
  refine panel_keeps hP hs ?_ h
  intro u hu _
  unfold State.signOutKey
  split
  · exact Effect.keeps_accept (hP.abort c _ hu)
  · split
    · simp
    · split
      · next he => exact Effect.keeps_accept (hP.leave c _ hu (by simpa using he))
      · simp

theorem firstRefusal_one {b : Bool} {r : Reason} (h : firstRefusal [(b, r)] = none) : b = true := by
  simpa using firstRefusal_none.mp h

theorem execSignOut_keeps {q : Byte} {w : Acting} (hP : OpsKeep P) (hs : P s) (h : execSignOut q w s = .next t) :
    P t := by
  refine onPerson_keeps hP hs ?_ h
  intro c o u hu
  unfold State.signOut
  split
  · exact Verdict.keeps_accept (hP.abort c _ hu)
  · exact Verdict.keeps_check fun _ => Verdict.keeps_check fun he =>
      Verdict.keeps_accept (hP.leave c _ hu (by simpa using firstRefusal_one he))

theorem abortHandover_inactive (s : State) (c : Console) (x : HandoverOutcome) :
    (s.abortHandover c x).handovers[c].phase.active = false := by
  unfold State.abortHandover
  split
  · next h => rw [h]; rfl
  · simp [Phase.active]

theorem execForceSignOut_keeps {q : Byte} {w : Acting} {d : Byte} (hP : OpsKeep P) (hs : P s)
    (h : execForceSignOut q w d s = .next t) : P t := by
  refine request_keeps hP hs ?_ h
  intro f hf u hu
  obtain ⟨w, d, rfl⟩ := person_act (k := fun w d s => s.forceSignOut w.1 w.2 d) hf
  exact Verdict.keeps_check fun _ => Verdict.keeps_accept
    (hP.sessionEnd d _ (hP.abort d _ hu) (abortHandover_inactive u d _))

theorem execGraceEnd_keeps {c : Console} (hP : OpsKeep P) (hs : P s) (h : execGraceEnd c s = .next t) : P t := by
  refine timed_keeps hP hs (fun hd => hP.graceEnd c _ hs ?_) h
  obtain ⟨x, hx, -⟩ := reached_some hd
  rw [hx]; simp

theorem execPortRestart_keeps {q : Byte} {w : Acting} {d : Byte} (hP : OpsKeep P) (hs : P s)
    (h : execPortRestart q w d s = .next t) : P t := by
  refine request_keeps hP hs ?_ h
  intro f hf u hu
  obtain ⟨w, d, rfl⟩ := engineer_act (k := fun w d s => s.portRestart w.1 w.2 d) hf
  refine Verdict.keeps_check fun hc => Verdict.keeps_accept (hP.restart d hu ?_)
  have hl := firstRefusal_none.mp hc (u.consoles[d].link != .off, .wrongState) (by simp)
  simpa using hl

theorem execPortEnable_keeps {q : Byte} {w : Acting} {d x : Byte} (hP : OpsKeep P) (hs : P s)
    (h : execPortEnable q w d x s = .next t) : P t := by
  refine request_keeps hP hs ?_ h
  intro f hf u hu
  simp only [bind, Option.bind_eq_some_iff, pure, Option.some.injEq] at hf
  obtain ⟨w, -, d, -, b, -, rfl⟩ := hf
  refine Verdict.keeps_check fun _ => ?_
  split
  · simp
  · next hne =>
    refine Verdict.keeps_check fun hc => Verdict.keeps_accept (hP.enable d b hu hne ?_)
    have := firstRefusal_one hc
    cases b <;> simp_all

theorem execNoteEnter_keeps {q : Byte} {w : Acting} {a k : Byte} {x : List Byte} (hP : OpsKeep P) (hs : P s)
    (h : execNoteEnter q w a k x s = .next t) : P t := by
  refine request_keeps hP hs ?_ h
  intro f hf u hu
  simp only [bind, Option.bind_eq_some_iff, pure, Option.some.injEq] at hf
  obtain ⟨w, -, a, -, k, -, x, -, rfl⟩ := hf
  refine Verdict.keeps_check fun _ => Verdict.keeps_check fun _ => Verdict.keeps_check fun hx => ?_
  split
  · simp
  · next hn => exact Verdict.keeps_accept (hP.enterNote _ _ _ _ _ hu hn (by simpa using firstRefusal_one hx))

theorem execNoteClear_keeps {q : Byte} {w : Acting} {n : Byte} (hP : OpsKeep P) (hs : P s)
    (h : execNoteClear q w n s = .next t) : P t := by
  refine request_keeps hP hs ?_ h
  intro f hf u hu
  obtain ⟨w, n, rfl⟩ := engineer_act (k := fun w n s => s.clearNote w.1 w.2 n) hf
  refine Verdict.keeps_check fun _ => ?_
  split
  · simp
  · exact Verdict.keeps_check fun _ => Verdict.keeps_accept (hP.clearNote _ hu)

theorem execHandoverKey_keeps {c : Console} (hP : OpsKeep P) (hs : P s) (h : execHandoverKey c s = .next t) : P t := by
  refine panel_keeps hP hs ?_ h
  intro u hu _
  unfold State.handoverKey
  split
  · simp
  · next o ho =>
    split
    · exact Effect.keeps_accept (hP.abort c _ hu)
    · next ha =>
      split
      · simp
      · next hr => exact Effect.keeps_accept (hP.offer c o hu ho (by simpa using ha) hr)

theorem pairRefusal_none {s : State} {c : Console} {o : Operator} (h : s.pairRefusal c o = none) :
    s.attachedAt c = some o := by
  unfold State.pairRefusal at h
  split at h
  · cases h
  · next p hp =>
    split at h
    · next e => rw [hp, e]
    · cases h

theorem execHandoverOffer_keeps {q : Byte} {w : Acting} (hP : OpsKeep P) (hs : P s)
    (h : execHandoverOffer q w s = .next t) : P t := by
  refine onPerson_keeps hP hs ?_ h
  intro c o u hu
  refine Verdict.keeps_check fun hp => Verdict.keeps_check fun ha => Verdict.keeps_check fun hr =>
    Verdict.keeps_accept (hP.offer c o hu (pairRefusal_none hp) ?_ hr)
  simpa using firstRefusal_one ha

theorem execHandoverWithdraw_keeps {q : Byte} {w : Acting} (hP : OpsKeep P) (hs : P s)
    (h : execHandoverWithdraw q w s = .next t) : P t := by
  refine onPerson_keeps hP hs ?_ h
  intro c o u hu
  exact Verdict.keeps_check fun _ => Verdict.keeps_check fun _ => Verdict.keeps_accept (hP.abort c _ hu)

theorem execOfferDeadline_keeps {c : Console} (hP : OpsKeep P) (hs : P s)
    (h : execOfferDeadline c s = .next t) : P t := by
  unfold execOfferDeadline at h
  split at h
  · exact timed_keeps hP hs (fun _ => hP.abort c _ hs) h
  · injection h with h; subst h; exact hs

theorem execReviewDeadline_keeps {c : Console} (hP : OpsKeep P) (hs : P s)
    (h : execReviewDeadline c s = .next t) : P t := by
  unfold execReviewDeadline at h
  split at h
  · exact timed_keeps hP hs (fun _ => hP.abort c _ hs) h
  · injection h with h; subst h; exact hs

theorem execSeenKey_keeps {c : Console} (hP : OpsKeep P) (hs : P s) (h : execSeenKey c s = .next t) : P t := by
  refine panel_keeps hP hs ?_ h
  intro u hu _
  unfold State.seenKey
  split
  · split
    · exact Effect.keeps_accept (hP.seen c _ hu)
    · simp
  · simp

theorem execHandoverSeen_keeps {q : Byte} {w : Acting} {k n : Byte} (hP : OpsKeep P) (hs : P s)
    (h : execHandoverSeen q w k n s = .next t) : P t := by
  refine request_keeps hP hs ?_ h
  intro f hf u hu
  obtain ⟨w, r, rfl⟩ := person_act (k := fun w r s => s.seenNamed w.1 w.2 r) hf
  exact Verdict.keeps_check fun _ => Verdict.keeps_accept (hP.seen _ _ hu)

theorem execAcceptKey_keeps {c : Console} (hP : OpsKeep P) (hs : P s) (h : execAcceptKey c s = .next t) : P t := by
  refine panel_keeps hP hs ?_ h
  intro u hu _
  unfold State.acceptKey
  split
  · next hp =>
    split
    · simp
    · exact Effect.keeps_accept (hP.accept c _ _ _ _ hu hp)
  · simp

theorem execHandoverAccept_keeps {q : Byte} {w : Acting} (hP : OpsKeep P) (hs : P s)
    (h : execHandoverAccept q w s = .next t) : P t := by
  refine onPerson_keeps hP hs ?_ h
  intro c o u hu
  unfold State.acceptNamed
  split
  · next hp => exact Verdict.keeps_check fun _ => Verdict.keeps_check fun _ => Verdict.keeps_accept (hP.accept c _ _ _ _ hu hp)
  · simp

theorem execParamWrite_keeps {q : Byte} {w : Acting} {p : Byte} {x y : Half} (hP : OpsKeep P) (hs : P s)
    (h : execParamWrite q w p x y s = .next t) : P t := by
  refine request_keeps hP hs ?_ h
  intro f hf u hu
  obtain ⟨w, p, rfl⟩ := engineer_act (k := fun w p s => s.writeParam w.1 w.2 p x.toNat y.toNat) hf
  refine Verdict.keeps_check fun _ => ?_
  split
  · simp
  · next n hn =>
    split
    · simp
    · exact Verdict.keeps_accept (storeWrite_keeps hP (hP.params _ _ _ _ hu hn))

theorem execUndefinedRequest_keeps {b : List Byte} (hP : OpsKeep P) (hs : P s)
    (h : execUndefinedRequest b s = .next t) : P t := by
  unfold execUndefinedRequest at h
  split at h
  · injection h with h; subst h; exact hs
  · exact request_keeps hP hs (fun f hf => by cases hf) h

/-- The steps of the frame receivers and of the exchange leave the skeleton alone. -/
theorem link_skel (h : (∃ rx k, execFrameStart rx k s = .next t) ∨ (∃ rx b, execFrameDiscarded rx b s = .next t) ∨
    (∃ rx k, execFrameTime rx k s = .next t) ∨ execBusyDiscard s = .next t ∨ (∃ rx, execIdleEndGap rx s = .next t) ∨
    execAnswerSent s = .next t) : t.skel = s.skel := by
  rcases h with ⟨rx, k, h⟩ | ⟨rx, k, h⟩ | ⟨rx, k, h⟩ | h | ⟨rx, h⟩ | h
  · unfold execFrameStart at h
    repeat' split at h
    all_goals (injection h with h; subst h; simp)
  · unfold execFrameDiscarded at h
    repeat' split at h
    all_goals (injection h with h; subst h; simp)
  · unfold execFrameTime at h
    repeat' split at h
    all_goals (injection h with h; subst h; simp)
  · unfold execBusyDiscard at h
    split at h
    all_goals (injection h with h; subst h; simp)
  · unfold execIdleEndGap at h
    split at h
    all_goals (injection h with h; subst h; simp)
  · unfold execAnswerSent at h
    split at h
    all_goals (injection h with h; subst h; simp)

theorem execReadChanges_keeps {q : Byte} (hP : OpsKeep P) (hs : P s) (h : execReadChanges q s = .next t) : P t := by
  unfold execReadChanges at h
  split at h
  · injection h with h
    subst h
    refine hP.skel ?_ hs
    rw [skel_answer]
    unfold State.takeChanges
    split
    · split <;> rfl
    · rfl
  · exact request_keeps hP hs (fun f hf => by cases hf) h

/-- A predicate that the operations keep is kept by every command that answers a next state. -/
theorem exec_keeps (hP : OpsKeep P) {i : Instr} (hs : P s) (h : exec i s = .next t) : P t := by
  cases i with
  | coldStart m => injection h with h; subst h; exact hP.cold m hs
  | powerLoss m => injection h with h; subst h; exact hP.unpowered m hs
  | bandChange _ _ => exact execBandChange_keeps hP hs h
  | qualificationDeadline _ => exact execQualificationDeadline_keeps hP hs h
  | blankEnd _ => exact execBlankEnd_keeps hP hs h
  | shelfExpiry _ => exact execShelfExpiry_keeps hP hs h
  | reminderDeadline _ => exact execReminderDeadline_keeps hP hs h
  | escalationDeadline _ => exact execEscalationDeadline_keeps hP hs h
  | secondsEnd _ => exact execSecondsEnd_keeps hP hs h
  | windowEnd _ => exact execWindowEnd_keeps hP hs h
  | graceEnd _ => exact execGraceEnd_keeps hP hs h
  | offerDeadline _ => exact execOfferDeadline_keeps hP hs h
  | reviewDeadline _ => exact execReviewDeadline_keeps hP hs h
  | frameDiscarded rx b => exact hP.skel (link_skel (.inr (.inl ⟨rx, b, h⟩))) hs
  | frameTime rx k => exact hP.skel (link_skel (.inr (.inr (.inl ⟨rx, k, h⟩)))) hs
  | busyDiscard => exact hP.skel (link_skel (.inr (.inr (.inr (.inl h))))) hs
  | undefinedRequest _ => exact execUndefinedRequest_keeps hP hs h
  | telegramSent _ => exact execTelegramSent_keeps hP hs h
  | heartbeat _ _ => exact execHeartbeat_keeps hP hs h
  | undefinedTelegram _ _ => exact execUndefinedTelegram_keeps hP hs h
  | ackKey _ => exact execAckKey_keeps hP hs h
  | silenceKey _ => exact execSilenceKey_keeps hP hs h
  | resetKey _ => exact execResetKey_keeps hP hs h
  | handoverKey _ => exact execHandoverKey_keeps hP hs h
  | seenKey _ => exact execSeenKey_keeps hP hs h
  | acceptKey _ => exact execAcceptKey_keeps hP hs h
  | signOutKey _ => exact execSignOutKey_keeps hP hs h
  | badge _ _ => exact execBadge_keeps hP hs h
  | raise _ _ => exact execRaise_keeps hP hs h
  | clear _ _ => exact execClear_keeps hP hs h
  | ack _ _ _ => exact execAck_keeps hP hs h
  | resetHeld _ _ _ => exact execResetHeld_keeps hP hs h
  | shelve _ _ _ _ => exact execShelve_keeps hP hs h
  | unshelve _ _ _ => exact execUnshelve_keeps hP hs h
  | pointWrite _ _ _ _ _ _ _ _ _ _ => exact execPointWrite_keeps hP hs h
  | lineWrite _ _ _ _ _ _ _ => exact execLineWrite_keeps hP hs h
  | blankGroup _ _ _ => exact execBlankGroup_keeps hP hs h
  | readLine _ _ => exact read_keeps hP hs h
  | areaWrite _ _ _ _ _ _ => exact execAreaWrite_keeps hP hs h
  | moveArea _ _ _ _ _ => exact execMoveArea_keeps hP hs h
  | readArea _ _ => exact read_keeps hP hs h
  | readRecord _ _ => exact read_keeps hP hs h
  | readPoint _ _ => exact read_keeps hP hs h
  | setDay _ _ => exact execSetDay_keeps hP hs h
  | rosterWrite _ _ _ _ _ _ => exact execRosterWrite_keeps hP hs h
  | rosterSuspend _ _ _ => exact execRosterSuspend_keeps hP hs h
  | rosterRestore _ _ _ => exact execRosterRestore_keeps hP hs h
  | rosterRetire _ _ _ => exact execRosterRetire_keeps hP hs h
  | readOperator _ _ => exact read_keeps hP hs h
  | signOut _ _ => exact execSignOut_keeps hP hs h
  | forceSignOut _ _ _ => exact execForceSignOut_keeps hP hs h
  | portRestart _ _ _ => exact execPortRestart_keeps hP hs h
  | portEnable _ _ _ _ => exact execPortEnable_keeps hP hs h
  | readConsole _ _ => exact read_keeps hP hs h
  | noteEnter _ _ _ _ _ => exact execNoteEnter_keeps hP hs h
  | noteClear _ _ _ => exact execNoteClear_keeps hP hs h
  | readNote _ _ => exact read_keeps hP hs h
  | handoverOffer _ _ => exact execHandoverOffer_keeps hP hs h
  | handoverSeen _ _ _ _ => exact execHandoverSeen_keeps hP hs h
  | handoverAccept _ _ => exact execHandoverAccept_keeps hP hs h
  | handoverWithdraw _ _ => exact execHandoverWithdraw_keeps hP hs h
  | readHandover _ _ _ => exact read_keeps hP hs h
  | readChanges _ => exact execReadChanges_keeps hP hs h
  | readStatus q => exact read_keeps (field := some ()) (data := fun s _ => s.statusData) hP hs h
  | paramWrite _ _ _ _ _ => exact execParamWrite_keeps hP hs h
  | readParam _ _ => exact read_keeps hP hs h
  | frameStart rx k => exact hP.skel (link_skel (.inl ⟨rx, k, h⟩)) hs
  | idleEndGap rx => exact hP.skel (link_skel (.inr (.inr (.inr (.inr (.inl ⟨rx, h⟩)))))) hs
  | answerSent => exact hP.skel (link_skel (.inr (.inr (.inr (.inr (.inr h)))))) hs

/-- A predicate that the operations keep is kept by every step that answers a next state. -/
theorem step_keeps (hP : OpsKeep P) (hs : P s) (h : step s = .next t) : P t := by
  unfold step at h
  split at h
  · injection h with h
    subst h
    unfold State.tick
    split
    · exact hs
    · split
      · exact hP.same hs rfl
      · exact hP.same (hP.later hs) rfl
  · next c rest _ =>
    have hr : P { s with pending := rest } := hP.same hs rfl
    exact exec_keeps hP hr h

end Commands

end Sys2Proof.Machine
end

