-- ==== Sys2Proof/Laws/PerInstr.lean ====
section
/-! SUPPORT. Per command: the body of a well-formed request fits a frame, whose LENGTH is one byte (R180). -/

namespace Sys2Proof.Laws.FitsAFrame

/-- The body of a well-formed request is at most 255 bytes long. -/
def Statement (i : Instr) : Prop :=
  ∀ body, encodeBody i = some body → i.wf = true → body.length ≤ 255

/-- A body of a length that its code alone decides. -/
theorem of_length {i : Instr} {l : List Byte} (h : encodeBody i = some l) (hl : l.length ≤ 255) : Statement i := by
  intro body hb _
  rw [h] at hb
  injection hb with hb
  exact hb ▸ hl

/-- A step that is no request has no body. -/
theorem of_none {i : Instr} (h : encodeBody i = none) : Statement i := by
  intro body hb
  rw [h] at hb
  cases hb

theorem coldStart (midWrite : Bool) : Statement (.coldStart midWrite) := of_none rfl

theorem bandChange (line : Line) (ohms : Nat) : Statement (.bandChange line ohms) := of_none rfl

theorem qualificationDeadline (line : Line) : Statement (.qualificationDeadline line) := of_none rfl

theorem blankEnd (group : Group) : Statement (.blankEnd group) := of_none rfl

theorem shelfExpiry (point : Point) : Statement (.shelfExpiry point) := of_none rfl

theorem reminderDeadline (point : Point) : Statement (.reminderDeadline point) := of_none rfl

theorem escalationDeadline (point : Point) : Statement (.escalationDeadline point) := of_none rfl

theorem secondsEnd (console : Console) : Statement (.secondsEnd console) := of_none rfl

theorem windowEnd (console : Console) : Statement (.windowEnd console) := of_none rfl

theorem graceEnd (console : Console) : Statement (.graceEnd console) := of_none rfl

theorem offerDeadline (console : Console) : Statement (.offerDeadline console) := of_none rfl

theorem reviewDeadline (console : Console) : Statement (.reviewDeadline console) := of_none rfl

theorem frameDiscarded (rx : Rx) (bytes : List Byte) : Statement (.frameDiscarded rx bytes) := of_none rfl

theorem frameTime (rx : Rx) (clock : Nat) : Statement (.frameTime rx clock) := of_none rfl

theorem busyDiscard : Statement (.busyDiscard) := of_none rfl

theorem undefinedRequest (body : List Byte) : Statement (.undefinedRequest body) := of_none rfl

theorem telegramSent (console : Console) : Statement (.telegramSent console) := of_none rfl

theorem heartbeat (console : Console) (report : Byte) : Statement (.heartbeat console report) := of_none rfl

theorem undefinedTelegram (console : Console) (body : List Byte) :
    Statement (.undefinedTelegram console body) := of_none rfl

theorem ackKey (console : Console) : Statement (.ackKey console) := of_none rfl

theorem silenceKey (console : Console) : Statement (.silenceKey console) := of_none rfl

theorem resetKey (console : Console) : Statement (.resetKey console) := of_none rfl

theorem handoverKey (console : Console) : Statement (.handoverKey console) := of_none rfl

theorem seenKey (console : Console) : Statement (.seenKey console) := of_none rfl

theorem acceptKey (console : Console) : Statement (.acceptKey console) := of_none rfl

theorem signOutKey (console : Console) : Statement (.signOutKey console) := of_none rfl

theorem badge (console : Console) (number : Badge) : Statement (.badge console number) := of_none rfl

theorem raise (seq point : Byte) : Statement (.raise seq point) := of_length rfl (by simp)

theorem clear (seq point : Byte) : Statement (.clear seq point) := of_length rfl (by simp)

theorem ack (seq : Byte) (who : Acting) (point : Byte) : Statement (.ack seq who point) := of_length rfl (by simp)

theorem resetHeld (seq : Byte) (who : Acting) (point : Byte) :
    Statement (.resetHeld seq who point) := of_length rfl (by simp)

theorem shelve (seq : Byte) (who : Acting) (point : Byte) (minutes : Half) :
    Statement (.shelve seq who point minutes) := of_length rfl (by simp [Bytes.ofHalf])

theorem unshelve (seq : Byte) (who : Acting) (point : Byte) :
    Statement (.unshelve seq who point) := of_length rfl (by simp)

theorem pointWrite (seq : Byte) (who : Acting) (point use line area priority cls shelvable : Byte) (maxShelf : Half) :
    Statement (.pointWrite seq who point use line area priority cls shelvable maxShelf) := of_length rfl (by simp [Bytes.ofHalf])

theorem lineWrite (seq : Byte) (who : Acting) (line sense supervised filter group : Byte) :
    Statement (.lineWrite seq who line sense supervised filter group) := of_length rfl (by simp)

theorem blankGroup (seq : Byte) (who : Acting) (group : Byte) :
    Statement (.blankGroup seq who group) := of_length rfl (by simp)

theorem readLine (seq line : Byte) : Statement (.readLine seq line) := of_length rfl (by simp)

theorem areaWrite (seq : Byte) (who : Acting) (area ackLevel shelveLevel resetLevel : Byte) :
    Statement (.areaWrite seq who area ackLevel shelveLevel resetLevel) := of_length rfl (by simp)

theorem moveArea (seq : Byte) (who : Acting) (area owner fallback : Byte) :
    Statement (.moveArea seq who area owner fallback) := of_length rfl (by simp)

theorem readArea (seq area : Byte) : Statement (.readArea seq area) := of_length rfl (by simp)

theorem readRecord (seq slot : Byte) : Statement (.readRecord seq slot) := of_length rfl (by simp)

theorem readPoint (seq point : Byte) : Statement (.readPoint seq point) := of_length rfl (by simp)

theorem setDay (seq : Byte) (day : Half) : Statement (.setDay seq day) := of_length rfl (by simp [Bytes.ofHalf])

theorem rosterWrite (seq : Byte) (who : Acting) (slot : Byte) (badge : Badge) (grants : Vector Byte 12) (expiry : Half) :
    Statement (.rosterWrite seq who slot badge grants expiry) := of_length rfl (by simp [Bytes.ofBadge, Bytes.ofHalf])

theorem rosterSuspend (seq : Byte) (who : Acting) (slot : Byte) :
    Statement (.rosterSuspend seq who slot) := of_length rfl (by simp)

theorem rosterRestore (seq : Byte) (who : Acting) (slot : Byte) :
    Statement (.rosterRestore seq who slot) := of_length rfl (by simp)

theorem rosterRetire (seq : Byte) (who : Acting) (slot : Byte) :
    Statement (.rosterRetire seq who slot) := of_length rfl (by simp)

theorem readOperator (seq slot : Byte) : Statement (.readOperator seq slot) := of_length rfl (by simp)

theorem signOut (seq : Byte) (who : Acting) : Statement (.signOut seq who) := of_length rfl (by simp)

theorem forceSignOut (seq : Byte) (who : Acting) (target : Byte) :
    Statement (.forceSignOut seq who target) := of_length rfl (by simp)

theorem portRestart (seq : Byte) (who : Acting) (console : Byte) :
    Statement (.portRestart seq who console) := of_length rfl (by simp)

theorem portEnable (seq : Byte) (who : Acting) (console setting : Byte) :
    Statement (.portEnable seq who console setting) := of_length rfl (by simp)

theorem readConsole (seq console : Byte) : Statement (.readConsole seq console) := of_length rfl (by simp)

theorem noteEnter (seq : Byte) (who : Acting) (area kind : Byte) (text : List Byte) : Statement (.noteEnter seq who area kind text) := by
  intro body hb hw
  injection hb with hb
  subst hb
  simp [Instr.wf] at hw
  simp
  omega

theorem noteClear (seq : Byte) (who : Acting) (note : Byte) :
    Statement (.noteClear seq who note) := of_length rfl (by simp)

theorem readNote (seq note : Byte) : Statement (.readNote seq note) := of_length rfl (by simp)

theorem handoverOffer (seq : Byte) (who : Acting) : Statement (.handoverOffer seq who) := of_length rfl (by simp)

theorem handoverSeen (seq : Byte) (who : Acting) (kind number : Byte) :
    Statement (.handoverSeen seq who kind number) := of_length rfl (by simp)

theorem handoverAccept (seq : Byte) (who : Acting) : Statement (.handoverAccept seq who) := of_length rfl (by simp)

theorem handoverWithdraw (seq : Byte) (who : Acting) :
    Statement (.handoverWithdraw seq who) := of_length rfl (by simp)

theorem readHandover (seq console page : Byte) :
    Statement (.readHandover seq console page) := of_length rfl (by simp)

theorem readChanges (seq : Byte) : Statement (.readChanges seq) := of_length rfl (by simp)

theorem readStatus (seq : Byte) : Statement (.readStatus seq) := of_length rfl (by simp)

theorem paramWrite (seq : Byte) (who : Acting) (parameter : Byte) (first second : Half) :
    Statement (.paramWrite seq who parameter first second) := of_length rfl (by simp [Bytes.ofHalf])

theorem readParam (seq parameter : Byte) : Statement (.readParam seq parameter) := of_length rfl (by simp)

theorem frameStart (rx : Rx) (clock : Nat) : Statement (.frameStart rx clock) := of_none rfl

theorem idleEndGap (rx : Rx) : Statement (.idleEndGap rx) := of_none rfl

theorem answerSent : Statement (.answerSent) := of_none rfl

theorem powerLoss (midWrite : Bool) : Statement (.powerLoss midWrite) := of_none rfl

end Sys2Proof.Laws.FitsAFrame
end

