-- ==== Sys2Proof/Laws/Requests.lean ====
section
/-! SUPPORT. What taking a request, a key or a timed event does around its own effect: one lemma for each shape, in the terms
that claims use. -/

namespace Sys2Proof.Machine

/-! ### The end gap of a frame moves nothing that a question is answered from -/

section Hunting

variable (s : State) (c : Console)

@[simp] theorem plantHunting_twice : s.plantHunting.plantHunting = s.plantHunting := rfl

end Hunting

/-! ### Parts -/

theorem same_refl (s : State) (p : Part) : s.same s p := by
  cases p <;> simp [State.same, sameAt]

theorem same_trans {s t u : State} {p : Part} (h1 : s.same t p) (h2 : t.same u p) : s.same u p := by
  cases p <;> simp only [State.same, sameAt] at * <;> (try exact h2.trans h1)
  all_goals first
    | exact ⟨h2.1.trans h1.1, h2.2.trans h1.2⟩
    | exact fun c => (h2 c).trans (h1 c)

theorem changesOnly_trans {s t u : State} {l m : List Part} (h1 : changesOnly s t l) (h2 : changesOnly t u m) :
    changesOnly s u (l ++ m) := by
  intro p hp
  simp only [List.mem_append, not_or] at hp
  exact same_trans (h1 p hp.1) (h2 p hp.2)

theorem changesOnly_mono {s t : State} {l m : List Part} (h : changesOnly s t l) (hl : ∀ p ∈ l, p ∈ m) :
    changesOnly s t m := fun p hp => h p fun hq => hp (hl p hq)

theorem compose_other (k : ConsoleRecord) (x : Telegram) :
    ((k.compose x).link, (k.compose x).count, (k.compose x).session, (k.compose x).lastEnd, (k.compose x).hornFault,
      (k.compose x).underQualified, (k.compose x).resultNumber, (k.compose x).lastResult) =
    (k.link, k.count, k.session, k.lastEnd, k.hornFault, k.underQualified, k.resultNumber, k.lastResult) ∧
    ((k.compose x).load, (k.compose x).flooded, (k.compose x).secondSum, (k.compose x).secondTaken,
      (k.compose x).pattern) = (k.load, k.flooded, k.secondSum, k.secondTaken, k.pattern) := by
  unfold ConsoleRecord.compose
  split
  · exact ⟨rfl, rfl⟩
  · exact ⟨rfl, rfl⟩
  · split <;> exact ⟨rfl, rfl⟩

section Compose

variable (k : ConsoleRecord) (x : Telegram)

@[simp] theorem compose_link : (k.compose x).link = k.link := congrArg (·.1) (compose_other k x).1
@[simp] theorem compose_count : (k.compose x).count = k.count := congrArg (·.2.1) (compose_other k x).1
@[simp] theorem compose_session : (k.compose x).session = k.session := congrArg (·.2.2.1) (compose_other k x).1
@[simp] theorem compose_lastEnd : (k.compose x).lastEnd = k.lastEnd := congrArg (·.2.2.2.1) (compose_other k x).1
@[simp] theorem compose_hornFault : (k.compose x).hornFault = k.hornFault :=
  congrArg (·.2.2.2.2.1) (compose_other k x).1
@[simp] theorem compose_underQualified : (k.compose x).underQualified = k.underQualified :=
  congrArg (·.2.2.2.2.2.1) (compose_other k x).1
@[simp] theorem compose_resultNumber : (k.compose x).resultNumber = k.resultNumber :=
  congrArg (·.2.2.2.2.2.2.1) (compose_other k x).1
@[simp] theorem compose_lastResult : (k.compose x).lastResult = k.lastResult :=
  congrArg (·.2.2.2.2.2.2.2) (compose_other k x).1
@[simp] theorem compose_load : (k.compose x).load = k.load := congrArg (·.1) (compose_other k x).2
@[simp] theorem compose_flooded : (k.compose x).flooded = k.flooded := congrArg (·.2.1) (compose_other k x).2
@[simp] theorem compose_secondSum : (k.compose x).secondSum = k.secondSum := congrArg (·.2.2.1) (compose_other k x).2
@[simp] theorem compose_secondTaken : (k.compose x).secondTaken = k.secondTaken :=
  congrArg (·.2.2.2.1) (compose_other k x).2
@[simp] theorem compose_pattern : (k.compose x).pattern = k.pattern := congrArg (·.2.2.2.2) (compose_other k x).2

end Compose

/-- A console record after an event has ended: composed or not, with its horn pattern. -/
theorem settle_console (s t : State) (x : Option Console) (c : Console) :
    (settle s t x).consoles[c.val] =
      if composes s ((t.rehorn.rerelay).markAll (changedRefs s t.rehorn.rerelay)) x c then
        ({ t.consoles[c.val] with pattern := t.patternOf c }).compose
          (((t.rehorn.rerelay).markAll (changedRefs s t.rehorn.rerelay)).telegramOf c)
      else { t.consoles[c.val] with pattern := t.patternOf c } := by
  simp [settle, State.composeAll]

section Settle

variable (s t : State) (x : Option Console) (c : Console)

@[simp] theorem settle_link : ((settle s t x).consoles[c.val]).link = (t.consoles[c.val]).link := by
  rw [settle_console]; split <;> simp
@[simp] theorem settle_count : ((settle s t x).consoles[c.val]).count = (t.consoles[c.val]).count := by
  rw [settle_console]; split <;> simp
@[simp] theorem settle_session : ((settle s t x).consoles[c.val]).session = (t.consoles[c.val]).session := by
  rw [settle_console]; split <;> simp
@[simp] theorem settle_lastEnd : ((settle s t x).consoles[c.val]).lastEnd = (t.consoles[c.val]).lastEnd := by
  rw [settle_console]; split <;> simp
@[simp] theorem settle_hornFault : ((settle s t x).consoles[c.val]).hornFault = (t.consoles[c.val]).hornFault := by
  rw [settle_console]; split <;> simp
@[simp] theorem settle_underQualified :
    ((settle s t x).consoles[c.val]).underQualified = (t.consoles[c.val]).underQualified := by
  rw [settle_console]; split <;> simp
@[simp] theorem settle_resultNumber :
    ((settle s t x).consoles[c.val]).resultNumber = (t.consoles[c.val]).resultNumber := by
  rw [settle_console]; split <;> simp
@[simp] theorem settle_lastResult : ((settle s t x).consoles[c.val]).lastResult = (t.consoles[c.val]).lastResult := by
  rw [settle_console]; split <;> simp
@[simp] theorem settle_load : ((settle s t x).consoles[c.val]).load = (t.consoles[c.val]).load := by
  rw [settle_console]; split <;> simp
@[simp] theorem settle_flooded : ((settle s t x).consoles[c.val]).flooded = (t.consoles[c.val]).flooded := by
  rw [settle_console]; split <;> simp
@[simp] theorem settle_secondSum : ((settle s t x).consoles[c.val]).secondSum = (t.consoles[c.val]).secondSum := by
  rw [settle_console]; split <;> simp
@[simp] theorem settle_secondTaken :
    ((settle s t x).consoles[c.val]).secondTaken = (t.consoles[c.val]).secondTaken := by
  rw [settle_console]; split <;> simp
@[simp] theorem settle_pattern : ((settle s t x).consoles[c.val]).pattern = t.patternOf c := by
  rw [settle_console]; split <;> simp

theorem settle_changeSet : (settle s t x).changeSet = addRefs t.changeSet (changedRefs s t.rehorn.rerelay) := by
  simp [settle]

theorem settle_attention :
    (settle s t x).attention = (t.attention || !(changedRefs s t.rehorn.rerelay).isEmpty) := by
  simp [settle]

end Settle

/-- The end of an event changes the derived parts alone. -/
theorem changesOnly_settle (s t : State) (x : Option Console) : changesOnly t (settle s t x) derivedParts := by
  intro p hp
  cases p <;> simp_all [derivedParts, State.same, sameAt]

theorem changesOnly_answer (s : State) (code seq : Byte) (r : Reply) : changesOnly s (s.answer code seq r) [.exchange] := by
  intro p hp
  cases p <;> simp_all [State.same, sameAt]

theorem changesOnly_plantHunting (s : State) : changesOnly s s.plantHunting [.plantReceiver] := by
  intro p hp
  cases p <;> simp_all [State.same, sameAt]

theorem changesOnly_portHunting (s : State) (c : Console) : changesOnly s (s.portHunting c) [.portReceivers] := by
  intro p hp
  cases p <;> simp_all [State.same, sameAt]

/-! ### Requests -/

theorem linkReady_plantRx {s : State} (h : s.linkReady = true) : s.powered = true ∧ s.inHand = none := by
  simp [State.linkReady] at h
  exact ⟨h.1.1, h.2⟩

/-- A request that is answered without an effect. -/
theorem request_answered {code seq : Byte} {act : Option (State → Verdict)} {s : State} {reply : Reply}
    (h : s.linkReady = true)
    (hv : (match act with
      | some f => f s.plantHunting
      | none => Verdict.refuse .badRequest) = ⟨none, reply⟩) :
    request code seq act s = .next (s.plantHunting.answer code seq reply) := by
  unfold request
  rw [if_pos h]
  cases act with
  | none => injection hv with _ hr; subst hr; rfl
  | some f =>
    dsimp only at hv ⊢
    rw [hv]
    rfl

/-- A request that takes effect. -/
theorem request_accepted {code seq : Byte} {f : State → Verdict} {s u : State} {reply : Reply}
    (h : s.linkReady = true) (hv : f s.plantHunting = ⟨some u, reply⟩) :
    request code seq (some f) s = .next ((settle s.plantHunting u none).answer code seq reply) := by
  unfold request
  rw [if_pos h]
  dsimp only
  rw [hv]
  rfl

theorem onlyAnswered_of (s : State) (code seq : Byte) (reply : Reply) :
    onlyAnswered s (s.plantHunting.answer code seq reply) code seq reply.result reply.data := by
  refine ⟨⟨rfl, rfl⟩, ?_⟩
  exact changesOnly_mono (changesOnly_trans (changesOnly_plantHunting s) (changesOnly_answer _ _ _ _))
    (by simp [linkParts])

theorem answered_settled {s u : State} {code seq : Byte} {reply : Reply}
    (hrx : u.plantRx = { s.plantRx with mode := .hunting }) :
    answered s ((settle s.plantHunting u none).answer code seq reply) code seq reply.result reply.data := by
  refine ⟨by simpa using hrx, ?_⟩
  simp [State.answer]

theorem changesOnly_settled {s u : State} {code seq : Byte} {reply : Reply} {parts : List Part}
    (hu : changesOnly s.plantHunting u parts) :
    changesOnly s ((settle s.plantHunting u none).answer code seq reply) (linkParts ++ derivedParts ++ parts) := by
  refine changesOnly_mono (changesOnly_trans (changesOnly_trans (changesOnly_trans (changesOnly_plantHunting s) hu)
    (changesOnly_settle _ _ _)) (changesOnly_answer _ _ _ _)) ?_
  intro p hp
  simp only [List.mem_append, linkParts, List.mem_cons, List.not_mem_nil, or_false] at *
  tauto

theorem accepted_settled {s u : State} {code seq : Byte} {data : List Byte} {parts : List Part}
    (hrx : u.plantRx = { s.plantRx with mode := .hunting }) (hu : changesOnly s.plantHunting u (derivedParts ++ parts)) :
    accepted s ((settle s.plantHunting u none).answer code seq (.ok data)) code seq data parts := by
  refine ⟨answered_settled hrx, changesOnly_mono (changesOnly_settled hu) ?_⟩
  intro p hp
  simp only [List.mem_append] at *
  tauto

end Sys2Proof.Machine
end

