-- ==== Sys2Proof/Laws/Store.lean ====
section
/-! SUPPORT. What the Settings Store does, said once: the copy a write goes to, what the write leaves, the copy a load takes. -/

namespace Sys2Proof.Machine

/-- The test of two generation numbers follows R188, of two 2^31 apart the free choice (log entry 5). -/
theorem generationHigher_of {x y : BitVec 32} (h : higherThan x y) : generationHigher x y = true := by
  unfold generationHigher
  simp only [Bool.or_eq_true, Bool.and_eq_true, decide_eq_true_eq]
  exact .inl h

theorem generationHigher_not {x y : BitVec 32} (h : higherThan y x) : generationHigher x y = false := by
  unfold higherThan at h
  have e : (x - y).toNat = 4294967296 - (y - x).toNat := by
    have h1 := h.1
    bv_omega
  unfold generationHigher
  generalize (x - y).toNat = n at e
  generalize (y - x).toNat = m at e h
  have h1 : ¬ n ≤ 2147483647 := by omega
  have h2 : n ≠ 2147483648 := by omega
  simp [h1, h2]

theorem generationHigher_self (x : BitVec 32) : generationHigher x x = false := by
  simp [generationHigher]

/-- The copy a write goes to is the one R189 names. -/
theorem target_writesTo (st : Store) : writesTo st st.target := by
  refine ⟨fun h => ?_, fun x h1 h2 => ?_, fun x y h1 h2 => ?_⟩
  · simp [Store.target, h]
  · simp [Store.target, h1, h2]
  · simp only [Store.target, h1, h2]
    refine ⟨fun h => ?_, fun h => ?_, fun h => ?_⟩
    · rw [h, generationHigher_self]; simp
    · rw [generationHigher_not h]; simp
    · rw [generationHigher_of h]; simp

/-- A store write is what R189 says. -/
theorem write_wroteImage (st : Store) (draw : Nat) (m : Settings) : wroteImage st (st.write draw m) draw m := by
  refine ⟨st.target, target_writesTo st, rfl, ?_, fun h => ?_, fun h => ?_⟩
  · cases ht : st.target <;> simp [Store.write, Store.copy, CopyName.other, ht]
  · cases ht : st.target <;> simp [Store.write, Store.copy, ht, h]
  · cases hf : Config.failedWriteKeepsCopy draw <;> cases ht : st.target <;> simp [Store.write, Store.copy, ht, h, hf]

/-- The copy chosen at a load is the one R190 names. -/
theorem chosen_loadsFrom (st : Store) : loadsFrom st st.chosen := by
  refine ⟨fun h => ?_, fun x h1 h2 => ?_, fun x y h1 h2 => ?_⟩
  · simp [Store.chosen, h]
  · simp [Store.chosen, h1, h2]
  · simp only [Store.chosen, h1, h2, newerCopy]
    refine ⟨?_, fun h => ?_, fun h => ?_, fun h => ?_⟩
    · split <;> simp
    · simp [h]
    · simp [generationHigher_of h]
    · have : x.generation ≠ y.generation := by
        intro e; unfold higherThan at h; rw [e] at h; simp at h
      simp [generationHigher_not h, this]

end Sys2Proof.Machine
end

