-- ==== Sys2Proof/Tests/Slice0.lean ====
section
/-! SUPPORT. Tests: the ill-formed terms that the check of well-formedness refuses, bodies and telegrams written out
from chapter 11, numbers the manual works out, one step at a time on a small state, and for every claim with
hypotheses a state and operands that meet them. -/

namespace Sys2Proof.Machine.Tests

-- One theorem at a time: many at once would each hold a thread while the kernel evaluates.
set_option Elab.async false

/-! ### A small plant

Consoles 0 (the supervisor, slot 1), 1 (slot 2) and 2 (nobody) are UP, console 3 is DOWN, console 4 is LOST with slot 5
on grace. Console 1 owns area 0 with console 2 as fallback, console 4 owns area 1. -/

def operator (badge : Nat) (level : Level) : OperatorRecord :=
  { badge := BitVec.ofNat 24 badge, status := .active, grants := Vector.replicate 12 level, expiry := none }

def rosterOf (o : Operator) : Option OperatorRecord :=
  match o.val with
  | 0 => some (operator 100 4)
  | 1 => some (operator 101 3)
  | 2 => some (operator 102 2)
  | 3 => some { operator 103 4 with status := .suspended }
  | 4 => some (operator 104 3)
  | 5 => some { operator 105 2 with expiry := some 812 }
  | _ => none

def pointOf (p : Point) : PointConfig :=
  match p.val with
  | 0 => { PointConfig.default with use := .link, priority := .p2, shelvable := true }
  | 1 => { PointConfig.default with use := .line 0, priority := .p3, cls := .locking }
  | 2 => { PointConfig.default with use := .link, priority := .p1, cls := .held }
  | 3 => { PointConfig.default with use := .link, priority := .p3, cls := .locking }
  | _ => PointConfig.default

def areaOf (a : Area) : AreaConfig :=
  match a.val with
  | 0 => { AreaConfig.default with owner := some 1, fallback := some 2 }
  | 1 => { AreaConfig.default with owner := some 4 }
  | _ => AreaConfig.default

def settings : Settings :=
  { Settings.default with points := Vector.ofFn pointOf, areas := Vector.ofFn areaOf, roster := Vector.ofFn rosterOf }

def window : Window := { start := 990, lockedEnd := 995, finish := 1010 }

def consoleOf (c : Console) : ConsoleRecord :=
  let k := ConsoleRecord.start true
  match c.val with
  | 0 => { k with link := .up window, session := .attached 0 }
  | 1 => { k with link := .up window, session := .attached 1 }
  | 2 => { k with link := .up window }
  | 4 => { k with link := .lost window, count := 1, session := .detached 4 1000 }
  | _ => k

/-- The plant at part time 1000, with the routes, horns and relay that follow from it. -/
def settled (s : State) : State := s.reroute.rehorn.rerelay

def desk : State :=
  settled { State.reset with partTime := 1000, cfg := settings, consoles := Vector.ofFn consoleOf }

/-- A record of point 0, 2 or 3 in slot 0. -/
def record (p : Point) (st : RecordState) (k : Condition) : Record :=
  { desk.freshRecord p .alarm with state := st, condition := k, route := some 1 }

def shelved (k : Condition) : Record :=
  { record 0 .shelved k with shelvedBy := some 0, shelfEnd := some 1000 }

def withRecord (r : Record) : State := settled (desk.setSlot 0 (some r))

/-- Every slot is taken by a record of a high point, and point 3 waits. -/
def full : State :=
  { desk with
    live := Vector.ofFn fun i => some { desk.freshRecord (Fin.ofNat 256 (i.val + 100)) .alarm with priority := .p4 }
    waiting := [desk.freshEntry 3 .alarm] }

def entered (e : Entry) : State := { full with waiting := [e] }

def handover (p : Phase) : State := desk.setPhase 1 p

def items : List Item := [Item.fresh (.alarm 0), Item.fresh (.note 0)]

def seenItems : List Item := items.map fun it => { it with seen := true }

def withNote : State :=
  desk.setNote 0 (some { area := 0, kind := .info, text := [0x41], author := some 1, entryDay := 0 })

/-- The acting pairs of the small plant. -/
def boss : Acting := ⟨0, 1⟩

def lead : Acting := ⟨1, 2⟩

/-- The state after a command. -/
def after (i : Instr) (s : State) : State :=
  match exec i s with
  | .next t => t
  | _ => s

def answers (i : Instr) (s : State) : Bool :=
  match exec i s with
  | .next _ => true
  | _ => false

theorem next_after {i : Instr} {s : State} (h : answers i s = true) : exec i s = .next (after i s) := by
  unfold answers at h
  unfold after
  split at h <;> simp_all

/-! ### Well-formedness: one ill-formed term for each check -/

theorem test_wf_person :
    (Instr.ack 0 ⟨8, 1⟩ 0).wf = false ∧ (Instr.ack 0 ⟨7, 0⟩ 0).wf = false ∧ (Instr.resetHeld 0 ⟨0, 49⟩ 0).wf = false ∧
      (Instr.shelve 0 ⟨8, 1⟩ 0 1).wf = false ∧ (Instr.unshelve 0 ⟨0, 0⟩ 0).wf = false ∧
      (Instr.signOut 0 ⟨8, 1⟩).wf = false ∧ (Instr.handoverOffer 0 ⟨0, 0⟩).wf = false ∧
      (Instr.handoverAccept 0 ⟨0, 49⟩).wf = false ∧ (Instr.handoverWithdraw 0 ⟨9, 1⟩).wf = false := by decide +kernel

theorem test_wf_points_and_lines :
    (Instr.pointWrite 0 ⟨0, 49⟩ 0 0 0 0 1 0 0 1).wf = false ∧ (Instr.pointWrite 0 boss 0 3 0 0 1 0 0 1).wf = false ∧
      (Instr.pointWrite 0 boss 0 1 32 0 1 0 0 1).wf = false ∧ (Instr.pointWrite 0 boss 0 0 0 12 1 0 0 1).wf = false ∧
      (Instr.pointWrite 0 boss 0 0 0 0 0 0 0 1).wf = false ∧ (Instr.pointWrite 0 boss 0 0 0 0 5 0 0 1).wf = false ∧
      (Instr.pointWrite 0 boss 0 0 0 0 1 3 0 1).wf = false ∧ (Instr.pointWrite 0 boss 0 0 0 0 1 0 2 1).wf = false ∧
      (Instr.lineWrite 0 boss 32 0 0 0 0).wf = false ∧ (Instr.lineWrite 0 boss 0 2 0 0 0).wf = false ∧
      (Instr.lineWrite 0 boss 0 0 2 0 0).wf = false ∧ (Instr.lineWrite 0 boss 0 0 0 4 0).wf = false ∧
      (Instr.lineWrite 0 boss 0 0 0 0 4).wf = false ∧ (Instr.blankGroup 0 boss 4).wf = false := by decide +kernel

theorem test_wf_areas_and_roster :
    (Instr.areaWrite 0 boss 12 2 3 2).wf = false ∧ (Instr.areaWrite 0 boss 0 5 3 2).wf = false ∧
      (Instr.areaWrite 0 boss 0 2 5 2).wf = false ∧ (Instr.areaWrite 0 boss 0 2 3 5).wf = false ∧
      (Instr.moveArea 0 boss 12 0 0).wf = false ∧ (Instr.moveArea 0 boss 0 8 0).wf = false ∧
      (Instr.moveArea 0 boss 0 0 254).wf = false ∧
      (Instr.rosterWrite 0 boss 49 1 (Vector.replicate 12 0) 0).wf = false ∧
      (Instr.rosterWrite 0 boss 0 0 (Vector.replicate 12 0) 0).wf = false ∧
      (Instr.rosterWrite 0 boss 0 1 (Vector.replicate 12 5) 0).wf = false ∧
      (Instr.rosterSuspend 0 boss 0).wf = false ∧ (Instr.rosterRestore 0 boss 49).wf = false ∧
      (Instr.rosterRetire 0 ⟨8, 0⟩ 1).wf = false := by decide +kernel

theorem test_wf_the_rest :
    (Instr.forceSignOut 0 boss 8).wf = false ∧ (Instr.portRestart 0 boss 8).wf = false ∧
      (Instr.portEnable 0 boss 8 0).wf = false ∧ (Instr.portEnable 0 boss 0 2).wf = false ∧
      (Instr.noteEnter 0 boss 12 0 [1]).wf = false ∧ (Instr.noteEnter 0 boss 0 2 [1]).wf = false ∧
      (Instr.noteEnter 0 boss 0 0 (List.replicate 250 65)).wf = false ∧ (Instr.noteClear 0 boss 32).wf = false ∧
      (Instr.handoverSeen 0 boss 2 0).wf = false ∧ (Instr.handoverSeen 0 boss 1 32).wf = false ∧
      (Instr.paramWrite 0 boss 15 0 0).wf = false := by decide +kernel

theorem test_wf_reads :
    (Instr.readLine 0 32).wf = false ∧ (Instr.readArea 0 12).wf = false ∧ (Instr.readRecord 0 64).wf = false ∧
      (Instr.readOperator 0 0).wf = false ∧ (Instr.readOperator 0 49).wf = false ∧ (Instr.readConsole 0 8).wf = false ∧
      (Instr.readNote 0 32).wf = false ∧ (Instr.readHandover 0 8 0).wf = false ∧
      (Instr.readHandover 0 0 6).wf = false ∧ (Instr.readParam 0 15).wf = false := by decide +kernel

theorem test_wf_frames :
    (Instr.undefinedRequest [0x04, 7]).wf = false ∧ (Instr.undefinedTelegram 0 [0x02, 0x01]).wf = false ∧
      (Instr.frameDiscarded .plant (Frame.ofBody [0x04, 7]).tail).wf = false := by decide +kernel

/-! ### Bodies, telegrams and frames, written out from chapter 11 -/

/-- The check of "123456789" under the polynomial and the start of R180 is 29B1. -/
theorem test_frame_check :
    Frame.check [0x31, 0x32, 0x33, 0x34, 0x35, 0x36, 0x37, 0x38, 0x39] = 0x29B1#16 := by decide +kernel

theorem test_frame_good :
    Frame.good (Frame.ofBody [0x10, 5, 9]).tail = true ∧ Frame.good [3, 0x10, 5, 9, 0, 0] = false := by decide +kernel

theorem test_decode_plain_bodies :
    decodeBody [0x01, 5, 9] = some (.raise 5 9) ∧ decodeBody [0x02, 5, 9] = some (.clear 5 9) ∧
      decodeBody [0x03, 5, 0x03, 0x2C] = some (.setDay 5 812) ∧ decodeBody [0x04, 5] = some (.readStatus 5) ∧
      decodeBody [0x05, 5] = some (.readChanges 5) ∧ decodeBody [0x17, 5, 3, 1] = some (.readHandover 5 3 1) := by
  decide +kernel

theorem test_decode_acting_bodies :
    decodeBody [0x20, 5, 0, 1, 9, 1, 4, 2, 3, 1, 1, 0x01, 0xE0] = some (.pointWrite 5 boss 9 1 4 2 3 1 1 480) ∧
      decodeBody [0x21, 5, 0, 1, 4, 1, 1, 2, 0xFF] = some (.lineWrite 5 boss 4 1 1 2 0xFF) ∧
      decodeBody [0x22, 5, 0, 1, 4, 2, 3, 2] = some (.areaWrite 5 boss 4 2 3 2) ∧
      decodeBody [0x25, 5, 0, 1, 4, 5, 0, 2, 0x80] = some (.paramWrite 5 boss 4 1280 640) ∧
      decodeBody [0x26, 5, 0, 1, 4, 1] = some (.portEnable 5 boss 4 1) ∧
      decodeBody [0x32, 5, 0, 1, 9, 0, 60] = some (.shelve 5 boss 9 60) ∧
      decodeBody [0x36, 5, 0, 1, 4, 1, 0x41, 0x42] = some (.noteEnter 5 boss 4 1 [0x41, 0x42]) ∧
      decodeBody [0x39, 5, 0, 1, 1, 7] = some (.handoverSeen 5 boss 1 7) := by decide +kernel

theorem test_decode_roster_body :
    decodeBody [0x28, 5, 0, 1, 0, 0x4C, 0x53, 0x75, 0, 0, 0, 0, 2, 3, 0, 0, 0, 0, 0, 0, 3, 0x2C] =
      some (.rosterWrite 5 boss 0 5002101 #v[0, 0, 0, 0, 2, 3, 0, 0, 0, 0, 0, 0] 812) := by decide +kernel

theorem test_decode_undefined :
    decodeBody [] = none ∧ decodeBody [0x07, 5] = none ∧ decodeBody [0x01, 5] = none ∧
      decodeBody [0x3C, 5, 0, 1] = none := by decide +kernel

theorem test_decode_telegrams :
    decodeTelegram 3 [0x01, 1] = .heartbeat 3 1 ∧ decodeTelegram 3 [0x02, 3] = .resetKey 3 ∧
      decodeTelegram 3 [0x03, 0, 0, 101] = .badge 3 101 ∧
      decodeTelegram 3 [0x02, 8] = .undefinedTelegram 3 [0x02, 8] := by decide +kernel

/-- No row of the table has bits. -/
theorem test_table_words : decodeTableWord 8 1 = none ∧ desk.withFetchWord 8 1 = desk := by
  exact ⟨rfl, rfl⟩

/-! ### Numbers the manual works out -/

theorem test_bands :
    bandOf 399 = .short ∧ bandOf 400 = .closed ∧ bandOf 2199 = .closed ∧ bandOf 2200 = .opened ∧
      bandOf 11999 = .opened ∧ bandOf 12000 = .broken := by decide +kernel

/-- 11.4: step 1 of a cadence in the most significant bit. -/
theorem test_cadence_bytes :
    (Pattern.sounding .p1).cadenceByte = 0xDA#8 ∧ (Pattern.sounding .p2).cadenceByte = 0xCC#8 ∧
      (Pattern.sounding .p3).cadenceByte = 0xF0#8 ∧ (Pattern.sounding .p4).cadenceByte = 0x80#8 ∧
      Pattern.silent.cadenceByte = 0#8 := by decide +kernel

/-- R101 at its ends: an idle load stays 0, a load of 1 decays to 0, and a sum past the end saturates. -/
theorem test_second_ends : nextLoad 0 0 = 0 ∧ nextLoad 1 0 = 0 ∧ nextLoad 33 64 = 95 ∧ nextLoad 65535 65535 = 65535 := by
  decide +kernel

/-- R118: the expiry day itself is within the qualification. -/
theorem test_expiry_day :
    ({ desk with day := 812 }).effectiveLevel 5 0 = 2 ∧ ({ desk with day := 813 }).effectiveLevel 5 0 = 1 := by
  decide +kernel

theorem test_stored_off_threshold : floodOffStored 1280 1280 = 640 ∧ floodOffStored 1280 1279 = 1279 := by decide +kernel

/-! ### One step at a time -/

theorem test_raise_admits :
    ((after (.raise 1 0) desk).live[(0 : Slot)]).map (fun r => (r.state, r.route, r.occurrences)) =
      some (.raisedUnack, some 1, 1) := by decide +kernel

theorem test_raise_sounds :
    ((after (.raise 1 0) desk).consoles[(1 : Console)]).pattern = .sounding .p2 := by decide +kernel

theorem test_raise_weighs : ((after (.raise 1 0) desk).consoles[(1 : Console)]).secondSum = 48 := by decide +kernel

theorem test_raise_waits : ((after (.raise 1 0) full).waiting.map Entry.point) = [0, 3] := by decide +kernel

theorem test_clear_fills_from_the_queue :
    (let s := { full with live := full.live.set 0 (some (record 0 .acked .active)) }
     ((after (.clear 1 0) s).live[(0 : Slot)]).map Record.point) = some 3 := by decide +kernel

/-- R54, R183: the RESET key frees two slots; the removals are marked first, then the admissions in queue order. -/
theorem test_admissions_are_marked_in_queue_order :
    (let awaits (p : Point) := some (record p .resetWait .gone)
     let s := { full with
       live := (full.live.set 0 (awaits 0)).set 1 (awaits 2)
       waiting := [full.freshEntry 202 .alarm, full.freshEntry 201 .alarm], changeSet := [] }
     (after (.resetKey 1) s).changeSet.filter fun r => match r with
       | .point _ => true
       | _ => false) = [.point 0, .point 2, .point 202, .point 201] := by decide +kernel

theorem test_ack_key :
    ((after (.ackKey 1) (after (.raise 1 0) desk)).live[(0 : Slot)]).map (fun r => (r.state, r.acknowledgedBy)) =
      some (.acked, some 1) := by decide +kernel

theorem test_link_loss_moves_the_area :
    (let s := desk.setConsole 1 fun k => { k with count := 7 }
     let t := after (.windowEnd 1) { s with partTime := 1010 }
     (t.routes[(0 : Area)], t.consoles[(1 : Console)].session)) = (some 0, .detached 1 2210) := by decide +kernel

/-- A bare module whose console 1 is UP with a P2 record, its flag already no, and whose console 4 is LOST with slot
5 on grace. -/
def bare : State :=
  { State.reset with
    partTime := 1000
    changeSet := []
    live := State.reset.live.set 0 (some (record 0 .raisedUnack .active))
    consoles := (upd State.reset.consoles 1 fun k => { k with link := .up window }).set 4
      { ConsoleRecord.start true with link := .lost window, count := 1, session := .detached 4 1000 } }

/-- R91: a P2 record that is not co-annunciated is marked by the fault's report, whether or not its flag was set. -/
theorem test_horn_fault_marks_the_record :
    ((after (.heartbeat 1 1) bare).changeSet.contains (.point 0),
      (after (.heartbeat 1 1) bare).consoles[(1 : Console)].hornFault) = (true, true) := by decide +kernel

/-- R150 step 5: the end of a session on grace sends a telegram, though nothing on the panel has changed. -/
theorem test_grace_end_sends_a_telegram :
    (after (.graceEnd 4) bare).consoles[(4 : Console)].inFlight = some (bare.telegramOf 4) := by decide +kernel

/-- R193: the answer of PORT_ENABLE repeats the console and the setting. -/
theorem test_port_enable_answers_its_fields :
    ((after (.portEnable 1 boss 7 0) desk).inHand.map Answer.data) = some [7, 0] := by decide +kernel

theorem test_badge_takes_the_desk :
    (let t := after (.badge 2 102) desk
     (t.consoles[(2 : Console)].session, t.consoles[(2 : Console)].resultNumber)) = (.attached 2, 1) := by
  decide +kernel

theorem test_key_without_session :
    (after (.ackKey 2) desk).consoles[(2 : Console)].lastResult = some (.key .ack, some .notStaffed) := by
  decide +kernel

theorem test_area_write_clamps :
    ((after (.areaWrite 1 boss 0 0 0 0) desk).inHand.map Answer.data) = some [0, 2, 3, 2] := by decide +kernel

theorem test_read_line :
    ((after (.readLine 1 0) desk).inHand.map Answer.data) =
      some [0, 1, 1, 1, 0xFF, 0, 1, 1, 0, 0xFF, 0xFF, 0, 0, 0xFF, 0xFF] := by decide +kernel

theorem test_changes_are_read_once :
    ((after (.readChanges 1) State.reset).changeSet, (after (.readChanges 1) State.reset).attention) = ([], false) := by
  decide +kernel

theorem test_cold_start_gives_reset_twice :
    (after (.coldStart false) State.reset).changeSet = State.reset.changeSet := by decide +kernel

/-! ### Witnesses: a state and operands that meet the hypotheses of each claim, one row a clause -/

/-- The small plant with a command at the front of its queue. -/
def asked (i : Instr) (s : State) : State := { s with pending := [i] }

theorem next_asked {i : Instr} {s : State} (h : answers i { s with pending := [] } = true) :
    step (asked i s) = .next (after i { s with pending := [] }) := next_after h

theorem witness_StepRunsTheFrontCommand : (asked (.raise 1 0) desk).pending = .raise 1 0 :: [] := rfl

theorem witness_IdleStepTicks :
    (desk.pending = [] ∧ desk.powered = true ∧ desk.partTime < lastTick) ∧
      ({ desk with partTime := lastTick - 1 }.pending = [] ∧ lastTick - 1 < lastTick) ∧
      ({ desk with partTime := lastTick }.pending = [] ∧ desk.powered = true ∧ lastTick ≤ lastTick) ∧
      ({ desk with powered := false }.pending = [] ∧ { desk with powered := false }.powered = false) := by
  decide +kernel

theorem witness_EveryCommandCompletes : exec (.raise 1 0) desk = .next (after (.raise 1 0) desk) :=
  next_after (by decide +kernel)

theorem witness_EveryChangeIsMarked :
    exec (.raise 1 0) desk = .next (after (.raise 1 0) desk) ∧ (∀ m, Instr.raise 1 0 ≠ .coldStart m) ∧
      Ref.point 0 ∈ changedRefs desk (after (.raise 1 0) desk) ∧
      (after (.raise 1 0) desk).pointData 0 ≠ desk.pointData 0 ∧
      (after (.raise 1 0) desk).areaData 0 ≠ desk.areaData 0 :=
  ⟨next_after (by decide +kernel), by simp, by decide +kernel, by decide +kernel, by decide +kernel⟩

theorem witness_EveryPanelChangeIsSent :
    exec (.raise 1 0) desk = .next (after (.raise 1 0) desk) ∧ (∀ m, Instr.raise 1 0 ≠ .coldStart m) ∧
      (after (.raise 1 0) desk).consoles[(1 : Console)].link ≠ .off ∧
      desk.telegramOf 1 ≠ (after (.raise 1 0) desk).telegramOf 1 ∧
      exec (.graceEnd 4) bare = .next (after (.graceEnd 4) bare) ∧
      bare.consoles[(4 : Console)].session ≠ .none ∧ (after (.graceEnd 4) bare).consoles[(4 : Console)].session = .none :=
  ⟨next_after (by decide +kernel), by simp, by decide +kernel, by decide +kernel, next_after (by decide +kernel),
    by decide +kernel, by decide +kernel⟩

theorem witness_StoredContentsNeedASupervisor :
    exec (.areaWrite 1 boss 0 4 4 4) desk = .next (after (.areaWrite 1 boss 0 4 4 4) desk) ∧
      (∀ m, Instr.areaWrite 1 boss 0 4 4 4 ≠ .coldStart m) ∧ desk.commissioning = false ∧
      (after (.areaWrite 1 boss 0 4 4 4) desk).cfg.areas ≠ desk.cfg.areas :=
  ⟨next_after (by decide +kernel), by simp, by decide +kernel, by decide +kernel⟩

theorem witness_RefusedRequestsChangeNothing :
    let s := withRecord { record 1 .acked .active with cause := .lineFault }
    (encodeBody (.raise 1 9)).isSome = true ∧ s.linkReady = true ∧
      (∀ r ∈ s.records, s.cfg.points[r.point].use = .link → r.cause = .alarm) ∧
      exec (.raise 1 9) s = .next (after (.raise 1 9) s) ∧
      ((after (.raise 1 9) s).inHand.map Answer.result) = some (some .unknownPoint) :=
  ⟨by decide +kernel, by decide +kernel, by decide +kernel, next_after (by decide +kernel), by decide +kernel⟩

theorem witness_BodiesDecodeToTheirRequests :
    encodeBody (.readChanges 5) = some [0x05, 5] ∧
      (encodeBody (.noteEnter 5 boss 0 0 (List.replicate 249 65))).map List.length = some 255 := by decide +kernel

theorem witness_BadRequestsAreRefused :
    (encodeBody (.readLine 5 32) = some [0x12, 5, 32] ∧ (Instr.readLine 5 32).wf = false ∧ desk.linkReady = true) ∧
      (decodeBody [] = none ∧ decodeBody [0x01, 5] = none ∧ desk.linkReady = true) := by decide +kernel

/-- The small plant with the plant link's receiver, and console 1's, in a mode. -/
def receiving (m : RxMode) (d : Nat) : State :=
  { desk with plantRx := { mode := m, clock := 0, discards := d }
              portRx := upd desk.portRx 1 fun _ => { mode := m, clock := 0, discards := d } }

/-- The small plant with a request in hand. -/
def busyDesk : State := after (.readStatus 1) desk

theorem witness_FramesAreReceived_starts :
    (desk.listens .plant = true ∧ desk.lineBusy .plant = false ∧ (desk.receiver .plant).mode = .hunting) ∧
      (desk.listens (.port 1) = true ∧ desk.lineBusy (.port 1) = false ∧
        (desk.receiver (.port 1)).mode = .hunting) := by decide +kernel

theorem witness_FramesAreReceived_discards :
    (desk.listens .plant = true ∧ desk.lineBusy .plant = false ∧ Frame.good [] = false ∧
        (desk.receiver .plant).mode ≠ .ignoring) ∧
      ((receiving (.receiving 0) 65535).listens (.port 1) = true ∧
        ((receiving (.receiving 0) 65535).receiver (.port 1)).mode ≠ .ignoring) := by decide +kernel

theorem witness_FramesAreReceived_ends :
    ((receiving (.receiving 7) 0).listens .plant = true ∧
        ((receiving (.receiving 7) 0).receiver .plant).mode = .receiving 7 ∧ 7 + frameTimeOf .plant ≤ 50007) ∧
      ((receiving (.receiving 7) 0).listens (.port 1) = true ∧
        ((receiving (.receiving 7) 0).receiver (.port 1)).mode = .receiving 7 ∧
        7 + frameTimeOf (.port 1) ≤ 100007) ∧
      ((receiving .ignoring 0).listens (.port 1) = true ∧
        ((receiving .ignoring 0).receiver (.port 1)).mode = .ignoring) ∧
      busyDesk.powered = true := by decide +kernel

theorem witness_FramesAreReceived_busy :
    (busyDesk.powered = true ∧ busyDesk.inHand.isSome = true ∧ (encodeBody (.readStatus 2)).isSome = true) ∧
      (decodeBody [] = none ∧ busyDesk.plantRx.mode = .hunting) ∧
      ({ busyDesk with busy := 65535, plantRx := { busyDesk.plantRx with mode := .ignoring } }.inHand.isSome = true) := by
  decide +kernel

/-! The laws hold of a plant with a sounding record, a flood-held one, one that waits for its reset and an offer. -/

def lawRecords : Vector (Option Record) 64 :=
  ((desk.live.set 0 (some (record 0 .raisedUnack .active))).set 1
    (some { record 3 .raisedUnack .active with floodHeld := true })).set 2 (some (record 2 .resetWait .gone))

def lawDesk : State :=
  asked (.raise 1 0) (settled
    { handover (.offered 1 1500 [Item.fresh (.alarm 0)]) with
      live := lawRecords.map fun x => x.map fun r => { r with route := some 1 }
      consoles := upd desk.consoles 1 fun k => { k with flooded := true, load := 1280, secondSum := 65535 } })

theorem lawDesk_steps : ∃ t, step lawDesk = .next t := ⟨_, next_asked (by decide +kernel)⟩

/-- A record is lawful if its ten decidable parts hold. -/
theorem lawful_of {l : List Record}
    (h : ∀ r ∈ l,
      ((r.state = .raisedUnack ∨ r.state = .acked → r.condition = .active) ∧
        (r.state = .clearedUnack ∨ r.state = .resetWait → r.condition = .gone) ∧
        (r.stage ≠ 0 → r.unacknowledged = true) ∧
        (r.floodHeld = true → r.state = .raisedUnack ∧ r.priority.high = false ∧ r.stage = 0)) ∧
      (r.state = .shelved ↔ r.shelfEnd.isSome = true) ∧ (r.state = .shelved ↔ r.shelvedBy.isSome = true) ∧
        (r.state = .raisedUnack → r.acknowledgedBy = none) ∧ (1 ≤ r.occurrences ∧ r.occurrences ≤ 255) ∧
        (r.cls = .selfClearing → r.state = .raisedUnack ∨ r.state = .acked ∨ r.state = .shelved) ∧
        (r.cls = .locking → r.state ≠ .resetWait)) : ∀ r ∈ l, r.lawful := fun r hr =>
  let ⟨⟨a, b, c, d⟩, e, f, g, i, j, k⟩ := h r hr
  ⟨a, b, c, d, e, f, g, i, j, k⟩

/-- The full plant, where a LOCKING point waits with its condition gone, and a clear lets it in. -/
def waitsGone : State :=
  asked (.clear 1 100) (entered { desk.freshEntry 3 .alarm with condition := .gone, occurrences := 255 })

theorem waitsGone_steps : ∃ t, step waitsGone = .next t := ⟨_, next_asked (by decide +kernel)⟩

theorem witness_StepsKeepRecordsLawful :
    (lawDesk.recordLaw ∧ ∃ t, step lawDesk = .next t) ∧ waitsGone.recordLaw ∧ ∃ t, step waitsGone = .next t :=
  ⟨⟨⟨lawful_of (by decide +kernel), by decide +kernel⟩, lawDesk_steps⟩,
    ⟨lawful_of (by decide +kernel), by decide +kernel⟩, waitsGone_steps⟩

/-- A state keeps the law of the table if its six decidable parts hold. -/
theorem tableLaw_of {s : State}
    (h : (s.records.map Record.point).Nodup ∧ (s.waiting.map Entry.point).Nodup ∧
      (∀ e ∈ s.waiting, ∀ r ∈ s.records, r.point ≠ e.point) ∧ (s.waiting ≠ [] → s.lowestEmpty = none) ∧
      (s.waiting.Pairwise fun x y =>
        x.priority.rank < y.priority.rank ∨ x.priority.rank = y.priority.rank ∧ x.arrival ≤ y.arrival) ∧
      ∀ e ∈ s.waiting, e.arrival ≤ s.partTime) : s.tableLaw :=
  ⟨h.1, h.2.1, h.2.2.1, h.2.2.2.1, h.2.2.2.2.1, h.2.2.2.2.2⟩

theorem witness_StepsKeepTheTable :
    (lawDesk.tableLaw ∧ ∃ t, step lawDesk = .next t) ∧
      ((asked (.clear 1 100) full).tableLaw ∧ ∃ t, step (asked (.clear 1 100) full) = .next t) :=
  ⟨⟨tableLaw_of (by decide +kernel), lawDesk_steps⟩, tableLaw_of (by decide +kernel), _, next_asked (by decide +kernel)⟩

theorem witness_StepsKeepRecordsConfigured : lawDesk.configLaw ∧ ∃ t, step lawDesk = .next t :=
  ⟨⟨by decide +kernel, by decide +kernel⟩, lawDesk_steps⟩

theorem lawDesk_handovers : lawDesk.handoverLaw := by unfold State.handoverLaw; decide +kernel

theorem witness_StepsKeepTheRoutes : lawDesk.routeLaw ∧ lawDesk.handoverLaw ∧ ∃ t, step lawDesk = .next t :=
  ⟨⟨by decide +kernel, by decide +kernel⟩, lawDesk_handovers, lawDesk_steps⟩

theorem witness_StepsKeepHornsAndRelay : lawDesk.soundLaw ∧ ∃ t, step lawDesk = .next t :=
  ⟨fun _ => by decide +kernel, lawDesk_steps⟩

theorem lawDesk_links : lawDesk.linkLaw := by
  refine ⟨by decide +kernel, by decide +kernel, fun c w hw => ?_, by decide +kernel, by decide +kernel,
    by decide +kernel⟩
  have h : ∀ c : Console, linkByte lawDesk.consoles[c].link = 3 → 0 < lawDesk.consoles[c].count := by decide +kernel
  exact h c (by rw [hw]; rfl)

theorem lawDesk_places : lawDesk.placeLaw := by
  have h : ∀ (c : Console) (o : Operator), lawDesk.consoles[c].session.inCharge = some o ∨
      lawDesk.handovers[c].phase.incoming = some o →
      (lawDesk.handovers[c].phase.incoming = none ∧
        (c.val = 0 ∧ o.val = 0 ∨ c.val = 1 ∧ o.val = 1 ∨ c.val = 4 ∧ o.val = 4)) ∧
        (lawDesk.cfg.roster[o]).map OperatorRecord.status = some .active := by decide +kernel
  refine ⟨fun o c d hc hd => ?_, fun o c ⟨hc, hd⟩ => ?_, fun o c hc => ?_⟩
  · have h1 := (h c o hc).1.2
    have h2 := (h d o hd).1.2
    exact Fin.ext (by omega)
  · have h1 := (h c o (.inl hc)).1.1
    rw [h1] at hd
    cases hd
  · have h1 := (h c o hc).2
    cases hr : lawDesk.cfg.roster[o] with
    | none => rw [hr] at h1; cases h1
    | some r => rw [hr] at h1; exact ⟨r, rfl, by simpa using h1⟩

theorem lawDesk_items : lawDesk.itemLaw := by
  have h : ∀ c : Console, lawDesk.handovers[c].phase.items.map Item.ref = [] ∨
      c = 1 ∧ lawDesk.handovers[c].phase.items.map Item.ref = [.alarm 0] := by decide +kernel
  refine ⟨by decide +kernel, by decide +kernel, fun c p hp => ?_, fun c n hn => ?_⟩
  · rcases h c with e | ⟨rfl, e⟩ <;> rw [e] at hp
    · cases hp
    · obtain rfl : p = 0 := by simpa using hp
      decide +kernel
  · rcases h c with e | ⟨rfl, e⟩ <;> rw [e] at hn <;> simp at hn

theorem witness_StepsKeepLinksAndHandovers :
    lawDesk.linkLaw ∧ lawDesk.handoverLaw ∧ lawDesk.placeLaw ∧ lawDesk.tableLaw ∧ lawDesk.itemLaw ∧
      ∃ t, step lawDesk = .next t :=
  ⟨lawDesk_links, lawDesk_handovers, lawDesk_places, tableLaw_of (by decide +kernel), lawDesk_items, lawDesk_steps⟩

theorem witness_StepsKeepLoadsAndFloods :
    lawDesk.heldLaw ∧ (∃ r ∈ lawDesk.records, r.floodHeld = true) ∧ lawDesk.loadLaw ∧ ∃ t, step lawDesk = .next t := by
  refine ⟨fun r hr hf => ?_, by decide +kernel, by unfold State.loadLaw; decide +kernel, lawDesk_steps⟩
  have h : ∀ r ∈ lawDesk.records, r.floodHeld = true → r.state = .raisedUnack ∧ r.priority.high = false ∧
      r.stage = 0 ∧ r.route = some 1 := by decide +kernel
  obtain ⟨a, b, c, d⟩ := h r hr hf
  exact ⟨a, b, c, 1, d, by decide +kernel⟩

theorem settings_lawful : settings.lawful where
  fallback := by decide +kernel
  levels := by decide +kernel
  unshelvable := by decide +kernel
  bound p q l hp hq := by
    have h : ∀ p : Point, useByte settings.points[p].use = 1 → p = 1 := by decide +kernel
    rw [h p (by rw [hp]; rfl), h q (by rw [hq]; rfl)]
  badges o q x y hx hy hxy := by
    have h : ∀ o q : Operator, (settings.roster[o]).map OperatorRecord.badge =
        (settings.roster[q]).map OperatorRecord.badge → settings.roster[o] = none ∨ o = q := by decide +kernel
    rcases h o q (by rw [hx, hy, Option.map_some, Option.map_some, hxy]) with h' | h'
    · rw [hx] at h'; cases h'
    · exact h'
  badged o x hx := by
    have h : ∀ o : Operator, (settings.roster[o]).map OperatorRecord.badge ≠ some 0 := by decide +kernel
    intro h'
    exact h o (by rw [hx, Option.map_some, h'])
  shelf := by decide +kernel
  expiries o x hx := by
    have h : ∀ o : Operator, (settings.roster[o]).map OperatorRecord.expiry ≠ some (some 0) := by decide +kernel
    intro h'
    exact h o (by rw [hx, Option.map_some, h'])
  texts n r hr := by
    have h : ∀ n : Note, settings.notes[n] = none := by decide +kernel
    rw [h n] at hr; cases hr
  params := ⟨by decide +kernel, by decide +kernel, by decide +kernel, by decide +kernel, by decide +kernel,
    by decide +kernel, by decide +kernel, by decide +kernel⟩

/-- Images in the copies: the newer one, written across the wrap of the generation number, needs corrections. -/
def damaged : Settings :=
  { settings with
    points := settings.points.set 0 { pointOf 0 with priority := .p1, shelvable := true }
    params := { settings.params with failLimit := 3, floodOn := 255, window := 65535 } }

theorem storable_of {m : Settings}
    (h : (∀ n : Note, m.notes[n] = none) ∧ (∀ g : Group, 1 ≤ m.params.blankTime[g] ∧ m.params.blankTime[g] ≤ 600) ∧
      m.params.floodOn ≤ 65535) : m.storable :=
  ⟨fun n r hr => absurd hr (by rw [h.1 n]; simp), h.2.1, h.2.2⟩

/-- The plant of the laws with both copies good, one of them in need of corrections, and a write to be made. -/
def stockedDesk : State :=
  asked (.areaWrite 1 boss 0 4 4 4) { lawDesk with store :=
      { copyA := some ⟨0xFFFFFFFF#32, settings⟩, copyB := some ⟨0#32, damaged⟩, generation := 0, storeFault := false,
        storeLost := false, writing := some .b } }

theorem stocked_storable : stockedDesk.store.storable := by
  intro w k hk
  cases w <;> cases hk <;> exact storable_of (by decide +kernel)

theorem witness_StepsKeepTheSettings : stockedDesk.settingsLaw ∧ ∃ t, step stockedDesk = .next t :=
  ⟨⟨settings_lawful, storable_of (by decide +kernel), stocked_storable⟩, _, next_asked (by decide +kernel)⟩

theorem witness_StepsKeepTheChangeSet : lawDesk.changeLaw ∧ ∃ t, step lawDesk = .next t :=
  ⟨by unfold State.changeLaw; decide +kernel, lawDesk_steps⟩

theorem witness_RoutingFunction :
    (desk.cfg.areas[(0 : Area)].owner = some 1 ∧ desk.linkUp 1 = true ∧ (desk.attachedAt 1).isSome = true) ∧
      (let s := { desk with cfg := { settings with
          areas := settings.areas.set 0 { AreaConfig.default with owner := some 4, fallback := some 1 } } }
       (∀ o : Console, s.cfg.areas[(0 : Area)].owner = some o → s.linkUp o = false ∨ s.attachedAt o = none) ∧
         s.cfg.areas[(0 : Area)].fallback = some 1 ∧ s.linkUp 1 = true ∧ (s.attachedAt 1).isSome = true) ∧
      ((∀ o : Console, desk.cfg.areas[(1 : Area)].owner = some o → desk.linkUp o = false ∨ desk.attachedAt o = none) ∧
        (∀ f : Console, desk.cfg.areas[(1 : Area)].fallback = some f →
          desk.linkUp f = false ∨ desk.attachedAt f = none) ∧ desk.linkUp 0 = true) ∧
      (State.reset.cfg.areas[(11 : Area)].owner = none ∧ State.reset.linkUp 0 = false) ∧
      (let u := { desk with day := 7 }
       u.cfg.areas[(0 : Area)].owner = desk.cfg.areas[(0 : Area)].owner ∧
         ∀ c : Console, u.consoles[c].link = desk.consoles[c].link ∧
           u.consoles[c].session = desk.consoles[c].session) := by decide +kernel

theorem witness_EffectiveLevels :
    desk.cfg.roster[(47 : Operator)] = none ∧
      (∃ r, desk.cfg.roster[(3 : Operator)] = some r ∧ r.status = .suspended) ∧
      (∃ r, desk.cfg.roster[(0 : Operator)] = some r ∧ r.status = .active ∧ r.expiry = none) ∧
      (∃ r, desk.cfg.roster[(5 : Operator)] = some r ∧ r.status = .active ∧ r.expiry = some 812) ∧
      (desk.day = 0 ∧ { desk with day := 1 }.day = 1 ∧ (812 ≤ 812 ∧ 812 < 813)) :=
  ⟨by decide +kernel, ⟨{ operator 103 4 with status := .suspended }, by decide +kernel⟩,
    ⟨operator 100 4, by decide +kernel⟩, ⟨{ operator 105 2 with expiry := some 812 }, by decide +kernel⟩,
    by decide +kernel⟩

def stocked : State := { desk with store := stockedDesk.store }

theorem witness_ColdStartLoadsTheStore :
    stocked.store.storable ∧
    ((stocked.store.cutOff false).chosen.map fun k => k.image.params.failLimit) = some 3 ∧
      ((stocked.store.cutOff true).chosen.map fun k => k.image.params.failLimit) = some 8 ∧
      (State.reset.store.cutOff false).chosen = none ∧
      exec (.coldStart false) stocked = .next (after (.coldStart false) stocked) :=
  ⟨stocked_storable, by decide +kernel, by decide +kernel, by decide +kernel, next_after (by decide +kernel)⟩

theorem witness_PowerLossStopsTheModule :
    stocked.store.writing = some .b ∧
      ({ desk with powered := false }.powered = false ∧ (∀ m, Instr.readStatus 1 ≠ .coldStart m) ∧
        (∀ m, Instr.readStatus 1 ≠ .powerLoss m) ∧ ∀ l x, Instr.readStatus 1 ≠ .bandChange l x) :=
  ⟨by decide +kernel, rfl, by simp, by simp, by simp⟩

theorem witness_BandChangeSetsTheCandidate :
    (desk.powered = true ∧ bandOf 399 ≠ desk.lines[(0 : Line)].band ∧ bandOf 2200 ≠ desk.lines[(31 : Line)].band) ∧
      (bandOf 400 = desk.lines[(0 : Line)].band ∧ bandOf 2199 = desk.lines[(0 : Line)].band) ∧
      ({ desk with powered := false }.powered = false) ∧
      (let k := { LineConfig.default with group := some 3 }
       k.supervised = true ∧ { k with supervised := false }.supervised = false ∧ k.sense = .openToAlarm ∧
         { k with sense := .closeToAlarm }.sense = .closeToAlarm ∧ desk.blankEnds[(3 : Group)] = none ∧
         { desk with blankEnds := desk.blankEnds.set 3 (some 1000) }.blankEnds[(3 : Group)] = some 1000) := by
  decide +kernel

/-- Line 0, bound to point 1, and line 31, bound to none, with a candidate 500 ms old. -/
def pendingLine (l : Line) (x : LineState) : State :=
  { desk with lines := upd desk.lines l fun _ => { band := .opened, candidate := x, appeared := 995,
                                                   qualified := if x = .normal then .active else .normal } }

theorem witness_QualificationTakesTheCandidate :
    (∀ x : LineState, (pendingLine 0 x).lines[(0 : Line)].candidate ≠ (pendingLine 0 x).lines[(0 : Line)].qualified) ∧
      ((pendingLine 31 .active).lines[(31 : Line)].candidate ≠ (pendingLine 31 .active).lines[(31 : Line)].qualified) ∧
      (995 + filterTicks desk.cfg.lines[(0 : Line)].filter = 1000 ∧
        995 + filterTicks desk.cfg.lines[(31 : Line)].filter = 1000 ∧ 1000 ≤ desk.partTime ∧ desk.powered = true) ∧
      ((pendingLine 0 .active).boundPoint 0 = some 1 ∧ (pendingLine 31 .active).boundPoint 31 = none) := by
  refine ⟨fun x => ?_, by decide +kernel, by decide +kernel, by decide +kernel⟩
  cases x <;> decide +kernel

/-- A state with line 0's candidate pending. -/
def pendingOn (s : State) (x : LineState) : State := { s with lines := (pendingLine 0 x).lines }

/-- The shelved record of point 1 whose condition has gone. -/
def shelvedGone : Record :=
  { record 1 .shelved .gone with shelvedBy := some 0, shelfEnd := some 1600 }

theorem witness_QualificationTakesTheCandidate_raises :
    ((pendingOn desk .fault).lines[(0 : Line)].candidate = .fault ∧ (pendingOn desk .fault).statusOf 1 = .normal ∧
        (pendingOn desk .fault).lowestEmpty = some 0) ∧
      ((pendingOn (withRecord (record 1 .acked .active)) .fault).find 1 = some (0, record 1 .acked .active) ∧
        (record 1 .acked .active).cause = .alarm) ∧
      (pendingOn (withRecord (record 1 .clearedUnack .gone)) .fault).find 1 =
        some (0, record 1 .clearedUnack .gone) ∧
      (pendingOn (withRecord shelvedGone) .fault).find 1 = some (0, shelvedGone) ∧
      ((pendingOn (entered (desk.freshEntry 1 .alarm)) .fault).find 1 = none ∧
        (pendingOn (entered (desk.freshEntry 1 .alarm)) .fault).entryOf 1 = some (desk.freshEntry 1 .alarm)) ∧
      ((pendingOn full .fault).statusOf 1 = .normal ∧ (pendingOn full .fault).lowestEmpty = none ∧
        (pendingOn full .fault).boundPoint 0 = some 1) := by decide +kernel

theorem witness_QualificationTakesTheCandidate_clears :
    (pendingOn (withRecord (record 1 .acked .active)) .normal).lines[(0 : Line)].candidate = .normal ∧
      (pendingOn (withRecord (record 1 .acked .active)) .normal).tableLaw ∧
      (pendingOn (withRecord (record 1 .acked .active)) .normal).find 1 = some (0, record 1 .acked .active) ∧
      (record 1 .acked .active).cls = .locking ∧ (pendingOn desk .normal).statusOf 1 = .normal :=
  ⟨by decide +kernel, tableLaw_of (by decide +kernel), by decide +kernel, by decide +kernel, by decide +kernel⟩

/-- Line 0 in blanking group 0, with an ACTIVE candidate that is not qualified. -/
def blankDesk : State :=
  { pendingLine 0 .active with
    cfg := { settings with lines := settings.lines.set 0 { LineConfig.default with group := some 0 } } }

theorem witness_BlankingDefersAlarms :
    (blankDesk.linkReady = true ∧ decodeEngineer lead = some (1, some 1) ∧ decodeNumber 4 0#8 = some 0 ∧
        blankDesk.mayEngineer 1 (some 1) (blankDesk.mayBlank 0) ∧
        blankDesk.cfg.lines[(0 : Line)].group = some 0 ∧ blankDesk.lines[(0 : Line)].candidate = .active) ∧
      (decodeNumber 4 3#8 = some 3 ∧
        blankDesk.mayEngineer 1 (some 1) (blankDesk.mayBlank 3)) ∧
      (let s := { desk with blankEnds := desk.blankEnds.set 3 (some 1000) }
       s.powered = true ∧ s.blankEnds[(3 : Group)] = some 1000 ∧ 1000 ≤ s.partTime) ∧
      (decodeEngineer ⟨2, 2⟩ = some (2, some 1) ∧
        ¬blankDesk.mayEngineer 2 (some 1) (blankDesk.mayBlank 0)) := by
  and_intros <;> decide +kernel

theorem witness_RaiseOfANormalPoint :
    (desk.linkReady = true ∧ decodeNumber 256 0#8 = some 0 ∧ desk.cfg.points[(0 : Point)].use = .link ∧
        desk.statusOf 0 = .normal ∧ desk.lowestEmpty = some 0) ∧
      (full.linkReady = true ∧ full.cfg.points[(0 : Point)].use = .link ∧ full.statusOf 0 = .normal ∧
        full.lowestEmpty = none) := by decide +kernel

/-- The small plant with a record of point 0 in slot 0, as it is found. -/
def held0 (st : RecordState) (k : Condition) : State := withRecord (record 0 st k)

def heldShelf (k : Condition) : State := withRecord (shelved k)

theorem witness_RaiseOfAStandingAlarm :
    ((held0 .acked .active).linkReady = true ∧ decodeNumber 256 0#8 = some 0 ∧
        (held0 .acked .active).cfg.points[(0 : Point)].use = .link) ∧
      (held0 .raisedUnack .active).find 0 = some (0, record 0 .raisedUnack .active) ∧
      (held0 .acked .active).find 0 = some (0, record 0 .acked .active) ∧
      (heldShelf .active).find 0 = some (0, shelved .active) ∧
      (held0 .clearedUnack .gone).find 0 = some (0, record 0 .clearedUnack .gone) ∧
      (held0 .resetWait .gone).find 0 = some (0, record 0 .resetWait .gone) ∧
      (heldShelf .gone).find 0 = some (0, shelved .gone) ∧
      (full.linkReady = true ∧ decodeNumber 256 3#8 = some 3 ∧ full.cfg.points[(3 : Point)].use = .link ∧
        full.find 3 = none ∧ full.entryOf 3 = some (desk.freshEntry 3 .alarm)) := by decide +kernel

/-- The full plant with point 0 waiting, its condition as given. -/
def queued0 (k : Condition) : State := entered { desk.freshEntry 0 .alarm with condition := k }

/-- The small plant with a record of point 2 or 3 in slot 0. -/
def heldAt (p : Point) (st : RecordState) (k : Condition) : State := withRecord (record p st k)

theorem witness_ClearByStateAndClass_removals :
    ((held0 .raisedUnack .active).linkReady = true ∧ decodeNumber 256 0#8 = some 0 ∧
        (held0 .raisedUnack .active).cfg.points[(0 : Point)].use = .link) ∧
      (held0 .raisedUnack .active).tableLaw ∧
      (held0 .raisedUnack .active).find 0 = some (0, record 0 .raisedUnack .active) ∧
      (record 0 .raisedUnack .active).cls = .selfClearing ∧
      (heldAt 3 .acked .active).tableLaw ∧ (heldAt 3 .acked .active).find 3 = some (0, record 3 .acked .active) ∧
      (record 3 .acked .active).cls ≠ .held :=
  ⟨by decide +kernel, tableLaw_of (by decide +kernel), by decide +kernel, by decide +kernel,
    tableLaw_of (by decide +kernel), by decide +kernel, by decide +kernel⟩

theorem witness_ClearByStateAndClass_records :
    ((heldAt 3 .raisedUnack .active).tableLaw ∧
        (heldAt 3 .raisedUnack .active).find 3 = some (0, record 3 .raisedUnack .active) ∧
        (record 3 .raisedUnack .active).cls ≠ .selfClearing) ∧
      ((heldAt 2 .acked .active).tableLaw ∧ (heldAt 2 .acked .active).find 2 = some (0, record 2 .acked .active) ∧
        (record 2 .acked .active).cls = .held ∧ desk.cfg.points[(2 : Point)].use = .link) ∧
      ((heldShelf .active).tableLaw ∧ (heldShelf .active).find 0 = some (0, shelved .active)) ∧
      ((held0 .clearedUnack .gone).tableLaw ∧
        (held0 .clearedUnack .gone).find 0 = some (0, record 0 .clearedUnack .gone)) :=
  ⟨⟨tableLaw_of (by decide +kernel), by decide +kernel⟩, ⟨tableLaw_of (by decide +kernel), by decide +kernel⟩,
    ⟨tableLaw_of (by decide +kernel), by decide +kernel⟩, tableLaw_of (by decide +kernel), by decide +kernel⟩

theorem witness_ClearByStateAndClass_others :
    (desk.tableLaw ∧ desk.statusOf 0 = .normal) ∧
      ((queued0 .gone).tableLaw ∧ (queued0 .gone).find 0 = none ∧ (queued0 .gone).linkReady = true ∧
        (queued0 .gone).entryOf 0 = some { desk.freshEntry 0 .alarm with condition := .gone }) ∧
      ((queued0 .active).tableLaw ∧ (queued0 .active).find 0 = none ∧
        (queued0 .active).entryOf 0 = some (desk.freshEntry 0 .alarm) ∧
        (queued0 .active).cfg.points[(0 : Point)].cls = .selfClearing) ∧
      (full.tableLaw ∧ full.find 3 = none ∧ full.entryOf 3 = some (desk.freshEntry 3 .alarm) ∧
        full.cfg.points[(3 : Point)].cls ≠ .selfClearing) :=
  ⟨⟨tableLaw_of (by decide +kernel), by decide +kernel⟩, ⟨tableLaw_of (by decide +kernel), by decide +kernel⟩,
    ⟨tableLaw_of (by decide +kernel), by decide +kernel⟩, tableLaw_of (by decide +kernel), by decide +kernel⟩

theorem witness_PointWriteConfigures :
    (desk.linkReady = true ∧ decodeEngineer boss = some (0, some 0) ∧ decodeNumber 256 9#8 = some 9 ∧
        decodePointConfig 1 0 0 1 0 1 480 =
          some { use := .line 0, area := 0, priority := .p1, cls := .selfClearing, shelvable := true, maxShelf := 480 }) ∧
      (desk.pointWriteRefusal 0 (some 0) 9 { pointOf 9 with use := .line 0 } = some .badValue ∧
        desk.pointWriteRefusal 0 (some 0) 9 { pointOf 9 with maxShelf := 481 } = some .badValue ∧
        desk.pointWriteRefusal 1 (some 1) 9 (pointOf 9) = some .noAuthority ∧
        (held0 .acked .active).pointWriteRefusal 0 (some 0) 0 (pointOf 0) = some .wrongState) ∧
      (desk.pointWriteRefusal 0 (some 0) 9 desk.cfg.points[(9 : Point)] = none) ∧
      (desk.pointWriteRefusal 0 (some 0) 9 { pointOf 9 with use := .line 31 } = none ∧
        desk.lines[(31 : Line)].qualified = .normal) ∧
      (let s := { desk with lines := upd desk.lines 31 fun x => { x with qualified := .fault } }
       s.pointWriteRefusal 0 (some 0) 9 { pointOf 9 with use := .line 31 } = none ∧
         s.cfg.points[(9 : Point)].use ≠ .line 31 ∧ s.lines[(31 : Line)].qualified = .fault ∧
         (s.setPoint 9 { pointOf 9 with use := .line 31 }).statusOf 9 = .normal ∧
         (s.setPoint 9 { pointOf 9 with use := .line 31 }).lowestEmpty = some 0) ∧
      (let s := { full with lines := upd full.lines 31 fun x => { x with qualified := .active } }
       s.pointWriteRefusal 0 (some 0) 9 { pointOf 9 with use := .line 31 } = none ∧
         s.cfg.points[(9 : Point)].use ≠ .line 31 ∧ s.lines[(31 : Line)].qualified = .active ∧
         (s.setPoint 9 { pointOf 9 with use := .line 31 }).lowestEmpty = none) := by decide +kernel

theorem witness_PointWriteConfigures_checks :
    (desk.commissioning = false ∧ desk.attachedAt 1 = some 1 ∧ desk.effectiveLevel 1 0 ≠ 4) ∧
      (desk.attachedAt 0 = some 0 ∧ desk.effectiveLevel 0 desk.cfg.points[(9 : Point)].area = 4 ∧
        desk.effectiveLevel 0 11 = 4) ∧
      (State.reset.commissioning = true ∧ State.reset.statusOf 9 = .normal) ∧
      ((held0 .acked .active).attachedAt 0 = some 0 ∧ (held0 .acked .active).effectiveLevel 0 0 = 4 ∧
        (held0 .acked .active).statusOf 0 ≠ .normal ∧ full.statusOf 3 ≠ .normal) ∧
      (desk.statusOf 9 = .normal ∧ (0 < 1 ∧ 480 < 481) ∧ (1 ≤ 1 ∧ 1 ≤ 480 ∧ 1 ≤ 480 ∧ 480 ≤ 480)) ∧
      (desk.cfg.points[(9 : Point)].use ≠ .line 0 ∧ desk.cfg.points[(1 : Point)].use = .line 0) ∧
      ∀ q : Point, useByte desk.cfg.points[q].use = 1 → q = 1 := by decide +kernel

theorem witness_LineWriteRestartsTheLine :
    (desk.linkReady = true ∧ decodeEngineer boss = some (0, some 0) ∧ decodeNumber 32 0#8 = some 0 ∧
        decodeLineConfig 0 1 3 3 =
          some { sense := .closeToAlarm, supervised := true, filter := .s5, group := some 3 } ∧
        decodeLineConfig 1 1 1 0xFF = some LineConfig.default) ∧
      (decodeEngineer lead = some (1, some 1) ∧ ¬desk.mayEngineer 1 (some 1) (desk.mayWriteLine 0)) ∧
      ((heldAt 1 .acked .active).mayEngineer 0 (some 0) ((heldAt 1 .acked .active).mayWriteLine 0) ∧
        (heldAt 1 .acked .active).boundPoint 0 = some 1 ∧ (heldAt 1 .acked .active).statusOf 1 ≠ .normal) ∧
      (desk.mayEngineer 0 (some 0) (desk.mayWriteLine 0) ∧
        (∀ p : Point, desk.boundPoint 0 = some p → desk.statusOf p = .normal) ∧
        LineConfig.default = desk.cfg.lines[(0 : Line)]) ∧
      (desk.mayEngineer 0 (some 0) (desk.mayWriteLine 31) ∧ desk.boundPoint 31 = none) := by
  and_intros <;> decide +kernel

/-- What a person may do with the record of a point. -/
theorem witness_AcknowledgementsByRequestAndKey_request :
    ((held0 .raisedUnack .active).linkReady = true ∧ decodePerson lead = some (1, 1) ∧
        decodeNumber 256 0#8 = some 0) ∧
      (held0 .raisedUnack .active).tableLaw ∧
      ((held0 .raisedUnack .active).cfg.points[(0 : Point)].use ≠ .unused ∧
        (held0 .raisedUnack .active).find 0 = some (0, record 0 .raisedUnack .active) ∧
        (held0 .raisedUnack .active).attachedAt 1 = some 1 ∧
        (held0 .raisedUnack .active).acceptance 1 1 (record 0 .raisedUnack .active)
          (held0 .raisedUnack .active).cfg.areas[(0 : Area)].ackLevel = none) ∧
      ((heldAt 3 .clearedUnack .gone).tableLaw ∧
        (heldAt 3 .clearedUnack .gone).find 3 = some (0, record 3 .clearedUnack .gone) ∧
        (heldAt 3 .clearedUnack .gone).acceptance 0 0 (record 3 .clearedUnack .gone) 2 = none) :=
  ⟨by decide +kernel, tableLaw_of (by decide +kernel), by decide +kernel, tableLaw_of (by decide +kernel),
    by decide +kernel⟩

/-- A plant whose area 0 asks for SUPERVISOR throughout. -/
def strict (s : State) : State :=
  { s with cfg := { settings with
      areas := settings.areas.set 0 { areaOf 0 with ackLevel := 4, shelveLevel := 4, resetLevel := 4 } } }

/-- Two candidates at console 1: point 2 (P1) before point 0 (P2). -/
def pair : State := { held0 .raisedUnack .active with
  live := (held0 .raisedUnack .active).live.set 9 (some (record 2 .clearedUnack .gone)) }

theorem witness_AcknowledgementsByRequestAndKey_key :
    (pair.hears 1 = true ∧ pair.linkUp 1 = true ∧ pair.attachedAt 1 = some 1) ∧ pair.tableLaw ∧
      (pair.live[(9 : Slot)] = some (record 2 .clearedUnack .gone) ∧
        waitsFor 1 (record 2 .clearedUnack .gone) ∧ pair.mayAck 1 (record 2 .clearedUnack .gone) ∧
        ∀ q ∈ pair.records, waitsFor 1 q → pair.mayAck 1 q → noLater (record 2 .clearedUnack .gone) q) ∧
      (strict pair).tableLaw ∧
      ((∀ q ∈ (strict pair).records, waitsFor 1 q → ¬(strict pair).mayAck 1 q) ∧
        ∃ q ∈ (strict pair).records, waitsFor 1 q) ∧
      (desk.tableLaw ∧ ∀ q ∈ desk.records, ¬waitsFor 1 q) ∧
      (desk.hears 2 = true ∧ desk.linkUp 2 = true ∧ desk.attachedAt 2 = none) :=
  ⟨by decide +kernel, tableLaw_of (by decide +kernel), by decide +kernel, tableLaw_of (by decide +kernel),
    by decide +kernel, ⟨tableLaw_of (by decide +kernel), by decide +kernel⟩, by decide +kernel⟩

theorem witness_SilenceKeyStopsTheHorn :
    (pair.hears 1 = true ∧ pair.linkUp 1 = true ∧ pair.attachedAt 1 = some 1 ∧
        ∃ r ∈ pair.records, pair.soundsAt 1 r = true) ∧
      (let s := withRecord { record 2 .raisedUnack .active with stage := 2 }
       s.hears 0 = true ∧ s.linkUp 0 = true ∧ s.attachedAt 0 = some 0 ∧ ∃ r ∈ s.records, s.soundsAt 0 r = true) ∧
      (pair.attachedAt 0 = some 0 ∧ ∀ r ∈ pair.records, pair.soundsAt 0 r = false) ∧
      (pair.hears 2 = true ∧ pair.linkUp 2 = true ∧ pair.attachedAt 2 = none) := by decide +kernel

/-- Two RESET_WAIT records at console 1, of points 2 and 3, and point 0 waiting for a slot. -/
def waitingPair : State :=
  { queued0 .active with
    live := ((queued0 .active).live.set 0 (some (record 3 .resetWait .gone))).set 63
      (some (record 2 .resetWait .gone)) }

theorem witness_ResetsRemoveTheRecords :
    (waitingPair.linkReady = true ∧ decodePerson lead = some (1, 1) ∧ decodeNumber 256 2#8 = some 2 ∧
        decodeNumber 256 3#8 = some 3) ∧
      waitingPair.tableLaw ∧
      (waitingPair.cfg.points[(2 : Point)].use ≠ .unused ∧
        waitingPair.find 2 = some (63, record 2 .resetWait .gone) ∧ waitingPair.attachedAt 1 = some 1 ∧
        waitingPair.acceptance 1 1 (record 2 .resetWait .gone) waitingPair.cfg.areas[(0 : Area)].resetLevel = none) ∧
      (waitingPair.hears 1 = true ∧ waitingPair.linkUp 1 = true ∧
        ∃ r ∈ waitingPair.records, resetWaitsAt 1 r ∧ waitingPair.hasResetLevel 1 r) ∧
      (strict waitingPair).tableLaw ∧
      (∃ r ∈ (strict waitingPair).records, resetWaitsAt 1 r ∧ ¬(strict waitingPair).hasResetLevel 1 r) ∧
      (desk.tableLaw ∧ ∀ r ∈ desk.records, ¬resetWaitsAt 1 r) ∧
      (desk.hears 2 = true ∧ desk.linkUp 2 = true ∧ desk.attachedAt 2 = none) :=
  ⟨by decide +kernel, tableLaw_of (by decide +kernel), by decide +kernel, by decide +kernel,
    tableLaw_of (by decide +kernel), by decide +kernel, ⟨tableLaw_of (by decide +kernel), by decide +kernel⟩,
    by decide +kernel⟩

/-- What the RESET key frees there: slots 0 and 63, one of which the waiting entry takes. -/
theorem witness_ResetsRemoveTheRecords_admits :
    ((List.finRange 64).filter fun i => waitingPair.live[i].all fun r =>
        resetWaitsAt 1 r ∧ waitingPair.hasResetLevel 1 r) = [0, 63] ∧
      waitingPair.waiting.take 2 = [desk.freshEntry 0 .alarm] ∧
      (∃ r, waitingPair.live[(1 : Slot)] = some r ∧ ¬resetWaitsAt 1 r) ∧
      (heldBack waitingPair (entryRecord waitingPair (desk.freshEntry 0 .alarm)) ↔ False) :=
  ⟨by decide +kernel, by decide +kernel, (Option.isSome_iff_exists.1 (by decide +kernel)).imp fun r h =>
    ⟨h, by have h' : (waitingPair.live[(1 : Slot)]).all (fun r => decide (¬resetWaitsAt 1 r)) = true := by
              decide +kernel
           rw [h] at h'
           exact of_decide_eq_true h'⟩, by decide +kernel⟩

theorem witness_ShelvesStartAndEnd_starts :
    ((held0 .acked .active).linkReady = true ∧ decodePerson boss = some (0, 0) ∧ decodeNumber 256 0#8 = some 0 ∧
        (1 : Half) ≠ 0 ∧ (65535 : Half) ≠ 0) ∧
      (1 = min (1 : Half).toNat (held0 .acked .active).cfg.points[(0 : Point)].maxShelf ∧
        60 = min (65535 : Half).toNat (held0 .acked .active).cfg.points[(0 : Point)].maxShelf) ∧
      ((held0 .acked .active).cfg.points[(0 : Point)].use ≠ .unused ∧
        (held0 .acked .active).cfg.points[(0 : Point)].shelvable = true ∧
        (held0 .acked .active).find 0 = some (0, record 0 .acked .active) ∧
        (held0 .acked .active).attachedAt 0 = some 0 ∧
        (held0 .acked .active).acceptance 0 0 (record 0 .acked .active) 3 = none ∧
        (held0 .acked .active).cfg.areas[(0 : Area)].shelveLevel = 3) := by decide +kernel

theorem witness_ShelvesStartAndEnd_ends :
    (∀ k : Condition, (heldShelf k).tableLaw) ∧
      ∀ k : Condition, (heldShelf k).linkReady = true ∧ (heldShelf k).powered = true ∧
        (heldShelf k).cfg.points[(0 : Point)].use ≠ .unused ∧ (heldShelf k).find 0 = some (0, shelved k) ∧
        (heldShelf k).attachedAt 0 = some 0 ∧ (heldShelf k).acceptance 0 0 (shelved k) 3 = none ∧
        (heldShelf k).cfg.areas[(0 : Area)].shelveLevel = 3 ∧ (shelved k).shelfEnd = some 1000 ∧
        1000 ≤ (heldShelf k).partTime := by
  refine ⟨fun k => ?_, fun k => ?_⟩
  · cases k <;> exact tableLaw_of (by decide +kernel)
  · cases k <;> decide +kernel

theorem witness_NamedPointRefusals :
    (desk.linkReady = true ∧ decodePerson boss = some (0, 0) ∧ decodeNumber 256 255#8 = some 255 ∧
        desk.cfg.points[(255 : Point)].use = .unused) ∧
      (desk.cfg.points[(0 : Point)].use ≠ .unused ∧ desk.statusOf 0 = .normal ∧ desk.statusOf 0 ≠ .live .shelved) ∧
      ((heldShelf .active).statusOf 0 = .live .shelved ∧ full.statusOf 3 = .waiting ∧
        (held0 .acked .active).statusOf 0 = .live .acked ∧ (held0 .resetWait .gone).statusOf 0 = .live .resetWait) ∧
      ((held0 .raisedUnack .active).find 0 = some (0, record 0 .raisedUnack .active) ∧
        (held0 .raisedUnack .active).attachedAt 3 = none ∧
        (held0 .raisedUnack .active).attachedAt 1 = some 1 ∧ (1 : Operator) ≠ 0 ∧
        (strict (held0 .raisedUnack .active)).acceptance 1 1 (record 0 .raisedUnack .active) 4 = some .levelTooLow ∧
        (strict (held0 .raisedUnack .active)).cfg.areas[(0 : Area)].ackLevel = 4) ∧
      (desk.cfg.points[(1 : Point)].use = .line 0 ∧ decodeNumber 256 1#8 = some 1) := by decide +kernel

theorem witness_NamedPointRefusals_shelves :
    ((1 : Half) ≠ 0 ∧ (held0 .clearedUnack .gone).statusOf 0 = .live .clearedUnack ∧
        (held0 .resetWait .gone).statusOf 0 = .live .resetWait ∧ full.statusOf 3 = .waiting) ∧
      ((heldAt 3 .raisedUnack .active).statusOf 3 = .live .raisedUnack ∧
        (heldAt 2 .acked .active).statusOf 2 = .live .acked ∧
        (heldAt 3 .raisedUnack .active).cfg.points[(3 : Point)].shelvable = false ∧
        (heldAt 2 .acked .active).cfg.points[(2 : Point)].shelvable = false) ∧
      (desk.statusOf 0 = .normal ∧ (held0 .acked .active).statusOf 0 ≠ .normal ∧
        (held0 .acked .active).statusOf 0 ≠ .live .resetWait) := by decide +kernel

/-- Each way of being turned away, from the record of point 0 at console 1 with its operator 1 in charge there. -/
theorem witness_NamedPointRefusals_turned :
    (∀ st k, turnsAway (held0 st k) 3 1 (record 0 st k) 2 .notStaffed) ∧
      (∀ st k, turnsAway (held0 st k) 1 0 (record 0 st k) 2 .notInCharge) ∧
      turnsAway (strict (held0 .acked .active)) 1 1 (record 0 .acked .active) 4 .levelTooLow ∧
      (turnsAway { held0 .acked .active with consoles := upd desk.consoles 2 fun k => { k with session := .attached 2 } }
        2 2 (record 0 .acked .active) 2 .notRouted) ∧
      ((held0 .resetWait .gone).find 0 = some (0, record 0 .resetWait .gone) ∧
        (heldShelf .active).find 0 = some (0, shelved .active) ∧
        (held0 .acked .active).cfg.points[(0 : Point)].shelvable = true) :=
  ⟨fun st k => .inl ⟨by cases st <;> cases k <;> decide +kernel, rfl⟩,
    fun st k => .inr (.inl ⟨⟨1, by cases st <;> cases k <;> decide +kernel, by decide⟩, rfl⟩),
    .inr (.inr ⟨by decide +kernel, by decide +kernel⟩), .inr (.inr ⟨by decide +kernel, by decide +kernel⟩),
    by decide +kernel⟩

/-- A record of point 0 annunciated so long ago that both stage deadlines have just been reached. -/
def stale (ago : Nat) (stage : Fin 3) : State :=
  { withRecord { record 0 .raisedUnack .active with stage := stage } with partTime := 1000 + ago }

theorem witness_StageDeadlines :
    ((stale 1200 0).powered = true ∧
        (stale 1200 0).find 0 = some (0, { record 0 .raisedUnack .active with stage := 0 }) ∧
        reminderReached (stale 1200 0).cfg.params (stale 1200 0).partTime (record 0 .raisedUnack .active)) ∧
      ((stale 6000 1).find 0 = some (0, { record 0 .raisedUnack .active with stage := 1 }) ∧
        escalationReached (stale 6000 1).cfg.params (stale 6000 1).partTime
          { record 0 .raisedUnack .active with stage := 1 }) := by decide +kernel

theorem witness_SecondsEndMovesTheLoad :
    (desk.powered = true ∧ desk.partTime % 10 = 0 ∧ desk.consoles[(0 : Console)].secondTaken < desk.partTime ∧
        (0 = min 65535 (desk.consoles[(0 : Console)].load - (desk.consoles[(0 : Console)].load + 31) / 32 +
          desk.consoles[(0 : Console)].secondSum)) ∧
        (false = true ↔ desk.consoles[(0 : Console)].flooded = true ∧ desk.cfg.params.floodOff < 0 ∨
          desk.consoles[(0 : Console)].flooded = false ∧ desk.cfg.params.floodOn ≤ 0)) ∧
      (lawDesk.consoles[(1 : Console)].secondTaken < lawDesk.partTime ∧
        65535 = min 65535 (lawDesk.consoles[(1 : Console)].load - (lawDesk.consoles[(1 : Console)].load + 31) / 32 +
          lawDesk.consoles[(1 : Console)].secondSum) ∧
        (true = true ↔ lawDesk.consoles[(1 : Console)].flooded = true ∧ lawDesk.cfg.params.floodOff < 65535 ∨
          lawDesk.consoles[(1 : Console)].flooded = false ∧ lawDesk.cfg.params.floodOn ≤ 65535)) ∧
      (let s := lawDesk.setConsole 1 fun k => { k with load := 661, secondSum := 0 }
       s.consoles[(1 : Console)].flooded = true ∧
         640 = min 65535 (s.consoles[(1 : Console)].load - (s.consoles[(1 : Console)].load + 31) / 32 +
           s.consoles[(1 : Console)].secondSum) ∧
         (false = true ↔ s.consoles[(1 : Console)].flooded = true ∧ s.cfg.params.floodOff < 640 ∨
           s.consoles[(1 : Console)].flooded = false ∧ s.cfg.params.floodOn ≤ 640)) ∧
      (let s := desk.setConsole 1 fun k => { k with load := 0, secondSum := 1280 }
       s.powered = true ∧ s.partTime % 10 = 0 ∧ s.consoles[(1 : Console)].secondTaken < s.partTime ∧
         1280 = min 65535 (s.consoles[(1 : Console)].load - (s.consoles[(1 : Console)].load + 31) / 32 +
           s.consoles[(1 : Console)].secondSum) ∧
         (true = true ↔ s.consoles[(1 : Console)].flooded = true ∧ s.cfg.params.floodOff < 1280 ∨
           s.consoles[(1 : Console)].flooded = false ∧ s.cfg.params.floodOn ≤ 1280)) := by decide +kernel

theorem witness_AreaWriteClampsTheLevels :
    (desk.linkReady = true ∧ decodeNumber 12 0#8 = some 0 ∧ decodeLevel 0 = some 0 ∧ decodeLevel 4 = some 4) ∧
      (decodeEngineer lead = some (1, some 1) ∧ ¬desk.mayEngineer 1 (some 1) (fun op => desk.effectiveLevel op 0 = 4)) ∧
      (decodeEngineer boss = some (0, some 0) ∧ desk.mayEngineer 0 (some 0) (fun op => desk.effectiveLevel op 0 = 4)) ∧
      ({ areaOf 0 with ackLevel := max 2 0, shelveLevel := max 3 0, resetLevel := max 2 3 } =
        desk.cfg.areas[(0 : Area)]) ∧
      ({ areaOf 0 with ackLevel := max 2 4, shelveLevel := max 3 4, resetLevel := max 2 4 } ≠
        desk.cfg.areas[(0 : Area)]) := by decide +kernel

theorem witness_MoveAreaReroutes_refusals :
    (desk.linkReady = true ∧ decodeNumber 12 0#8 = some 0 ∧ decodeOwner 7 = some (some 7) ∧
        decodeOwner 0xFF = some none) ∧
      (decodeEngineer lead = some (1, some 1) ∧ desk.commissioning = false ∧ desk.attachedAt 1 = some 1 ∧
        desk.effectiveLevel 1 0 ≠ 4) ∧
      (decodeEngineer boss = some (0, some 0) ∧ desk.attachedAt 0 = some 0 ∧ desk.effectiveLevel 0 0 = 4) ∧
      (let s := handover (.offered 1 1500 [])
       s.linkReady = true ∧ s.attachedAt 0 = some 0 ∧ s.effectiveLevel 0 0 = 4 ∧
         s.cfg.areas[(0 : Area)].owner = some 1 ∧ s.handovers[(1 : Console)].phase.active = true) ∧
      (∀ d : Console, desk.handovers[d].phase.active = false) ∧
      (let s := desk.setConsole 2 fun k => { k with session := .attached 5 }
       let u := { s with day := 813 }
       u.linkReady = true ∧ u.attachedAt 0 = some 0 ∧ u.attachedAt 2 = some 5 ∧ u.effectiveLevel 0 0 = 4 ∧
         u.effectiveLevel 5 0 < 2 ∧ ∀ d : Console, u.handovers[d].phase.active = false) ∧
      (desk.attachedAt 1 = some 1 ∧ 2 ≤ desk.effectiveLevel 1 0 ∧ desk.attachedAt 7 = none) := by decide +kernel

theorem witness_MoveAreaReroutes_moves :
    (desk.moveRefusal 0 (some 0) 0 (some 1) (some 2) = none ∧ desk.cfg.areas[(0 : Area)].owner = some 1 ∧
        desk.cfg.areas[(0 : Area)].fallback = some 2) ∧
      (desk.moveRefusal 0 (some 0) 0 (some 7) none = none ∧ desk.cfg.areas[(0 : Area)].owner ≠ some 7) ∧
      (State.reset.linkReady = true ∧ decodeEngineer ⟨7, 0⟩ = some (7, none) ∧
        State.reset.moveRefusal 7 none 11 none none = none) := by decide +kernel

theorem witness_SetDayRederivesTheFlags :
    desk.linkReady = true ∧ (1 : Half) ≠ 0 ∧ ((1 : Half).toNat ≠ desk.day ∧ (65535 : Half).toNat ≠ desk.day) ∧
      ({ desk with day := 1 }.linkReady = true ∧ (1 : Half).toNat = { desk with day := 1 }.day) ∧
      (∃ r, desk.cfg.roster[(5 : Operator)] = some r ∧ r.expiry = some 812 ∧
        ¬(desk.day ≠ 0 ∧ 812 < desk.day ↔ 812 < (813 : Half).toNat)) :=
  ⟨by decide +kernel, by decide, by decide +kernel, by decide +kernel,
    { operator 105 2 with expiry := some 812 }, by decide +kernel⟩

def levels (l : Level) : Vector Level 12 := Vector.replicate 12 l

/-- The small plant with no roster slot free. -/
def crowded : State :=
  { desk with cfg := { settings with
      roster := Vector.ofFn fun o => match rosterOf o with
        | some r => some r
        | none => some (operator (200 + o.val) 1) } }

theorem witness_RosterWriteStoresTheRecord_requests :
    (desk.linkReady = true ∧ decodeEngineer boss = some (0, some 0) ∧ decodeOperatorOrNone 0 = some none ∧
        decodeOperatorOrNone 48 = some (some 47) ∧ (100 : Badge) ≠ 0 ∧ (0xFFFFFF : Badge) ≠ 0 ∧
        decodeGrants (Vector.replicate 12 4) = some (levels 4) ∧ decodeGrants (Vector.replicate 12 0) = some (levels 0)) ∧
      (desk.rosterWriteRefusal 0 (some 0) none 100 (levels 0) none = some .badgeInUse) ∧
      (desk.rosterWriteRefusal 0 (some 0) (some 0) 100 (levels 4) none = none ∧
        desk.cfg.roster[(0 : Operator)] = some (operator 100 4)) ∧
      (desk.rosterWriteRefusal 0 (some 0) none 0xFFFFFF (levels 0) none = none ∧
        desk.cfg.roster[(6 : Operator)] = none ∧ ∀ q : Operator, q < 6 → desk.cfg.roster[q] ≠ none) ∧
      (desk.rosterWriteRefusal 0 (some 0) (some 47) 0xFFFFFF (levels 4) (some 65535) = none ∧
        desk.cfg.roster[(47 : Operator)] = none) := by decide +kernel

theorem witness_RosterWriteStoresTheRecord_refusals :
    (desk.commissioning = false ∧ desk.attachedAt 1 = some 1 ∧
        ¬desk.levelIn 1 4 (rosterNeeds none (levels 4) none)) ∧
      (desk.attachedAt 0 = some 0 ∧
        desk.levelIn 0 4 (rosterNeeds none (levels 4) none)) ∧
      (crowded.attachedAt 0 = some 0 ∧ (∀ o : Operator, crowded.cfg.roster[o] ≠ none) ∧
        crowded.levelIn 0 4 (rosterNeeds none (levels 4) none)) ∧
      (desk.levelIn 0 4 (rosterNeeds (some (operator 101 3)) (levels 4) none) ∧
        desk.cfg.roster[(1 : Operator)] = some (operator 101 3) ∧ (operator 101 3).badge ≠ 100) ∧
      ((desk.cfg.roster[(6 : Operator)] = none ∧ ∀ q : Operator, q < 6 → desk.cfg.roster[q] ≠ none) ∧
        desk.cfg.roster[(1 : Operator)] = some (operator 101 3) ∧
        (1 : Operator) ≠ 6 ∧ (operator 101 3).badge = 101) ∧
      (∀ o : Operator, (desk.cfg.roster[o]).map OperatorRecord.badge ≠ some 777) := by
  and_intros <;> decide +kernel

theorem witness_RosterEditsTakeEffect :
    (desk.linkReady = true ∧ decodeEngineer boss = some (0, some 0) ∧ decodeOperator 2 = some 1 ∧
        decodeOperator 4 = some 3 ∧ decodeOperator 3 = some 2 ∧ decodeOperator 48 = some 47 ∧
        ∀ o : Operator, desk.mayEditSlot 0 (some 0) o) ∧
      (desk.cfg.roster[(1 : Operator)] = some (operator 101 3) ∧ (operator 101 3).status = .active ∧
        desk.consoles[(1 : Console)].session.inCharge = some 1) ∧
      (desk.cfg.roster[(3 : Operator)] = some { operator 103 4 with status := .suspended }) ∧
      (desk.cfg.roster[(2 : Operator)] = some (operator 102 2) ∧
        ∀ d : Console, desk.consoles[d].session.inCharge ≠ some 2 ∧ desk.handovers[d].phase.incoming ≠ some 2) ∧
      (let s := handover (.review 1 2 1900 items)
       s.mayEditSlot 0 (some 0) 2 ∧ s.handovers[(1 : Console)].phase.incoming = some 2) ∧
      (decodeEngineer lead = some (1, some 1) ∧ ¬desk.mayEditSlot 1 (some 1) 2) ∧
      (desk.cfg.roster[(47 : Operator)] = none) := by
  and_intros <;> decide +kernel

/-! Links, windows and sessions -/

/-- Console c in a link state, with a count. -/
def linkAt (c : Console) (l : Link) (n : Nat) : State := desk.setConsole c fun k => { k with link := l, count := n }

/-- A window that has just ended. -/
def ended : Window := { start := 980, lockedEnd := 985, finish := 1000 }

/-- A window in its locked part, and one at its open part's first tick. -/
def locked : Window := { start := 996, lockedEnd := 1001, finish := 1016 }

def opening : Window := { start := 995, lockedEnd := 1000, finish := 1015 }

theorem witness_FailsRaiseTheCount :
    ((linkAt 1 (.up ended) 5).powered = true ∧
        (linkAt 1 (.up ended) 5).consoles[(1 : Console)].link.window = some ended ∧
        ended.finish ≤ (linkAt 1 (.up ended) 5).partTime ∧ (linkAt 1 (.up ended) 5).linkUp 1 = true) ∧
      ((linkAt 1 (.up ended) 6).consoles[(1 : Console)].link.window = some ended ∧
        (linkAt 1 (.up ended) 6).cfg.params.failLimit ≤ min (6 + 2) (8 + 1)) ∧
      ((linkAt 4 (.lost ended) 9).consoles[(4 : Console)].link.window = some ended ∧
        (linkAt 4 (.lost ended) 9).linkUp 4 = false) ∧
      ((linkAt 1 (.up locked) 0).hears 1 = true ∧
        (linkAt 1 (.up locked) 0).consoles[(1 : Console)].link.window = some locked ∧
        (linkAt 1 (.up locked) 0).partTime < locked.lockedEnd ∧ (1#8).getLsbD 0 = true ∧
        (linkAt 1 (.up locked) 0).consoles[(1 : Console)].hornFault = false) := by decide +kernel

theorem witness_HeartbeatsBringTheLinkUp :
    ((linkAt 1 (.up opening) 0).hears 1 = true ∧
        (linkAt 1 (.up opening) 0).consoles[(1 : Console)].link.window = some opening ∧
        opening.lockedEnd ≤ (linkAt 1 (.up opening) 0).partTime ∧ (linkAt 1 (.up opening) 0).linkUp 1 = true) ∧
      ((linkAt 4 (.lost opening) 2).hears 4 = true ∧
        (linkAt 4 (.lost opening) 2).consoles[(4 : Console)].link.window = some opening ∧
        1 < (linkAt 4 (.lost opening) 2).consoles[(4 : Console)].count) ∧
      (desk.hears 3 = true ∧ desk.consoles[(3 : Console)].link = .down) ∧
      ((linkAt 4 (.lost opening) 1).hears 4 = true ∧
        (linkAt 4 (.lost opening) 1).consoles[(4 : Console)].link = .lost opening ∧
        (linkAt 4 (.lost opening) 1).consoles[(4 : Console)].count ≤ 1) ∧
      ((1#8).getLsbD 0 = true ∧ (2#8).getLsbD 0 = false ∧
        ∀ c : Console, desk.consoles[c].hornFault = false) := by decide +kernel

theorem witness_PanelTelegrams :
    (let s := desk.setConsole 1 fun k => { k with inFlight := some (desk.telegramOf 1) }
     s.powered = true ∧ s.consoles[(1 : Console)].inFlight = some (desk.telegramOf 1) ∧
       s.consoles[(1 : Console)].link.window.isSome = true) ∧
      (let s := desk.setConsole 3 fun k => { k with inFlight := some (desk.telegramOf 3) }
       s.consoles[(3 : Console)].inFlight = some (desk.telegramOf 3) ∧ s.consoles[(3 : Console)].link.window = none) ∧
      (desk.powered = true ∧ desk.consoles[(1 : Console)].inFlight = none) ∧
      (decodeTelegram 1 [] = .undefinedTelegram 1 [] ∧ desk.hears 1 = true ∧ desk.linkUp 1 = true) ∧
      (desk.linkUp 3 = false ∧ Instr.ackKey 3 = .ackKey 3) := by decide +kernel

theorem witness_BadgeSignsIn_in :
    (desk.hears 2 = true ∧ desk.linkUp 2 = true ∧ desk.consoles[(2 : Console)].session = .none) ∧
      (desk.holderOf 102 = some (2, operator 102 2) ∧ (operator 102 2).status = .active ∧
        (∀ d : Console, desk.handovers[d].phase.incoming ≠ some 2 ∧ (d ≠ 2 → desk.attachedAt d ≠ some 2)) ∧
        desk.qualifies 2 2 = true) ∧
      (desk.holderOf 104 = some (4, operator 104 3) ∧
        (∀ d : Console, desk.handovers[d].phase.incoming ≠ some 4 ∧ (d ≠ 2 → desk.attachedAt d ≠ some 4)) ∧
        desk.qualifies 4 2 = true ∧ desk.consoles[(4 : Console)].session = .detached 4 1000) := by decide +kernel

theorem witness_BadgeSignsIn_refused :
    (desk.hears 2 = true ∧ desk.linkUp 2 = true ∧ desk.consoles[(2 : Console)].session = .none ∧
        desk.holderOf 0 = none ∧ desk.holderOf 0xFFFFFF = none) ∧
      (desk.holderOf 103 = some (3, { operator 103 4 with status := .suspended })) ∧
      (desk.holderOf 101 = some (1, operator 101 3) ∧ (operator 101 3).status = .active ∧
        desk.attachedAt 1 = some 1) ∧
      (let s := { desk with cfg := { settings with areas := settings.areas.set 11 { areaOf 11 with owner := some 2 } },
                            day := 813 }
       s.hears 2 = true ∧ s.linkUp 2 = true ∧ s.consoles[(2 : Console)].session = .none ∧
         s.holderOf 105 = some (5, { operator 105 2 with expiry := some 812 }) ∧
         (∀ d : Console, s.handovers[d].phase.incoming ≠ some 5 ∧ (d ≠ 2 → s.attachedAt d ≠ some 5)) ∧
         s.qualifies 5 2 = false) ∧
      (desk.hears 1 = true ∧ desk.linkUp 1 = true ∧ desk.consoles[(1 : Console)].session.inCharge = some 1 ∧
        desk.cfg.roster[(1 : Operator)] = some (operator 101 3) ∧ (operator 101 3).badge = 101 ∧
        (operator 101 3).badge ≠ 102 ∧ desk.handovers[(1 : Console)].phase = .none) := by decide +kernel

theorem witness_SessionsEnd_ends :
    (desk.hears 0 = true ∧ desk.linkUp 0 = true ∧ desk.attachedAt 0 = some 0 ∧
        desk.handovers[(0 : Console)].phase.inReview = false ∧ (∀ a : Area, desk.cfg.areas[a].owner ≠ some 0)) ∧
      (desk.linkReady = true ∧ decodePerson boss = some (0, 0) ∧
        desk.handovers[(0 : Console)].phase.incoming ≠ some 0) ∧
      (desk.consoles[(4 : Console)].session = .detached 4 1000 ∧ 1000 ≤ desk.partTime ∧ desk.powered = true) ∧
      (decodeNumber 8 4#8 = some 4 ∧ (desk.levelIn 0 4 fun a => desk.cfg.areas[a].owner = some 4) ∧
        desk.consoles[(4 : Console)].session.inCharge = some 4 ∧
        desk.handovers[(4 : Console)].phase.active = false) ∧
      (let s := handover (.review 1 2 1900 items)
       s.linkReady = true ∧ s.attachedAt 0 = some 0 ∧ (s.levelIn 0 4 fun a => s.cfg.areas[a].owner = some 1) ∧
         s.consoles[(1 : Console)].session.inCharge = some 1 ∧ s.handovers[(1 : Console)].phase.active = true) := by
  decide +kernel

theorem witness_SessionsEnd_refusals :
    (desk.hears 2 = true ∧ desk.linkUp 2 = true ∧ desk.attachedAt 2 = none ∧
        desk.handovers[(2 : Console)].phase.inReview = false) ∧
      (desk.hears 1 = true ∧ desk.linkUp 1 = true ∧ (desk.attachedAt 1).isSome = true ∧
        (∃ a : Area, desk.cfg.areas[a].owner = some 1)) ∧
      (desk.linkReady = true ∧ decodePerson ⟨2, 1⟩ = some (2, 0) ∧
        desk.handovers[(2 : Console)].phase.incoming ≠ some 0) ∧
      (decodePerson ⟨1, 1⟩ = some (1, 0) ∧ desk.attachedAt 1 = some 1 ∧ (1 : Operator) ≠ 0 ∧
        desk.handovers[(1 : Console)].phase.incoming ≠ some 0) ∧
      (decodePerson lead = some (1, 1) ∧ desk.handovers[(1 : Console)].phase.incoming ≠ some 1) ∧
      (decodeNumber 8 7#8 = some 7 ∧ desk.attachedAt 2 ≠ some 0 ∧
        (¬desk.levelIn 1 4 fun a => desk.cfg.areas[a].owner = some 7)) ∧
      (decodePerson boss = some (0, 0) ∧ desk.attachedAt 0 = some 0 ∧
        (desk.levelIn 0 4 fun a => desk.cfg.areas[a].owner = some 7) ∧
        desk.consoles[(7 : Console)].session = .none) := by decide +kernel

theorem witness_PortsRestartAndToggle :
    (desk.linkReady = true ∧ decodeEngineer boss = some (0, some 0) ∧ decodeNumber 8 1#8 = some 1 ∧
        decodeNumber 8 7#8 = some 7 ∧ desk.mayEngineer 0 (some 0) (desk.levelSomewhere · 4)) ∧
      (desk.consoles[(1 : Console)].link ≠ .off ∧ desk.consoles[(1 : Console)].link ≠ .down ∧
        desk.consoles[(1 : Console)].session = .attached 1) ∧
      ((handover (.offered 1 1500 items)).handovers[(1 : Console)].phase.active = true) ∧
      (desk.consoles[(7 : Console)].link ≠ .off ∧ desk.attachedAt 7 = none) ∧
      (decodeFlag 0 = some false ∧ decodeFlag 1 = some true ∧ desk.cfg.enabled[(7 : Console)] = true) ∧
      (desk.cfg.enabled[(7 : Console)] ≠ false ∧ desk.consoles[(7 : Console)].session = .none) ∧
      (let s := { linkAt 7 .off 0 with cfg := { settings with enabled := settings.enabled.set 7 false } }
       s.linkReady = true ∧ s.mayEngineer 0 (some 0) (s.levelSomewhere · 4) ∧
         s.cfg.enabled[(7 : Console)] ≠ true) ∧
      (desk.cfg.enabled[(1 : Console)] = true ∧ desk.consoles[(1 : Console)].session ≠ .none) ∧
      (decodeEngineer lead = some (1, some 1) ∧ ¬desk.mayEngineer 1 (some 1) (desk.levelSomewhere · 4)) ∧
      ((linkAt 7 .off 0).linkReady = true ∧ (linkAt 7 .off 0).consoles[(7 : Console)].link = .off ∧
        (linkAt 7 .off 0).mayEngineer 0 (some 0) ((linkAt 7 .off 0).levelSomewhere · 4)) := by decide +kernel

theorem witness_NotesAreEnteredAndCleared_enter :
    (desk.linkReady = true ∧ decodeEngineer lead = some (1, some 1) ∧ decodeNumber 12 11#8 = some 11 ∧
        decodeNoteKind 0 = some .info ∧ decodeNoteKind 1 = some .caution ∧ ([] : List Byte).length ≤ 249 ∧
        (List.replicate 249 (65 : Byte)).length ≤ 249) ∧
      (desk.attachedAt 1 = some 1 ∧ 2 ≤ desk.effectiveLevel 1 11) ∧
      (let s := { desk with cfg := { settings with notes := withNote.cfg.notes.map fun _ =>
          withNote.cfg.notes[(0 : Note)] } }
       s.linkReady = true ∧ s.attachedAt 1 = some 1 ∧ 2 ≤ s.effectiveLevel 1 11 ∧ ∀ n : Note, s.cfg.notes[n] ≠ none) ∧
      (desk.lowestFreeNote = some 0 ∧ withNote.lowestFreeNote = some 1) ∧
      (State.reset.linkReady = true ∧ decodeEngineer ⟨7, 0⟩ = some (7, none) ∧ State.reset.commissioning = true ∧
        State.reset.lowestFreeNote = some 0) := by decide +kernel

theorem witness_NotesAreEnteredAndCleared_refused :
    (desk.linkReady = true ∧ decodeNumber 12 0#8 = some 0 ∧ decodeNoteKind 0 = some .info ∧
        decodeNumber 32 31#8 = some 31) ∧
      (decodeEngineer ⟨1, 0⟩ = some (1, none) ∧ desk.commissioning = false) ∧
      (decodeEngineer ⟨2, 1⟩ = some (2, some 0) ∧ desk.attachedAt 2 = none) ∧
      (decodeEngineer ⟨1, 1⟩ = some (1, some 0) ∧ desk.attachedAt 1 = some 1 ∧ (1 : Operator) ≠ 0) ∧
      (let s := { desk with consoles := upd desk.consoles 2 fun k => { k with session := .attached 5 }, day := 813 }
       s.linkReady = true ∧ decodeEngineer ⟨2, 6⟩ = some (2, some 5) ∧ s.attachedAt 2 = some 5 ∧
         s.effectiveLevel 5 0 < 2) := by decide +kernel

def noteOne : NoteRecord := { area := 0, kind := .info, text := [0x41], author := some 1, entryDay := 0 }

theorem witness_NotesAreEnteredAndCleared_clear :
    (withNote.linkReady = true ∧ decodeEngineer lead = some (1, some 1) ∧ decodeNumber 32 31#8 = some 31 ∧
        withNote.attachedAt 1 = some 1 ∧ withNote.cfg.notes[(31 : Note)] = none) ∧
      (withNote.cfg.notes[(0 : Note)] = some noteOne ∧ noteOne.author = some 1) ∧
      (let s := { withNote with cfg := { withNote.cfg with areas := settings.areas }
                                consoles := upd desk.consoles 2 fun k => { k with session := .attached 2 } }
       s.linkReady = true ∧ decodeEngineer ⟨2, 3⟩ = some (2, some 2) ∧ s.attachedAt 2 = some 2 ∧
         s.cfg.notes[(0 : Note)] = some noteOne ∧ noteOne.author ≠ some 2 ∧ s.effectiveLevel 2 noteOne.area < 3) := by
  decide +kernel

theorem witness_OffersOpenAHandover :
    (desk.hears 2 = true ∧ desk.linkUp 2 = true ∧ desk.attachedAt 2 = none) ∧
      (desk.hears 1 = true ∧ desk.linkUp 1 = true ∧ desk.attachedAt 1 = some 1 ∧
        desk.handovers[(1 : Console)].phase.active = false) ∧
      (lawDesk.consoles[(1 : Console)].flooded = true ∧ (lawDesk.setPhase 1 .none).attachedAt 1 = some 1 ∧
        (lawDesk.setPhase 1 .none).consoles[(1 : Console)].flooded = true ∧
        (lawDesk.setPhase 1 .none).handovers[(1 : Console)].phase.active = false) ∧
      (desk.hears 0 = true ∧ desk.linkUp 0 = true ∧ desk.attachedAt 0 = some 0 ∧
        desk.consoles[(0 : Console)].flooded = false ∧ (∀ a : Area, desk.cfg.areas[a].owner ≠ some 0)) ∧
      (desk.consoles[(1 : Console)].flooded = false ∧ (∃ a : Area, desk.cfg.areas[a].owner = some 1)) ∧
      (desk.linkReady = true ∧ decodePerson lead = some (1, 1) ∧ decodePerson boss = some (0, 0) ∧
        decodePerson ⟨2, 1⟩ = some (2, 0) ∧ decodePerson ⟨1, 1⟩ = some (1, 0) ∧ (1 : Operator) ≠ 0) ∧
      ((handover (.offered 1 1500 items)).linkReady = true ∧
        (handover (.offered 1 1500 items)).attachedAt 1 = some 1 ∧
        (handover (.offered 1 1500 items)).handovers[(1 : Console)].phase.active = true) := by decide +kernel

theorem witness_BadgeBringsTheIncomingIn :
    (let s := handover (.offered 1 1500 items)
     s.hears 1 = true ∧ s.linkUp 1 = true ∧ s.consoles[(1 : Console)].session = .attached 1 ∧
       s.handovers[(1 : Console)].phase = .offered 1 1500 items ∧
       (s.cfg.roster[(1 : Operator)] = some (operator 101 3) ∧
         ∀ n : Badge, n = 102 ∨ n = 104 ∨ n = 0 ∨ n = 103 ∨ n = 100 → (operator 101 3).badge ≠ n) ∧
       (s.holderOf 102 = some (2, operator 102 2) ∧ (operator 102 2).status = .active ∧
         (∀ e : Console, s.handovers[e].phase.incoming ≠ some 2 ∧ (e ≠ 1 → s.attachedAt e ≠ some 2)) ∧
         s.qualifies 2 1 = true) ∧
       (s.holderOf 104 = some (4, operator 104 3) ∧ s.qualifies 4 1 = true ∧
         s.consoles[(4 : Console)].session = .detached 4 1000) ∧
       (s.holderOf 0 = none ∧ s.holderOf 103 = some (3, { operator 103 4 with status := .suspended })) ∧
       (s.holderOf 100 = some (0, operator 100 4) ∧ s.attachedAt 0 = some 0) ∧
       { s with day := 813 }.holderOf 105 = some (5, { operator 105 2 with expiry := some 812 }) ∧
         { s with day := 813 }.qualifies 5 1 = false) := by
  refine ⟨by decide +kernel, by decide +kernel, by decide +kernel, by decide +kernel,
    ⟨by decide +kernel, fun n hn => ?_⟩, by decide +kernel⟩
  rcases hn with rfl | rfl | rfl | rfl | rfl <;> decide

/-- A review at console 1, of a list, whose deadline is the present tick. -/
def reviewing (l : List Item) : State := handover (.review 1 2 1000 l)

def offering : State := handover (.offered 1 1000 items)

theorem witness_HandoversAreAborted :
    (offering.hears 1 = true ∧ offering.linkUp 1 = true ∧ offering.attachedAt 1 = some 1 ∧
        offering.handovers[(1 : Console)].phase.active = true) ∧
      (offering.linkReady = true ∧ decodePerson lead = some (1, 1)) ∧
      (decodePerson ⟨2, 1⟩ = some (2, 0) ∧ desk.attachedAt 2 = none) ∧
      (decodePerson ⟨1, 1⟩ = some (1, 0) ∧ desk.attachedAt 1 = some 1 ∧ (1 : Operator) ≠ 0) ∧
      (desk.linkReady = true ∧ desk.attachedAt 1 = some 1 ∧ desk.handovers[(1 : Console)].phase.active = false) ∧
      ((reviewing items).hears 1 = true ∧ (reviewing items).linkUp 1 = true ∧
        (reviewing items).handovers[(1 : Console)].phase.inReview = true) ∧
      ((reviewing items).linkReady = true ∧ decodePerson ⟨1, 3⟩ = some (1, 2) ∧
        (reviewing items).handovers[(1 : Console)].phase.incoming = some 2) ∧
      (offering.powered = true ∧ offering.handovers[(1 : Console)].phase = .offered 1 1000 items ∧
        1000 ≤ offering.partTime) ∧
      ((reviewing items).powered = true ∧ (reviewing items).handovers[(1 : Console)].phase = .review 1 2 1000 items ∧
        1000 ≤ (reviewing items).partTime) := by decide +kernel

theorem witness_ItemsAreSeen_key :
    (desk.hears 1 = true ∧ desk.linkUp 1 = true ∧ desk.handovers[(1 : Console)].phase.inReview = false) ∧
      ((reviewing seenItems).hears 1 = true ∧ (reviewing seenItems).linkUp 1 = true ∧
        (reviewing seenItems).handovers[(1 : Console)].phase.inReview = true ∧
        ∀ it ∈ (reviewing seenItems).handovers[(1 : Console)].phase.items, it.seen = true) ∧
      (let l := seenItems ++ Item.fresh (.note 31) :: items
       (reviewing l).handovers[(1 : Console)].phase.inReview = true ∧
         (reviewing l).handovers[(1 : Console)].phase.items = seenItems ++ Item.fresh (.note 31) :: items ∧
         (∀ y ∈ seenItems, y.seen = true) ∧ (Item.fresh (.note 31)).seen = false) := by decide +kernel

theorem witness_ItemsAreSeen_request :
    (desk.linkReady = true ∧ decodePerson ⟨1, 3⟩ = some (1, 2) ∧ decodeItem 0 0 = some (.alarm 0) ∧
        decodeItem 1 31 = some (.note 31) ∧ desk.handovers[(1 : Console)].phase.inReview = false) ∧
      ((reviewing items).linkReady = true ∧ (reviewing items).handovers[(1 : Console)].phase.inReview = true ∧
        decodePerson lead = some (1, 1) ∧ (reviewing items).handovers[(1 : Console)].phase.incoming ≠ some 1) ∧
      ((reviewing items).handovers[(1 : Console)].phase.incoming = some 2 ∧
        ∀ it ∈ (reviewing items).handovers[(1 : Console)].phase.items, it.ref ≠ .note 31) ∧
      ((∃ it ∈ (reviewing seenItems).handovers[(1 : Console)].phase.items, it.ref = .alarm 0) ∧
        ∀ it ∈ (reviewing seenItems).handovers[(1 : Console)].phase.items, it.ref = .alarm 0 → it.seen = true) ∧
      ∃ it ∈ (reviewing items).handovers[(1 : Console)].phase.items, it.ref = .alarm 0 ∧ it.seen = false := by
  decide +kernel

theorem witness_AcceptsHandTheDeskOver :
    ((reviewing seenItems).handovers[(1 : Console)].phase = .review 1 2 1000 seenItems ∧
        ¬(∃ it ∈ seenItems, it.seen = false) ∧ (reviewing seenItems).consoles[(1 : Console)].flooded = false ∧
        (reviewing seenItems).qualifies 2 1 = true) ∧
      ((reviewing items).handovers[(1 : Console)].phase = .review 1 2 1000 items ∧
        ∃ it ∈ items, it.seen = false) ∧
      ((reviewing seenItems).hears 1 = true ∧ (reviewing seenItems).linkUp 1 = true ∧
        (reviewing seenItems).linkReady = true ∧ decodePerson ⟨1, 3⟩ = some (1, 2) ∧
        decodePerson lead = some (1, 1) ∧ (1 : Operator) ≠ 2) ∧
      (let s := (reviewing seenItems).setConsole 1 fun k => { k with flooded := true }
       s.handovers[(1 : Console)].phase = .review 1 2 1000 seenItems ∧ s.consoles[(1 : Console)].flooded = true) ∧
      (let s := handover (.review 1 3 1000 seenItems)
       s.handovers[(1 : Console)].phase = .review 1 3 1000 seenItems ∧ s.qualifies 3 1 = false) ∧
      (desk.handovers[(1 : Console)].phase.inReview = false ∧ offering.handovers[(1 : Console)].phase.inReview = false ∧
        offering.hears 1 = true ∧ offering.linkUp 1 = true ∧ offering.linkReady = true) := by decide +kernel

theorem witness_ParameterWrites :
    (desk.linkReady = true ∧ decodeEngineer boss = some (0, some 0) ∧ decodeParameter 0 = some (.escalation 0) ∧
        decodeParameter 14 = some (.blankTime 3) ∧ desk.mayEngineer 0 (some 0) (desk.levelSomewhere · 4)) ∧
      (decodeEngineer lead = some (1, some 1) ∧ ¬desk.mayEngineer 1 (some 1) (desk.levelSomewhere · 4)) ∧
      (∀ n : Half, desk.cfg.params.write .failLimit (3 : Half).toNat n.toNat = none) ∧
      (desk.cfg.params.write .failLimit 8 0 = some desk.cfg.params) ∧
      (desk.cfg.params.write .failLimit 4 65535 = some { Params.default with failLimit := 4 } ∧
        desk.cfg.params.write .graceTime 60 0 = some { Params.default with graceTime := 60 } ∧
        ({ Params.default with failLimit := 4 } ≠ desk.cfg.params) ∧
        ({ Params.default with graceTime := 60 } ≠ desk.cfg.params)) ∧
      (desk.cfg.params.write (.escalation 1) 60 61 =
          some { Params.default with escalation := Params.default.escalation.set 1 ⟨60, 61⟩ } ∧
        { Params.default with escalation := Params.default.escalation.set 1 ⟨60, 61⟩ } ≠ desk.cfg.params) :=
  ⟨by decide +kernel, by decide +kernel, fun _ => rfl, by decide +kernel, by decide +kernel, by decide +kernel⟩

/-- The two cases of a new fail limit: a link at or above it, and none. -/
theorem witness_ParameterWrites_failLimit :
    (decodeParameter 7 = some .failLimit ∧ (linkAt 1 (.up window) 5).linkReady = true ∧
        (after (.paramWrite 1 boss 7 4 0) (linkAt 1 (.up window) 5)).consoles[(1 : Console)].link = .lost window) ∧
      ∀ d : Console, (after (.paramWrite 1 boss 7 4 0) desk).consoles[d].link = desk.consoles[d].link := by
  decide +kernel

/-- A flags byte under any six upper bits. -/
theorem flags_read : ∀ (x : BitVec 6) (seen late : Bool),
    (x ++ BitVec.ofBool late ++ BitVec.ofBool seen : Byte).getLsbD 0 = seen ∧
      (x ++ BitVec.ofBool late ++ BitVec.ofBool seen : Byte).getLsbD 1 = late := by decide +kernel

/-- 11.3: an item's third byte holds seen in bit 0 and late in bit 1, whatever the bits above them hold. -/
theorem test_itemFlags (s : State) (n : Note) (seen late : Bool) :
    ∃ b : Byte, s.itemBytes { ref := .note n, seen := seen, late := late } = [1, byteOf n.val, b] ∧
      b.getLsbD 0 = seen ∧ b.getLsbD 1 = late :=
  ⟨_, rfl, flags_read _ seen late⟩

theorem witness_ReadsAnswerTheirData :
    desk.linkReady = true ∧ (decodeNumber 32 31#8 = some 31 ∧ decodeNumber 12 11#8 = some 11 ∧
        decodeNumber 64 63#8 = some 63 ∧ decodeNumber 256 255#8 = some 255) ∧
      (decodeOperator 1 = some 0 ∧ decodeOperator 48 = some 47 ∧ decodeNumber 8 7#8 = some 7 ∧
        decodeNumber 6 5#8 = some 5 ∧ decodeParameter 0 = some (.escalation 0) ∧
        decodeParameter 14 = some (.blankTime 3)) := by decide +kernel

/-- The layouts that the reads are claimed to have, on the small plant, and that of a record. -/
theorem test_layouts :
    recordLayout (recordBlock 63 (some (record 1 .acked .active))) 0 63 (record 1 .acked .active) ∧
      lineLayout desk 0 (desk.lineData 0) ∧ areaLayout desk 0 (desk.areaData 0) ∧
      consoleLayout desk 1 (desk.consoleData 1) ∧ telegramLayout (desk.telegramOf 1) (desk.telegramOf 1).bytes := by
  and_intros <;> decide +kernel

theorem witness_ChangesAreReadOnce :
    (desk.linkReady = true ∧ ∀ batch, desk.lastBatch ≠ some (5, batch)) ∧
      ({ desk with lastBatch := some (5, [.point 0]) }.linkReady = true ∧
        { desk with lastBatch := some (5, [.point 0]) }.lastBatch = some (5, [.point 0])) :=
  ⟨⟨by decide +kernel, fun _ h => by have h' : desk.lastBatch = none := by decide +kernel
                                     rw [h'] at h; cases h⟩, by decide +kernel⟩

end Sys2Proof.Machine.Tests
end

section
/-! The routing function (R10): what its test of a console says, what each of its steps gives, and what enters it. -/

namespace Sys2Proof.Machine

/-! ### The test of steps 1 and 2 -/

theorem staffed_iff (s : State) (c : Console) :
    s.staffed c = true ↔ s.linkUp c = true ∧ (s.attachedAt c).isSome = true :=
  Bool.and_eq_true_iff

theorem staffed_eq_false_iff (s : State) (c : Console) :
    s.staffed c = false ↔ s.linkUp c = false ∨ s.attachedAt c = none :=
  Bool.and_eq_false_iff.trans (or_congr_right (by simp))

theorem staffedOption_some (s : State) (c : Console) : s.staffedOption (some c) = s.staffed c := rfl

/-- The test fails on the console named, if one is named at all. -/
theorem staffedOption_eq_false_iff (s : State) (x : Option Console) :
    s.staffedOption x = false ↔ ∀ c, x = some c → s.linkUp c = false ∨ s.attachedAt c = none := by
  cases x with
  | none => simp [State.staffedOption]
  | some c => simp [staffedOption_some, staffed_eq_false_iff]

/-! ### The steps -/

theorem routeOf_of_owner_staffed {s : State} {a : Area} {o : Console}
    (howner : s.cfg.areas[a].owner = some o) (hstaffed : s.staffed o = true) : s.routeOf a = some o := by
  rw [State.routeOf, howner, staffedOption_some, if_pos hstaffed]

theorem routeOf_of_fallback_staffed {s : State} {a : Area} {f : Console}
    (howner : s.staffedOption s.cfg.areas[a].owner = false)
    (hfallback : s.cfg.areas[a].fallback = some f) (hstaffed : s.staffed f = true) : s.routeOf a = some f := by
  simp only [State.routeOf, howner, hfallback, staffedOption_some, hstaffed, Bool.false_eq_true, if_false, if_true]

/-- With neither console staffed the supervisor's link alone decides. -/
theorem routeOf_of_none_staffed {s : State} {a : Area}
    (howner : s.staffedOption s.cfg.areas[a].owner = false)
    (hfallback : s.staffedOption s.cfg.areas[a].fallback = false) :
    s.routeOf a = if s.linkUp 0 then some 0 else none := by
  simp only [State.routeOf, howner, hfallback, Bool.false_eq_true, if_false]

/-! ### What enters the function -/

theorem linkUp_congr {s u : State} {c : Console} (h : u.consoles[c].link = s.consoles[c].link) :
    u.linkUp c = s.linkUp c :=
  congrArg Link.isUp h

theorem attachedAt_congr {s u : State} {c : Console} (h : u.consoles[c].session = s.consoles[c].session) :
    u.attachedAt c = s.attachedAt c :=
  congrArg Session.attachedOperator h

theorem staffedOption_congr {s u : State} (hlink : ∀ c, u.linkUp c = s.linkUp c)
    (hattached : ∀ c, u.attachedAt c = s.attachedAt c) (x : Option Console) :
    u.staffedOption x = s.staffedOption x := by
  cases x with
  | none => rfl
  | some c => simp only [staffedOption_some, State.staffed, hlink, hattached]

theorem routeOf_congr {s u : State} {a : Area} (howner : u.cfg.areas[a].owner = s.cfg.areas[a].owner)
    (hfallback : u.cfg.areas[a].fallback = s.cfg.areas[a].fallback)
    (hlink : ∀ c, u.linkUp c = s.linkUp c) (hattached : ∀ c, u.attachedAt c = s.attachedAt c) :
    u.routeOf a = s.routeOf a := by
  simp only [State.routeOf, howner, hfallback, staffedOption_congr hlink hattached, hlink]

/-- Settles O21, step by step of R10's list. -/
theorem routingFunction : Obligations.RoutingFunction := by
  unfold Obligations.RoutingFunction
  refine ⟨?owner, ?fallback, ?supervisor, ?inputs⟩
  case owner =>
    intro s a o howner hup hin
    exact routeOf_of_owner_staffed howner ((staffed_iff s o).2 ⟨hup, hin⟩)
  case fallback =>
    intro s a f hnot hfallback hup hin
    exact routeOf_of_fallback_staffed ((staffedOption_eq_false_iff s _).2 hnot) hfallback
      ((staffed_iff s f).2 ⟨hup, hin⟩)
  case supervisor =>
    intro s a hnotOwner hnotFallback
    exact routeOf_of_none_staffed ((staffedOption_eq_false_iff s _).2 hnotOwner)
      ((staffedOption_eq_false_iff s _).2 hnotFallback)
  case inputs =>
    intro s u a howner hfallback hconsoles
    exact routeOf_congr howner hfallback (fun c => linkUp_congr (hconsoles c).1)
      (fun c => attachedAt_congr (hconsoles c).2)

end Sys2Proof.Machine
end

section
/-! The effective level (R118): when a slot is expired, and what each row of the table gives. -/

namespace Sys2Proof.Machine

/-! ### The expired state -/

theorem expired_of_expiry_none {r : OperatorRecord} (hexpiry : r.expiry = none) (day : Nat) :
    r.expired day = false := by
  rw [OperatorRecord.expired, hexpiry]

/-- A day later than some expiry day is never the unset day 0. -/
theorem expired_iff_of_expiry_some {r : OperatorRecord} {e : Nat} (hexpiry : r.expiry = some e) (day : Nat) :
    r.expired day = true ↔ e < day := by
  simp only [OperatorRecord.expired, hexpiry, Bool.and_eq_true, bne_iff_ne, decide_eq_true_eq]
  omega

theorem not_expired_of_expiry_some {r : OperatorRecord} {e day : Nat} (hexpiry : r.expiry = some e)
    (hday : day ≤ e) : r.expired day = false :=
  Bool.eq_false_iff.2 fun h => Nat.not_lt.2 hday ((expired_iff_of_expiry_some hexpiry day).1 h)

/-! ### The rows of the table -/

section
variable {s : State} {o : Operator} {r : OperatorRecord}

theorem effectiveLevel_of_empty (hslot : s.cfg.roster[o] = none) (a : Area) : s.effectiveLevel o a = 0 := by
  rw [State.effectiveLevel, hslot]

theorem effectiveLevel_of_suspended (hslot : s.cfg.roster[o] = some r) (hstatus : r.status = .suspended)
    (a : Area) : s.effectiveLevel o a = 0 := by
  simp only [State.effectiveLevel, hslot, hstatus, beq_self_eq_true, if_true]

/-- An ACTIVE slot's level is its grant, cut to VIEW while the slot is expired. -/
theorem effectiveLevel_of_active (hslot : s.cfg.roster[o] = some r) (hstatus : r.status = .active) (a : Area) :
    s.effectiveLevel o a = if r.expired s.day then min r.grants[a] 1 else r.grants[a] := by
  have hnot : (r.status == .suspended) = false := by rw [hstatus]; rfl
  simp only [State.effectiveLevel, hslot, hnot, Bool.false_eq_true, if_false]

theorem effectiveLevel_of_not_expired (hslot : s.cfg.roster[o] = some r) (hstatus : r.status = .active)
    (hexpired : r.expired s.day = false) (a : Area) : s.effectiveLevel o a = r.grants[a] := by
  rw [effectiveLevel_of_active hslot hstatus, hexpired, if_neg Bool.false_ne_true]

theorem effectiveLevel_of_expired (hslot : s.cfg.roster[o] = some r) (hstatus : r.status = .active)
    (hexpired : r.expired s.day = true) (a : Area) : s.effectiveLevel o a = min r.grants[a] 1 := by
  rw [effectiveLevel_of_active hslot hstatus, if_pos hexpired]

end

/-- Settles O22, row by row of R118's table. -/
theorem effectiveLevels : Obligations.EffectiveLevels := by
  unfold Obligations.EffectiveLevels
  intro s o a
  refine ⟨fun hslot => effectiveLevel_of_empty hslot a, fun r hslot => ⟨?suspended, ?active⟩⟩
  case suspended => exact fun hstatus => effectiveLevel_of_suspended hslot hstatus a
  case active =>
    intro hstatus
    refine ⟨?absent, fun e hexpiry => ⟨?unset, ?within, ?later⟩⟩
    case absent =>
      exact fun hexpiry => effectiveLevel_of_not_expired hslot hstatus (expired_of_expiry_none hexpiry _) a
    case unset =>
      intro hday
      have hle : s.day ≤ e := by omega
      exact effectiveLevel_of_not_expired hslot hstatus (not_expired_of_expiry_some hexpiry hle) a
    case within =>
      intro _ hle
      exact effectiveLevel_of_not_expired hslot hstatus (not_expired_of_expiry_some hexpiry hle) a
    case later =>
      intro _ hlt
      exact effectiveLevel_of_expired hslot hstatus ((expired_iff_of_expiry_some hexpiry _).2 hlt) a

end Sys2Proof.Machine
end

section
/-! The shapes of a command: what each command does around the operation behind it, and what every operation behind a
command does to the supply, the waiting commands, the change set and the stored contents. The claims that hold of all
commands alike (marks, telegrams, horns, refusals, authority) are read off these shapes. -/

namespace Sys2Proof.Machine

/-! ### Marking: a change set that only grows by marks -/

/-- From s to t the change set has grown by marks alone, and the attention output has followed it. -/
def Marks (s t : State) : Prop :=
  ∃ refs, t.changeSet = addRefs s.changeSet refs ∧ t.attention = (s.attention || !refs.isEmpty)

theorem addRefs_append (l a b : List Ref) : addRefs (addRefs l a) b = addRefs l (a ++ b) :=
  List.foldl_append.symm

namespace Marks

variable {s t u : State}

theorem refl (s : State) : Marks s s := ⟨[], rfl, by simp⟩

theorem trans (h : Marks s t) (k : Marks t u) : Marks s u := by
  obtain ⟨a, ha, ha'⟩ := h
  obtain ⟨b, hb, hb'⟩ := k
  refine ⟨a ++ b, by rw [hb, ha, addRefs_append], ?_⟩
  rw [hb', ha']
  cases a <;> cases b <;> simp

theorem markAll (h : Marks s t) (l : List Ref) : Marks s (t.markAll l) :=
  h.trans ⟨l, rfl, rfl⟩

/-- An update that leaves the change set and the attention output alone. -/
theorem keep (h : Marks s t) (hset : u.changeSet = t.changeSet) (hout : u.attention = t.attention) : Marks s u := by
  obtain ⟨a, ha, ha'⟩ := h
  exact ⟨a, hset.trans ha, hout.trans ha'⟩

theorem branch {p : Prop} [Decidable p] (h : Marks s t) (k : Marks s u) : Marks s (if p then t else u) := by
  split <;> assumption

theorem setConsole (h : Marks s t) (c : Console) (f : ConsoleRecord → ConsoleRecord) : Marks s (t.setConsole c f) :=
  h.keep rfl rfl

theorem setSlot (h : Marks s t) (i : Slot) (r : Option Record) : Marks s (t.setSlot i r) := h.keep rfl rfl

theorem storeWrite (h : Marks s t) : Marks s t.storeWrite := h.keep rfl rfl

theorem reroute (h : Marks s t) : Marks s t.reroute := h.keep (by simp) (by simp)

theorem rerouteStep (h : Marks s t) : Marks s t.rerouteStep := h.reroute.markAll _

theorem requalify (h : Marks s t) (l : List Console) : Marks s (t.requalify l) :=
  (h.keep (u := { t with
    consoles := Vector.ofFn fun c =>
      if t.flagStale l c then { t.consoles[c] with underQualified := t.deriveUnderQualified c }
      else t.consoles[c] }) rfl rfl).markAll _

theorem dropItem (h : Marks s t) (x : ItemRef) : Marks s (t.dropItem x) :=
  (h.keep (u := t.mapPhases fun _ p => p.drop x) rfl rfl).markAll _

theorem annunciate (h : Marks s t) (i : Slot) (r : Record) : Marks s (t.annunciate i r) := h.keep rfl rfl

theorem admitRecord (h : Marks s t) (i : Slot) (r : Record) : Marks s (t.admitRecord i r) := h.keep rfl rfl

theorem fillFrom (l : List Entry) (h : Marks s t) : Marks s (State.fillFrom l t) := by
  induction l generalizing t with
  | nil => exact h
  | cons e es ih =>
    unfold State.fillFrom
    split
    · exact ih ((h.keep (u := { t with waiting := es }) rfl rfl).admitRecord _ _ |>.markAll _)
    · exact h

theorem fill (h : Marks s t) : Marks s t.fill := h.fillFrom _

theorem remove (h : Marks s t) (i : Slot) (r : Record) : Marks s (t.remove i r) :=
  ((h.setSlot i none).markAll _).dropItem _

theorem removeAndFill (h : Marks s t) (i : Slot) (r : Record) : Marks s (t.removeAndFill i r) := (h.remove i r).fill

/-- A fold of steps that each mark alone. -/
theorem foldl {α : Type} {f : State → α → State} (hf : ∀ {v : State} (x : α), Marks s v → Marks s (f v x))
    (l : List α) (h : Marks s t) : Marks s (l.foldl f t) := by
  induction l generalizing t with
  | nil => exact h
  | cons x xs ih => exact ih (hf x h)

theorem removeAll (h : Marks s t) (l : List (Slot × Record)) : Marks s (t.removeAll l) :=
  (foldl (fun x hv => hv.remove x.1 x.2) l h).fill

theorem abortHandover (h : Marks s t) (c : Console) (x : HandoverOutcome) : Marks s (t.abortHandover c x) := by
  unfold State.abortHandover
  split
  · exact h
  · exact (h.keep (u := { t with handovers := upd t.handovers c fun _ => { phase := .none, lastOutcome := some x } })
      rfl rfl).markAll _

theorem detach (h : Marks s t) (c : Console) : Marks s (t.detach c) := by
  unfold State.detach
  split
  · exact (h.setConsole c _).markAll _
  · exact h

theorem dropSession (h : Marks s t) (c : Console) (x : EndCause) : Marks s (t.dropSession c x) :=
  (h.setConsole c _).markAll _

theorem endSession (h : Marks s t) (c : Console) (x : EndCause) : Marks s (t.endSession c x) := by
  unfold State.endSession
  split
  · exact h
  · exact ((h.dropSession c x).rerouteStep).markAll _

theorem loseLink (h : Marks s t) (c : Console) : Marks s (t.loseLink c) := by
  unfold State.loseLink
  split
  · exact (((h.setConsole c _).markAll _).abortHandover c _).detach c
  · exact h

theorem failWindow (h : Marks s t) (c : Console) (n : Nat) : Marks s (t.failWindow c n) := by
  unfold State.failWindow
  dsimp only
  have hu := (h.setConsole c fun k => { k with
    count := min (t.consoles[c].count + 2) (t.cfg.params.failLimit + 1),
    link := k.link.withWindow (t.newWindow n) }).markAll
      (if min (t.consoles[c].count + 2) (t.cfg.params.failLimit + 1) = t.consoles[c].count then []
        else [Ref.console c])
  exact (hu.loseLink c).rerouteStep.branch hu

theorem bringUp (h : Marks s t) (c : Console) : Marks s (t.bringUp c) := h.keep (by simp) (by simp)

theorem hornReport (h : Marks s t) (c : Console) (b : Bool) : Marks s (t.hornReport c b) := by
  unfold State.hornReport
  split
  · exact (h.keep (u := t.faultHorn c) (by simp [State.faultHorn]) (by simp [State.faultHorn])).markAll _
  · exact h

theorem successWindow (h : Marks s t) (c : Console) : Marks s (t.successWindow c) := by
  unfold State.successWindow
  exact (h.bringUp c).branch (h.setConsole c _)

theorem heartbeat (h : Marks s t) (c : Console) (b : Bool) : Marks s (t.heartbeat c b).1 := by
  unfold State.heartbeat
  split
  · exact h
  · exact (h.bringUp c).hornReport c b
  · split
    · exact (h.failWindow c _).hornReport c b
    · exact (h.successWindow c).hornReport c b
  · split
    · exact (h.failWindow c _).hornReport c b
    · exact (h.successWindow c).hornReport c b

theorem acknowledge (h : Marks s t) (i : Slot) (r : Record) (o : Operator) : Marks s (t.acknowledge i r o) := by
  unfold State.acknowledge
  split
  · exact (h.setSlot i _).markAll _
  · exact h.removeAndFill i r
  · exact (h.setSlot i _).markAll _

theorem endShelf (h : Marks s t) (i : Slot) (r : Record) : Marks s (t.endShelf i r) := by
  unfold State.endShelf
  split
  · exact h.keep rfl rfl
  · exact h.removeAndFill i r

theorem secondsEnd (h : Marks s t) (c : Console) : Marks s (t.secondsEnd c) := by
  unfold State.secondsEnd
  dsimp only
  refine Marks.markAll (Marks.branch ?_ (h.setConsole c _)) _
  exact h.keep (by simp [State.releaseHeld]) (by simp [State.releaseHeld])

theorem restartPort (h : Marks s t) (c : Console) : Marks s (t.restartPort c) :=
  ((((h.abortHandover c _).setConsole c _).detach c).rerouteStep).markAll _

theorem signIn (h : Marks s t) (c : Console) (o : Operator) : Marks s (t.signIn c o) :=
  (((h.keep (u := (t.moveSessions o).setConsole c fun k => { k with session := .attached o })
    (by simp) (by simp)).requalify _).rerouteStep).markAll _

theorem comeIn (h : Marks s t) (c : Console) (o : Operator) : Marks s (t.comeIn c o) := by
  unfold State.comeIn
  dsimp only
  refine Marks.markAll (Marks.keep (Marks.branch (p := (t.detachedConsoles o).isEmpty = true) h
    (Marks.rerouteStep (t := t.moveSessions o) (h.keep (by simp) (by simp)))) rfl rfl) _

theorem offer (h : Marks s t) (c : Console) (o : Operator) : Marks s (t.offer c o) :=
  (h.keep (u := t.setPhase c (.offered o (t.partTime + 10 * t.cfg.params.offerTime) (t.offerItems c))) rfl rfl).markAll _

theorem markSeen (h : Marks s t) (c : Console) (x : ItemRef) : Marks s (t.markSeen c x) :=
  (h.keep (u := t.setPhase c (t.handovers[c].phase.setSeen x true)) rfl rfl).markAll _

theorem acceptDesk (h : Marks s t) (c : Console) (o i : Operator) : Marks s (t.acceptDesk c o i) := by
  unfold State.acceptDesk
  dsimp only
  refine (Marks.requalify (h.keep ?_ ?_) _).markAll _ <;> rw [State.setConsole]

theorem moveArea (h : Marks s t) (a : Area) (x y : Option Console) : Marks s (t.moveArea a x y) := by
  unfold State.moveArea
  dsimp only
  have hu : Marks s (t.setArea a fun k => { k with owner := x, fallback := y }).rerouteStep :=
    Marks.rerouteStep (h.keep rfl rfl)
  exact ((hu.branch (hu.requalify _)).markAll _).storeWrite

theorem setDay (h : Marks s t) (d : Nat) : Marks s (t.setDay d) :=
  ((h.keep (u := { t with day := d }) rfl rfl).markAll _).requalify _

theorem storeOperator (h : Marks s t) (o : Operator) (r : OperatorRecord) : Marks s (t.storeOperator o r) :=
  (((h.keep (u := t.setRoster o (some r)) rfl rfl).markAll _).requalify _).storeWrite

theorem endSuspended (h : Marks s t) (l : List Console) : Marks s (t.endSuspended l) := by
  unfold State.endSuspended
  refine h.branch (Marks.markAll (Marks.rerouteStep ?_) _)
  exact (h.keep (u := { t with
    consoles := Vector.ofFn fun c =>
      if l.contains c then
        { t.consoles[c] with session := .none, lastEnd := some .suspended, underQualified := false }
      else t.consoles[c] }) rfl rfl).markAll _

theorem suspend (h : Marks s t) (o : Operator) : Marks s (t.suspend o) :=
  (((foldl (fun c hv => hv.abortHandover c _) _ (h.keep (u := t.setStatus o .suspended) rfl rfl)).endSuspended
    _).markAll _).storeWrite

theorem restore (h : Marks s t) (o : Operator) : Marks s (t.restore o) :=
  ((h.keep (u := t.setStatus o .active) rfl rfl).markAll _).storeWrite

theorem dropAuthor (h : Marks s t) (o : Operator) : Marks s (t.dropAuthor o) :=
  (h.keep (u := { t with cfg := { t.cfg with notes := t.orphaned o } }) rfl rfl).markAll _

theorem retire (h : Marks s t) (o : Operator) : Marks s (t.retire o) :=
  ((Marks.dropAuthor (t := t.setRoster o none) (h.keep rfl rfl) o).markAll _).storeWrite

theorem putNote (h : Marks s t) (n : Note) (r : NoteRecord) : Marks s (t.putNote n r) := by
  have h1 := (h.keep (u := t.setNote n (some r)) rfl rfl).markAll [.note n]
  exact ((h1.keep (u := ((t.setNote n (some r)).markAll [.note n]).appendItem r.area (.note n)) rfl rfl).markAll
    _).storeWrite

theorem emptyNote (h : Marks s t) (n : Note) : Marks s (t.emptyNote n) :=
  (((h.keep (u := t.setNote n none) rfl rfl).markAll _).dropItem _).storeWrite

theorem relimit (h : Marks s t) : Marks s t.relimit := by
  unfold State.relimit
  dsimp only
  have hu : Marks s t.capCounts :=
    (h.keep (u := { t with consoles := t.consoles.map (ConsoleRecord.capped t.cfg.params.failLimit) })
      rfl rfl).markAll _
  exact hu.branch (foldl (fun c hv => hv.loseLink c) _ hu).rerouteStep

theorem takeParams (h : Marks s t) (w : Parameter) (p : Params) : Marks s (t.takeParams w p) := by
  have hu : Marks s (t.setParams p) := h.keep rfl rfl
  unfold State.takeParams
  dsimp only
  split
  · exact hu.keep rfl rfl
  · exact hu.relimit
  · exact hu

end Marks

/-- An effect that changes the change set by marks alone. -/
theorem raisePoint_marks (s : State) (p : Point) (k : Cause) : (s.raisePoint p k).keeps (Marks s) := by
  have hs := Marks.refl s
  have hstanding (i : Slot) (r : Record) : (s.raiseStanding i r k).keeps (Marks s) := by
    unfold State.raiseStanding
    split
    · simp
    · intro u hu; cases hu; exact hs.setSlot _ _
  have hnormal : Marks s (s.raiseNormal p k) := by
    unfold State.raiseNormal
    split
    · exact hs.admitRecord _ _
    · exact hs.keep rfl rfl
  unfold State.raisePoint
  split
  · next i r _ =>
    unfold State.raiseRecord
    split
    · exact hstanding i r
    · exact hstanding i r
    · exact Effect.keeps_accept (hs.keep rfl rfl)
    · exact Effect.keeps_accept (hs.keep rfl rfl)
    · split
      · exact hstanding i r
      · exact Effect.keeps_accept (hs.setSlot _ _)
  · split
    · exact Effect.keeps_accept (hs.keep rfl rfl)
    · exact Effect.keeps_accept hnormal

theorem clearPoint_marks (s : State) (p : Point) : (s.clearPoint p).keeps (Marks s) := by
  have hs := Marks.refl s
  unfold State.clearPoint
  split
  · next i r _ =>
    unfold State.clearRecord
    split
    · split
      · exact Effect.keeps_accept (hs.removeAndFill i r)
      · exact Effect.keeps_accept (hs.setSlot _ _)
    · split
      · exact Effect.keeps_accept (hs.setSlot _ _)
      · exact Effect.keeps_accept (hs.removeAndFill i r)
    · simp
    · simp
    · split
      · exact Effect.keeps_accept (hs.setSlot _ _)
      · simp
  · split
    · unfold State.clearEntry
      split
      · simp
      · split
        · exact Effect.keeps_accept (hs.keep rfl rfl)
        · exact Effect.keeps_accept (hs.keep rfl rfl)
    · simp

namespace Marks

variable {s t : State}

theorem lineEvent (h : Marks s t) (p : Point) (x : LineState) : Marks s (t.lineEvent p x) := by
  refine h.trans ?_
  cases x
  · exact Effect.keeps_after (clearPoint_marks t p) (refl t)
  · exact Effect.keeps_after (raisePoint_marks t p _) (refl t)
  · exact Effect.keeps_after (raisePoint_marks t p _) (refl t)

theorem qualify (h : Marks s t) (l : Line) : Marks s (t.qualify l) := by
  have hu : Marks s (t.setLine l fun x => { x with qualified := t.lines[l].candidate }) := h.keep rfl rfl
  unfold State.qualify
  dsimp only
  split
  · exact hu.lineEvent _ _
  · exact hu

theorem bindingRaise (h : Marks s t) (p : Point) (x y : PointUse) : Marks s (t.bindingRaise p x y) := by
  unfold State.bindingRaise
  split
  · split
    · exact h
    · split
      · exact h
      · exact h.lineEvent p _
  · exact h

end Marks

/-! ### Authority and the stored contents -/

/-- The stored contents but for the notes are the same in two states. -/
def sameBlocks (s t : State) : Prop :=
  t.cfg.points = s.cfg.points ∧ t.cfg.lines = s.cfg.lines ∧ t.cfg.areas = s.cfg.areas ∧ t.cfg.roster = s.cfg.roster ∧
    t.cfg.params = s.cfg.params ∧ t.cfg.enabled = s.cfg.enabled

/-- The commissioning state holds, or some operator in charge of an ATTACHED session has SUPERVISOR somewhere. -/
def State.supervised (s : State) : Prop :=
  s.commissioning = true ∨
    ∃ (c : Console) (o : Operator) (a : Area), s.consoles[c].session = .attached o ∧ s.effectiveLevel o a = 4

theorem attachedAt_eq_some_iff (s : State) (c : Console) (o : Operator) :
    s.attachedAt c = some o ↔ s.consoles[c].session = .attached o := by
  unfold State.attachedAt
  cases h : s.consoles[c].session <;> simp_all [Session.attachedOperator]

theorem levelInAll_supervisor {s : State} {o : Operator} {l : List Area} (h : s.levelInAll o 4 l = true) :
    ∃ a, s.effectiveLevel o a = 4 := by
  have top (a : Area) (ha : 4 ≤ s.effectiveLevel o a) : s.effectiveLevel o a = 4 := by
    have := (s.effectiveLevel o a).isLt
    simp only [Fin.le_def] at ha
    exact Fin.ext (by simpa using by omega)
  unfold State.levelInAll at h
  cases l with
  | nil => simp at h; obtain ⟨a, ha⟩ := h; exact ⟨a, top a ha⟩
  | cons a as => simp at h; exact ⟨a, top a h.1⟩

/-- The authority test of an engineering request whose requirement is SUPERVISOR somewhere at least. -/
theorem supervised_of_engineer {s : State} {c : Console} {o : Option Operator} {meets : Operator → Bool}
    (h : s.engineer c o meets = true) (hm : ∀ op, meets op = true → ∃ a, s.effectiveLevel op a = 4) :
    s.supervised := by
  unfold State.engineer at h
  rw [Bool.or_eq_true] at h
  rcases h with h | h
  · exact .inl h
  · split at h
    · next op p hp =>
      simp only [Bool.and_eq_true, beq_iff_eq] at h
      obtain ⟨a, ha⟩ := hm op h.2
      exact .inr ⟨c, op, a, (attachedAt_eq_some_iff s c op).1 (h.1 ▸ hp), ha⟩
    · cases h

end Sys2Proof.Machine
end

section
/-! The shape of every command, said once: a request, a panel telegram, a timed event, or one of the few that stand
alone; and what the operation behind it does to supply, queue, change set and stored contents. -/

namespace Sys2Proof.Machine

/-! ### What an operation behind a command leaves -/

/-- What the operation behind a command may make of a state, before the event is settled. -/
structure Follows (v u : State) : Prop where
  powered : u.powered = v.powered
  pending : u.pending = v.pending
  time : u.partTime = v.partTime
  marks : Marks v u
  blocks : sameBlocks v u ∨ v.supervised

theorem sameBlocks_of_cfg {s t : State} (h : t.cfg = s.cfg) : sameBlocks s t := by
  simp only [sameBlocks, h, and_self]

namespace Follows

variable {v u : State}

theorem of_cfg (hm : Marks v u) (hp : u.powered = v.powered) (hq : u.pending = v.pending)
    (ht : u.partTime = v.partTime) (hc : u.cfg = v.cfg) : Follows v u := ⟨hp, hq, ht, hm, .inl (sameBlocks_of_cfg hc)⟩

theorem of_supervised (hs : v.supervised) (hm : Marks v u) (hp : u.powered = v.powered) (hq : u.pending = v.pending)
    (ht : u.partTime = v.partTime) : Follows v u := ⟨hp, hq, ht, hm, .inr hs⟩

end Follows

theorem raisePoint_follows (s : State) (p : Point) (k : Cause) : (s.raisePoint p k).keeps (Follows s) := by
  intro u hu
  have e : (s.raisePoint p k).after s = u := by simp [Effect.after, hu]
  exact .of_cfg (raisePoint_marks s p k u hu) (by rw [← e]; simp) (by rw [← e]; simp) (by rw [← e]; simp)
    (by rw [← e]; simp)

theorem clearPoint_follows (s : State) (p : Point) : (s.clearPoint p).keeps (Follows s) := by
  intro u hu
  have e : (s.clearPoint p).after s = u := by simp [Effect.after, hu]
  exact .of_cfg (clearPoint_marks s p u hu) (by rw [← e]; simp) (by rw [← e]; simp) (by rw [← e]; simp)
    (by rw [← e]; simp)

/-! ### What every operation behind a command stands in -/

/-- A relation that every operation behind a command stands in, each under the conditions its command meets before it
takes it. -/
structure OpsRelate (R : State → State → Prop) : Prop where
  raise : ∀ {v : State} {p : Point} (k : Cause), v.cfg.points[p].use ≠ .unused → (v.raisePoint p k).keeps (R v)
  clear : ∀ {v : State} (p : Point), (v.clearPoint p).keeps (R v)
  qualify : ∀ {v : State} (l : Line), R v (v.qualify l)
  band : ∀ {v : State} (l : Line) (b : Band), R v (v.bandChanged l b)
  blank : ∀ {v : State} (g : Group) (n : Nat), R v (v.blank g n)
  point : ∀ {v : State} {c : Console} {o : Option Operator} {p : Point} {n : PointConfig}, v.supervised →
    v.pointWriteRefusal c o p n.corrected = none →
    R v (((v.setPoint p n.corrected).markAll [.point p]).bindingRaise p v.cfg.points[p].use n.corrected.use).storeWrite
  line : ∀ {v : State} (l : Line) (n : LineConfig), v.supervised →
    R v ((v.restartLine l n).markAll ((v.boundPoint l).toList.map Ref.point)).storeWrite
  levels : ∀ {v : State} (a : Area) (k h r : Level), v.supervised →
    R v ((v.setArea a fun _ => (v.cfg.areas[a]).withLevels k h r).markAll [.area a]).storeWrite
  move : ∀ {v : State} {c : Console} {o : Option Operator} {a : Area} {x y : Option Console}, v.supervised →
    v.moveRefusal c o a x y = none → R v (v.moveArea a x y)
  roster : ∀ {v : State} {c : Console} {o named : Option Operator} {b : Badge} {g : Vector Level 12} {e : Option Nat}
    {slot : Operator}, v.supervised → b ≠ 0 → e ≠ some 0 → v.rosterWriteRefusal c o named b g e = none →
    v.rosterSlot named = some slot → R v (v.storeOperator slot (rosterRecord (v.rosterTarget named) b g e))
  suspend : ∀ {v : State} (o : Operator), v.supervised → R v (v.suspend o)
  restore : ∀ {v : State} (o : Operator), v.supervised → R v (v.restore o)
  retire : ∀ {v : State} (o : Operator), v.supervised → R v (v.retire o)
  day : ∀ {v : State} (n : Nat), R v (v.setDay n)
  params : ∀ {v : State} {w : Parameter} {x y : Nat} {p : Params}, v.supervised → x < 65536 →
    v.cfg.params.write w x y = some p → R v (v.takeParams w p).storeWrite
  restart : ∀ {v : State} (c : Console), R v (v.restartPort c)
  enable : ∀ {v : State} (c : Console) (b : Bool), v.supervised → R v (v.setEnabled c b)
  enterNote : ∀ {v : State} (n : Note) (o : Option Operator) (a : Area) (k : NoteKind) {x : List Byte}, x ≠ [] →
    R v (v.putNote n (v.newNote o a k x))
  clearNote : ∀ {v : State} (n : Note), R v (v.emptyNote n)
  acknowledge : ∀ {v : State} {i : Slot} {r : Record} (o : Operator), v.live[i] = some r → r.unacknowledged = true →
    R v (v.acknowledge i r o)
  silence : ∀ {v : State} (c : Console), R v (v.mapRecords (v.silenced c))
  removal : ∀ {v : State} {i : Slot} {r : Record}, v.live[i] = some r → R v (v.removeAndFill i r)
  removals : ∀ {v : State} (c : Console) (o : Operator), R v (v.removeAll (v.resettable c o))
  shelve : ∀ {v : State} {i : Slot} {r : Record} (o : Operator) (n : Nat), v.live[i] = some r →
    r.state = .raisedUnack ∨ r.state = .acked → R v (v.setSlot i (some (r.shelve o n)))
  endShelf : ∀ {v : State} {i : Slot} {r : Record}, v.live[i] = some r → R v (v.endShelf i r)
  remind : ∀ {v : State} {i : Slot} {r : Record}, v.live[i] = some r → r.escalates = true →
    R v (v.setSlot i (some r.remind))
  escalate : ∀ {v : State} {i : Slot} {r : Record}, v.live[i] = some r → r.escalates = true →
    R v (v.setSlot i (some r.escalate))
  seconds : ∀ {v : State} (c : Console), R v (v.secondsEnd c)
  failed : ∀ {v : State} (c : Console) (n : Nat), R v (v.failWindow c n)
  heartbeat : ∀ {v : State} (c : Console) (b : Bool), R v (v.heartbeat c b).1
  signIn : ∀ {v : State} (c : Console) (o : Operator), R v (v.signIn c o)
  comeIn : ∀ {v : State} (c : Console) (o : Operator), R v (v.comeIn c o)
  sessionEnd : ∀ {v : State} (c : Console) (x : EndCause), R v (v.endSession c x)
  force : ∀ {v : State} (c : Console), R v ((v.abortHandover c .forced).endSession c .forced)
  abort : ∀ {v : State} (c : Console) (x : HandoverOutcome), R v (v.abortHandover c x)
  offer : ∀ {v : State} (c : Console) (o : Operator), R v (v.offer c o)
  seen : ∀ {v : State} (c : Console) (x : ItemRef), R v (v.markSeen c x)
  accept : ∀ {v : State} (c : Console) (o i : Operator), R v (v.acceptDesk c o i)

/-! ### Verdicts -/

/-- Every live record of a LINK point carries the cause ALARM. -/
def State.linkAlarms (s : State) : Prop := ∀ r ∈ s.records, s.cfg.points[r.point].use = .link → r.cause = .alarm

/-- A verdict whose effect stands in a relation to the state it was reached in, and whose refusal has no effect. -/
structure Verdict.Fair (R : State → State → Prop) (v : State) (w : Verdict) : Prop where
  follows : ∀ u, w.after = some u → R v u
  clean : v.linkAlarms → w.reply.result ≠ none → w.after = none

namespace Verdict.Fair

variable {R : State → State → Prop} {v u : State}

theorem refuse (r : Reason) : (Verdict.refuse r).Fair R v := ⟨fun _ h => (by cases h), fun _ _ => rfl⟩

theorem unchanged (d : List Byte) : (Verdict.unchanged d).Fair R v := ⟨fun _ h => (by cases h), fun _ _ => rfl⟩

theorem accept {d : List Byte} (h : R v u) : (Verdict.accept u d).Fair R v :=
  ⟨fun _ e => (by cases e; exact h), fun _ e => absurd rfl e⟩

theorem check {r : Result} {w : Verdict} (h : r = none → w.Fair R v) : (Verdict.check r w).Fair R v := by
  cases r with
  | none => exact h rfl
  | some x => exact refuse x

theorem branch {p : Prop} [Decidable p] {w x : Verdict} (hw : p → w.Fair R v) (hx : ¬p → x.Fair R v) :
    (if p then w else x).Fair R v := by
  split
  · exact hw ‹_›
  · exact hx ‹_›

/-- A refused effect without a state is a clean refusal. -/
theorem verdict {e : Effect} {d : List Byte} (h : e.keeps (R v))
    (hc : v.linkAlarms → e.2 ≠ none → e.1 = none) : (e.verdict d).Fair R v := by
  refine ⟨h, fun hl hr => hc hl fun he => hr ?_⟩
  simp [Effect.verdict, he, Reply.result]

end Verdict.Fair

/-- The verdict on a named record is fair where its action is, on a record whose state suits. -/
theorem namedRecord_fair {R : State → State → Prop} {s : State} {c : Console} {o : Operator} {p : Point} {own : Result}
    {suits : PointStatus → Result} {config : PointConfig → Result} {required : AreaConfig → Level}
    {act : Slot → Record → Verdict}
    (h : ∀ i r, s.live[i] = some r → suits (.live r.state) = none → (act i r).Fair R s) :
    (s.namedRecord c o p own suits config required act).Fair R s := by
  unfold State.namedRecord
  refine .check fun _ => .check fun _ => .check fun hst => .check fun _ => .check fun _ => ?_
  split
  · next i r hf =>
    refine .check fun _ => h i r (find_live hf) ?_
    have hs : s.statusOf p = .live r.state := by simp [State.statusOf, State.recordOf, hf]
    rw [← hs]
    exact hst
  · exact .refuse _

/-- A raise of a LINK point by the plant link is refused without an effect, where no record has another cause. -/
theorem raisePoint_clean {s : State} {p : Point} (hl : s.linkAlarms) (hp : s.cfg.points[p].use = .link)
    (hr : (s.raisePoint p .alarm).2 ≠ none) : (s.raisePoint p .alarm).1 = none := by
  revert hr
  unfold State.raisePoint
  split
  · next i r hf =>
    obtain ⟨-, hpt⟩ := find_some hf
    have hk : r.cause = .alarm := hl r (find_mem hf) (by subst hpt; exact hp)
    have hs : (s.raiseStanding i r .alarm).1 = none := by rw [State.raiseStanding, if_pos hk]; rfl
    unfold State.raiseRecord
    split
    · exact fun _ => hs
    · exact fun _ => hs
    · exact fun hn => absurd rfl hn
    · exact fun hn => absurd rfl hn
    · split
      · exact fun _ => hs
      · exact fun hn => absurd rfl hn
  · split <;> exact fun hn => absurd rfl hn

theorem clearPoint_clean {s : State} {p : Point} (hr : (s.clearPoint p).2 ≠ none) : (s.clearPoint p).1 = none := by
  revert hr
  unfold State.clearPoint
  split
  · unfold State.clearRecord
    repeat' split
    all_goals first | exact fun _ => rfl | exact fun hn => absurd rfl hn
  · split
    · unfold State.clearEntry
      repeat' split
      all_goals first | exact fun _ => rfl | exact fun hn => absurd rfl hn
    · exact fun _ => rfl

/-! ### The shape of each command -/

/-- The parts that no read-out, no telegram, no horn and no change set depends on. -/
def quietParts : List Part :=
  [.blanking, .plantReceiver, .portReceivers, .exchange, .busyCount, .store, .telegrams, .loops]

/-- What a command is on a state: a plant link request, a panel telegram, an event of part time, a change of a loop, a
heartbeat, a READ_CHANGES, or a step that moves quiet parts alone. -/
inductive Shape (R : State → State → Prop) (i : Instr) (s : State) : Prop where
  | request (code seq : Byte) (act : Option (State → Verdict)) (h : exec i s = request code seq act s)
      (fair : ∀ f, act = some f → ∀ v, (f v).Fair R v)
  | panel (c : Console) (src : ResultSource) (act : State → Effect) (h : exec i s = panelTelegram c src act s)
      (fair : ∀ v, (act v).keeps (R v)) (plain : encodeBody i = none)
  | timed (due : Bool) (u : State) (h : exec i s = timed s due u) (fair : due = true → R s u)
      (plain : encodeBody i = none)
  | band (l : Line) (ohms : Nat) (h : i = .bandChange l ohms)
  | heartbeat (c : Console) (report : Byte) (h : i = .heartbeat c report)
  | changes (seq : Byte) (h : i = .readChanges seq)
  | quiet (t : State) (h : exec i s = .next t) (only : changesOnly s t quietParts)
      (unpowered : s.powered = false → t = s) (plain : encodeBody i = none) (copies : t.store.copy = s.store.copy)

section Shapes

variable {R : State → State → Prop}

theorem Shape.idle {i : Instr} {s : State} (h : exec i s = .next s) (plain : encodeBody i = none) : Shape R i s :=
  .quiet s h (fun p _ => same_refl s p) (fun _ => rfl) plain rfl

theorem read_shape {α : Type} {i : Instr} {code seq : Byte} {field : Option α} {data : State → α → List Byte}
    {s : State} (h : exec i s = readOf code seq field data s) : Shape R i s := by
  refine .request code seq _ h fun f hf v => ?_
  cases field with
  | none => cases hf
  | some x => cases hf; exact .unchanged _

section Requests

variable {i : Instr} {s : State} {code seq : Byte} {who : Acting}

theorem namedPoint_shape {point : Byte} {decided : Console → Operator → Point → State → Verdict}
    (h : exec i s = onNamedPoint code seq who point decided s) (hd : ∀ c o p v, (decided c o p v).Fair R v) :
    Shape R i s := by
  refine .request code seq _ h fun f hf v => ?_
  obtain ⟨w, p, rfl⟩ := person_act (k := fun w p s => decided w.1 w.2 p s) hf
  exact hd _ _ _ v

theorem person_shape {decided : Console → Operator → State → Verdict}
    (h : exec i s = onPerson code seq who decided s) (hd : ∀ c o v, (decided c o v).Fair R v) : Shape R i s := by
  refine .request code seq _ h fun f hf v => ?_
  simp only [Option.map_eq_some_iff] at hf
  obtain ⟨w, -, rfl⟩ := hf
  exact hd _ _ v

theorem rosterSlot_shape {slot : Byte} {decided : Console → Option Operator → Operator → State → Verdict}
    (h : exec i s = onRosterSlot code seq who slot decided s) (hd : ∀ c o n v, (decided c o n v).Fair R v) :
    Shape R i s := by
  refine .request code seq _ h fun f hf v => ?_
  obtain ⟨w, p, rfl⟩ := engineer_act (k := fun w n s => decided w.1 w.2 n s) hf
  exact hd _ _ _ v

end Requests

end Shapes

/-- The first check of a list without a refusal has passed. -/
theorem first_passes {b : Bool} {r : Reason} {l : List (Bool × Reason)} (h : firstRefusal ((b, r) :: l) = none) :
    b = true := firstRefusal_none.1 h (b, r) (List.mem_cons_self ..)

theorem supervisorIn_some {s : State} {o : Operator} {a : Area} (h : s.supervisorIn o a = true) :
    ∃ a, s.effectiveLevel o a = 4 := ⟨a, by simpa [State.supervisorIn] using h⟩

/-- SET_DAY decided (R120). -/
def State.decideDay (s : State) (d : Half) : Verdict :=
  if d = 0 then .refuse .badValue
  else if d.toNat = s.day then .unchanged (bytesOf16 d.toNat)
  else .accept (s.setDay d.toNat) (bytesOf16 d.toNat)

theorem exec_setDay (q : Byte) (d : Half) (s : State) :
    exec (.setDay q d) s = request 0x03 q (some fun u => u.decideDay d) s := rfl

section Engineering

variable {R : State → State → Prop} (hR : OpsRelate R) {v : State} {c : Console} {o : Option Operator}

include hR

theorem writePoint_fair {p : Point} {given : PointConfig} : (v.writePoint c o p given).Fair R v := by
  refine .check fun h => .branch (fun _ => .unchanged _) fun _ => .accept (hR.point ?_ h)
  refine supervised_of_engineer (first_passes h) fun op hm => ?_
  simp only [Bool.and_eq_true] at hm
  exact supervisorIn_some hm.1

theorem writeLine_fair {l : Line} {new : LineConfig} : (v.writeLine c o l new).Fair R v := by
  refine .check fun h => .branch (fun _ => .unchanged _) fun _ => .accept (hR.line l new ?_)
  refine supervised_of_engineer (first_passes h) fun op hm => ?_
  unfold State.lineWriteMeets at hm
  split at hm
  · exact supervisorIn_some hm
  · exact levelInAll_supervisor hm

theorem blankGroup_fair {g : Group} : (v.blankGroup c o g).Fair R v := .check fun _ => .accept (hR.blank g _)

theorem writeArea_fair {a : Area} {k h r : Level} : (v.writeArea c o a k h r).Fair R v :=
  .check fun hc => .branch (fun _ => .unchanged _) fun _ => .accept (hR.levels a k h r
    (supervised_of_engineer (first_passes hc) fun _ hm => supervisorIn_some hm))

theorem moveAreaDecided_fair {a : Area} {x y : Option Console} : (v.moveAreaDecided c o a x y).Fair R v :=
  .check fun hc => .branch (fun _ => .unchanged _) fun _ => .accept (hR.move
    (supervised_of_engineer (first_passes hc) fun _ hm => supervisorIn_some hm) hc)

theorem writeRoster_fair {named : Option Operator} {b : Badge} {g : Vector Level 12} {e : Option Nat} (hb : b ≠ 0)
    (he : e ≠ some 0) : (v.writeRoster c o named b g e).Fair R v := by
  refine .check fun hc => ?_
  split
  · next slot hs =>
    refine .branch (fun _ => .unchanged _) fun _ => .accept (hR.roster ?_ hb he hc hs)
    exact supervised_of_engineer (first_passes hc) fun op hm => levelInAll_supervisor hm
  · exact .refuse _

omit hR in
theorem mayEdit_supervised {slot : Operator} (h : v.mayEdit c o slot = true) : v.supervised :=
  supervised_of_engineer h fun _ hm => levelInAll_supervisor hm

theorem suspendSlot_fair {slot : Operator} : (v.suspendSlot c o slot).Fair R v :=
  .check fun hc => .accept (hR.suspend slot (mayEdit_supervised (first_passes hc)))

theorem restoreSlot_fair {slot : Operator} : (v.restoreSlot c o slot).Fair R v :=
  .check fun hc => .accept (hR.restore slot (mayEdit_supervised (first_passes hc)))

theorem retireSlot_fair {slot : Operator} : (v.retireSlot c o slot).Fair R v :=
  .check fun hc => .accept (hR.retire slot (mayEdit_supervised (first_passes hc)))

theorem portRestart_fair {d : Console} : (v.portRestart c o d).Fair R v := .check fun _ => .accept (hR.restart d)

theorem portEnable_fair {d : Console} {on : Bool} : (v.portEnable c o d on).Fair R v :=
  .check fun hc => .branch (fun _ => .unchanged _) fun _ => .check fun _ => .accept (hR.enable d on
    (supervised_of_engineer (first_passes hc) fun _ hm => levelInAll_supervisor hm))

theorem enterNote_fair {a : Area} {k : NoteKind} {x : List Byte} : (v.enterNote c o a k x).Fair R v := by
  refine .check fun _ => .check fun _ => .check fun hx => ?_
  split
  · exact .refuse _
  · refine .accept (hR.enterNote _ o a k fun e => ?_)
    rw [e] at hx
    exact Bool.noConfusion (first_passes hx)

theorem clearNote_fair {n : Note} : (v.clearNote c o n).Fair R v := by
  refine .check fun _ => ?_
  split
  · exact .refuse _
  · exact .check fun _ => .accept (hR.clearNote n)

theorem writeParam_fair {w : Parameter} {x y : Nat} (hx : x < 65536) : (v.writeParam c o w x y).Fair R v := by
  refine .check fun hc => ?_
  split
  · exact .refuse _
  · next hw =>
    refine .branch (fun _ => .unchanged _) fun _ => .accept (hR.params ?_ hx hw)
    exact supervised_of_engineer (first_passes hc) fun op hm => levelInAll_supervisor hm

theorem decideDay_fair {d : Half} : (v.decideDay d).Fair R v :=
  .branch (fun _ => .refuse _) fun _ => .branch (fun _ => .unchanged _) fun _ => .accept (hR.day _)

end Engineering

section Persons

variable {R : State → State → Prop} (hR : OpsRelate R) {v : State} {c : Console} {o : Operator} {p : Point}

include hR

omit hR in
/-- What ACK takes is unacknowledged. -/
theorem ackSuits_none {x : RecordState} (h : ackSuits (.live x) = none) : x = .raisedUnack ∨ x = .clearedUnack := by
  cases x <;> first | exact .inl rfl | exact .inr rfl | cases h

theorem ackNamed_fair : (v.ackNamed c o p).Fair R v :=
  namedRecord_fair fun i r hl hs => .accept (hR.acknowledge o hl (by
    rcases ackSuits_none hs with e | e <;> simp [Record.unacknowledged, e]))

theorem resetNamed_fair : (v.resetNamed c o p).Fair R v := namedRecord_fair fun _ _ hl _ => .accept (hR.removal hl)

omit hR in
/-- What SHELVE takes stands. -/
theorem shelveSuits_none {x : RecordState} (h : shelveSuits (.live x) = none) : x = .raisedUnack ∨ x = .acked := by
  cases x <;> first | exact .inl rfl | exact .inr rfl | cases h

theorem shelveNamed_fair {m : Nat} : (v.shelveNamed c o p m).Fair R v := by
  unfold State.shelveNamed
  exact namedRecord_fair fun i r hl hs => .accept (hR.shelve o _ hl (shelveSuits_none hs))

theorem unshelveNamed_fair : (v.unshelveNamed c o p).Fair R v :=
  namedRecord_fair fun _ _ hl _ => .accept (hR.endShelf hl)

theorem signOut_fair : (v.signOut c o).Fair R v :=
  .branch (fun _ => .accept (hR.abort c _)) fun _ => .check fun _ => .check fun _ => .accept (hR.sessionEnd c _)

theorem forceSignOut_fair {d : Console} : (v.forceSignOut c o d).Fair R v := .check fun _ => .accept (hR.force d)

theorem offerNamed_fair : (v.offerNamed c o).Fair R v :=
  .check fun _ => .check fun _ => .check fun _ => .accept (hR.offer c o)

theorem withdraw_fair : (v.withdraw c o).Fair R v := .check fun _ => .check fun _ => .accept (hR.abort c _)

theorem seenNamed_fair {x : ItemRef} : (v.seenNamed c o x).Fair R v := .check fun _ => .accept (hR.seen c x)

theorem acceptNamed_fair : (v.acceptNamed c o).Fair R v := by
  unfold State.acceptNamed
  split
  · exact .check fun _ => .check fun _ => .accept (hR.accept c _ _)
  · exact .refuse _

end Persons

section Keys

variable {R : State → State → Prop} (hR : OpsRelate R) {v : State} {c : Console}

include hR

theorem ackKey_fair : (v.ackKey c).keeps (R v) := by
  unfold State.ackKey
  split
  · simp
  · split
    · next hc => exact Effect.keeps_accept (hR.acknowledge _ (ackChoice_live hc).1 (ackChoice_live hc).2)
    · simp

theorem silenceKey_fair : (v.silenceKey c).keeps (R v) := by
  unfold State.silenceKey
  split
  · simp
  · split
    · exact Effect.keeps_accept (hR.silence c)
    · simp

theorem resetKey_fair : (v.resetKey c).keeps (R v) := by
  unfold State.resetKey
  split
  · simp
  · split
    · intro u hu
      dsimp only at hu
      split at hu
      · cases hu
      · cases hu
        exact hR.removals c _
    · simp

theorem handoverKey_fair : (v.handoverKey c).keeps (R v) := by
  unfold State.handoverKey
  split
  · simp
  · split
    · exact Effect.keeps_accept (hR.abort c _)
    · split
      · simp
      · exact Effect.keeps_accept (hR.offer c _)

theorem seenKey_fair : (v.seenKey c).keeps (R v) := by
  unfold State.seenKey
  split
  · split
    · exact Effect.keeps_accept (hR.seen c _)
    · simp
  · simp

theorem acceptKey_fair : (v.acceptKey c).keeps (R v) := by
  unfold State.acceptKey
  split
  · split
    · simp
    · exact Effect.keeps_accept (hR.accept c _ _)
  · simp

theorem signOutKey_fair : (v.signOutKey c).keeps (R v) := by
  unfold State.signOutKey
  split
  · exact Effect.keeps_accept (hR.abort c _)
  · split
    · simp
    · split
      · exact Effect.keeps_accept (hR.sessionEnd c _)
      · simp

theorem badge_fair {n : Badge} : (v.badge c n).keeps (R v) := by
  unfold State.badge
  split
  · exact badgeStep_keeps fun o _ _ _ _ => hR.signIn c o
  · split
    · simp
    · split
      · exact badgeStep_keeps fun o _ _ _ _ => hR.comeIn c o
      · simp

end Keys

/-! ### The relation of what every operation leaves -/

theorem heartbeat_follows (v : State) (c : Console) (b : Bool) : Follows v (v.heartbeat c b).1 :=
  .of_cfg ((Marks.refl v).heartbeat c b) (by simp) (by simp) (by simp) (by simp)

theorem bandChanged_follows (v : State) (l : Line) (b : Band) : Follows v (v.bandChanged l b) :=
  .of_cfg ((Marks.refl v).keep rfl rfl) rfl rfl rfl rfl

/-- Every operation behind a command leaves supply, queue and part time, only marks, and leaves the stored contents but
for the notes, unless some supervisor is in charge. -/
theorem follows_ops : OpsRelate Follows where
  raise {v p} k _ := raisePoint_follows v p k
  clear {v} p := clearPoint_follows v p
  qualify {v} l := .of_cfg ((Marks.refl v).qualify l) (by simp) (by simp) (by simp) (by simp)
  band {v} l b := bandChanged_follows v l b
  blank {v} g n := .of_cfg ((Marks.refl v).keep (by simp) (by simp)) (by simp) (by simp) (by simp) (by simp)
  point {v _ _ p n} hs _ := .of_supervised hs
    ((((Marks.refl v).keep (u := v.setPoint p n.corrected) rfl rfl).markAll _).bindingRaise _ _ _).storeWrite
    (by simp) (by simp) (by simp)
  line {v} l n hs := .of_supervised hs (((Marks.refl v).keep rfl rfl).markAll _).storeWrite rfl rfl rfl
  levels {v} a k h r hs := .of_supervised hs (((Marks.refl v).keep rfl rfl).markAll _).storeWrite rfl rfl rfl
  move {v _ _ a x y} hs _ := .of_supervised hs ((Marks.refl v).moveArea a x y) (by simp) (by simp) (by simp)
  roster {v _ _ _ _ _ _ _} hs _ _ _ _ := .of_supervised hs ((Marks.refl v).storeOperator _ _)
    (by simp [State.storeOperator]) (by simp [State.storeOperator]) (by simp [State.storeOperator])
  suspend {v} o hs := .of_supervised hs ((Marks.refl v).suspend o) (by simp) (by simp) (by simp)
  restore {v} o hs := .of_supervised hs ((Marks.refl v).restore o) rfl rfl rfl
  retire {v} o hs := .of_supervised hs ((Marks.refl v).retire o) (by simp [State.retire]) (by simp [State.retire])
    (by simp [State.retire])
  day {v} n := .of_cfg ((Marks.refl v).setDay n) (by simp [State.setDay]) (by simp [State.setDay])
    (by simp [State.setDay]) (by simp [State.setDay])
  params {v _ _ _ _} hs _ _ := .of_supervised hs ((Marks.refl v).takeParams _ _).storeWrite (by simp) (by simp) (by simp)
  restart {v} c := .of_cfg ((Marks.refl v).restartPort c) (by simp) (by simp) (by simp) (by simp)
  enable {v} c b hs := .of_supervised hs ((Marks.refl v).keep (by simp) (by simp)) (by simp) (by simp) (by simp)
  enterNote {v} n o a k _ _ := ⟨by simp, by simp, by simp, (Marks.refl v).putNote _ _, .inl (by
    simp [sameBlocks, State.putNote])⟩
  clearNote {v} n := ⟨by simp, by simp, by simp, (Marks.refl v).emptyNote _, .inl (by
    simp [sameBlocks, State.emptyNote])⟩
  acknowledge {v i r} o _ _ := .of_cfg ((Marks.refl v).acknowledge i r o) (by simp) (by simp) (by simp) (by simp)
  silence {v} c := .of_cfg ((Marks.refl v).keep (by simp) (by simp)) (by simp) (by simp) (by simp) (by simp)
  removal {v i r} _ := .of_cfg ((Marks.refl v).removeAndFill i r) (by simp) (by simp) (by simp) (by simp)
  removals {v} c o := .of_cfg ((Marks.refl v).removeAll _) (by simp) (by simp) (by simp) (by simp)
  shelve {v i r} o n _ _ := .of_cfg ((Marks.refl v).setSlot i _) rfl rfl rfl rfl
  endShelf {v i r} _ := .of_cfg ((Marks.refl v).endShelf i r) (by simp) (by simp) (by simp) (by simp)
  remind {v i r} _ _ := .of_cfg ((Marks.refl v).setSlot i _) rfl rfl rfl rfl
  escalate {v i r} _ _ := .of_cfg ((Marks.refl v).setSlot i _) rfl rfl rfl rfl
  seconds {v} c := .of_cfg ((Marks.refl v).secondsEnd c) (by simp) (by simp) (by simp) (by simp)
  failed {v} c n := .of_cfg ((Marks.refl v).failWindow c n) (by simp) (by simp) (by simp) (by simp)
  heartbeat {v} c b := heartbeat_follows v c b
  signIn {v} c o := .of_cfg ((Marks.refl v).signIn c o) (by simp) (by simp) (by simp) (by simp)
  comeIn {v} c o := .of_cfg ((Marks.refl v).comeIn c o) (by simp) (by simp) (by simp) (by simp)
  sessionEnd {v} c x := .of_cfg ((Marks.refl v).endSession c x) (by simp) (by simp) (by simp) (by simp)
  force {v} c := .of_cfg (((Marks.refl v).abortHandover c _).endSession c _) (by simp) (by simp) (by simp) (by simp)
  abort {v} c x := .of_cfg ((Marks.refl v).abortHandover c x) (by simp) (by simp) (by simp) (by simp)
  offer {v} c o := .of_cfg ((Marks.refl v).offer c o) (by simp) (by simp) (by simp) (by simp)
  seen {v} c x := .of_cfg ((Marks.refl v).markSeen c x) (by simp) (by simp) (by simp) (by simp)
  accept {v} c o i := .of_cfg ((Marks.refl v).acceptDesk c o i) (by simp) (by simp) (by simp) (by simp)

/-! ### The receivers and the exchange move quiet parts alone -/

theorem changesOnly_busyFrame (s : State) : changesOnly s s.busyFrame [.plantReceiver, .busyCount] := by
  intro p hp
  cases p <;> simp_all [State.same, sameAt]

theorem changesOnly_setReceiver (s : State) (rx : Rx) (f : Receiver → Receiver) :
    changesOnly s (s.setReceiver rx f) [.plantReceiver, .portReceivers] := by
  intro p hp
  cases p <;> simp_all [State.same, sameAt]

theorem changesOnly_refl (s : State) (l : List Part) : changesOnly s s l := fun p _ => same_refl s p

theorem busyFrame_quiet (s : State) : changesOnly s s.busyFrame quietParts :=
  changesOnly_mono (changesOnly_busyFrame s) (by simp [quietParts])

theorem setReceiver_quiet (s : State) (rx : Rx) (f : Receiver → Receiver) :
    changesOnly s (s.setReceiver rx f) quietParts :=
  changesOnly_mono (changesOnly_setReceiver s rx f) (by simp [quietParts])

theorem not_listens {s : State} (h : s.powered = false) (rx : Rx) : s.listens rx = false := by
  cases rx <;> simp [State.listens, h]

section Commands

variable {R : State → State → Prop}

theorem frameStart_shape (rx : Rx) (clock : Nat) (s : State) : Shape R (.frameStart rx clock) s := by
  have h : exec (.frameStart rx clock) s = execFrameStart rx clock s := rfl
  unfold execFrameStart at h
  split at h
  · next hl =>
    have hp : s.powered = false → False := fun hp => by simp [not_listens hp] at hl
    split at h
    · exact .quiet _ h (busyFrame_quiet s) (fun hn => (hp hn).elim) rfl (congrArg _ (by simp))
    · exact .quiet _ h (setReceiver_quiet s rx _) (fun hn => (hp hn).elim) rfl (congrArg _ (by simp))
  · exact .idle h rfl

theorem frameDiscarded_shape (rx : Rx) (bytes : List Byte) (s : State) : Shape R (.frameDiscarded rx bytes) s := by
  have h : exec (.frameDiscarded rx bytes) s = execFrameDiscarded rx bytes s := rfl
  unfold execFrameDiscarded at h
  split at h
  · next hl =>
    have hp : s.powered = false → False := fun hp => by simp [not_listens hp] at hl
    split at h
    · exact .quiet _ h (busyFrame_quiet s) (fun hn => (hp hn).elim) rfl (congrArg _ (by simp))
    · exact .quiet _ h (setReceiver_quiet s rx _) (fun hn => (hp hn).elim) rfl (congrArg _ (by simp))
  · exact .idle h rfl

theorem frameTime_shape (rx : Rx) (clock : Nat) (s : State) : Shape R (.frameTime rx clock) s := by
  have h : exec (.frameTime rx clock) s = execFrameTime rx clock s := rfl
  unfold execFrameTime at h
  split at h
  · split at h
    · next hl =>
      exact .quiet _ h (setReceiver_quiet s rx _) (fun hn => by simp [not_listens hn] at hl) rfl (congrArg _ (by simp))
    · exact .idle h rfl
  · exact .idle h rfl

theorem busyDiscard_shape (s : State) : Shape R .busyDiscard s := by
  have h : exec .busyDiscard s = execBusyDiscard s := rfl
  unfold execBusyDiscard at h
  split at h
  · next hl => exact .quiet _ h (busyFrame_quiet s) (fun hn => by simp [hn] at hl) rfl (congrArg _ (by simp))
  · exact .idle h rfl

theorem idleEndGap_shape (rx : Rx) (s : State) : Shape R (.idleEndGap rx) s := by
  have h : exec (.idleEndGap rx) s = execIdleEndGap rx s := rfl
  unfold execIdleEndGap at h
  split at h
  · next hl =>
    exact .quiet _ h (setReceiver_quiet s rx _) (fun hn => by simp [not_listens hn] at hl) rfl (congrArg _ (by simp))
  · exact .idle h rfl

theorem answerSent_shape (s : State) : Shape R .answerSent s := by
  have h : exec .answerSent s = execAnswerSent s := rfl
  unfold execAnswerSent at h
  split at h
  · next hl =>
    refine .quiet _ h ?_ (fun hn => by simp [hn] at hl) rfl (funext fun w => by cases w <;> rfl)
    intro p hp
    cases p <;> simp_all [quietParts, State.same, sameAt, State.released]
  · exact .idle h rfl

theorem blankEnd_shape (g : Group) (s : State) : Shape R (.blankEnd g) s := by
  have h : exec (.blankEnd g) s = execBlankEnd g s := rfl
  unfold execBlankEnd at h
  split at h
  · next hl =>
    refine .quiet _ h ?_ (fun hn => by simp [hn] at hl) rfl rfl
    intro p hp
    cases p <;> simp_all [quietParts, State.same, sameAt]
  · exact .idle h rfl

theorem telegramSent_other (k : ConsoleRecord) : k.telegramSent =
    { k with inFlight := k.telegramSent.inFlight, pendingTelegram := k.telegramSent.pendingTelegram } := by
  unfold ConsoleRecord.telegramSent
  repeat' split
  all_goals rfl

theorem changesOnly_telegramSent (s : State) (c : Console) :
    changesOnly s (s.setConsole c ConsoleRecord.telegramSent) [.telegrams] := by
  have hk (d : Console) : ∃ x y, (s.setConsole c ConsoleRecord.telegramSent).consoles[d] =
      { s.consoles[d] with inFlight := x, pendingTelegram := y } := by
    simp only [State.setConsole_consoles, Fin.getElem_fin, upd_get]
    split
    · next e => subst e; exact ⟨_, _, telegramSent_other _⟩
    · exact ⟨_, _, rfl⟩
  intro p hp
  cases p
  case telegrams => simp at hp
  case links | sessions | flags | results | loads | horns => intro d; obtain ⟨x, y, e⟩ := hk d; rw [e]
  all_goals first | rfl | exact ⟨rfl, rfl⟩

theorem telegramSent_shape (c : Console) (s : State) : Shape R (.telegramSent c) s := by
  have h : exec (.telegramSent c) s = execTelegramSent c s := rfl
  unfold execTelegramSent at h
  split at h
  · next hl =>
    exact .quiet _ h (changesOnly_mono (changesOnly_telegramSent s c) (by simp [quietParts]))
      (fun hn => by simp [hn] at hl) rfl rfl
  · exact .idle h rfl

theorem undefinedRequest_shape (body : List Byte) (s : State) : Shape R (.undefinedRequest body) s := by
  have h : exec (.undefinedRequest body) s = execUndefinedRequest body s := rfl
  unfold execUndefinedRequest at h
  split at h
  · exact .idle h rfl
  · exact .request _ _ none h fun f hf => by cases hf

theorem undefinedTelegram_shape (c : Console) (body : List Byte) (s : State) :
    Shape R (.undefinedTelegram c body) s := by
  have h : exec (.undefinedTelegram c body) s = execUndefinedTelegram c body s := rfl
  unfold execUndefinedTelegram at h
  split at h
  · exact .panel _ _ _ h (fun v => by simp) rfl
  · exact .idle h rfl

/-! ### Deadlines -/

theorem reached_escalation {p : Params} {n : Nat} {r : Record} (h : reached n (escalationDeadline p r) = true) :
    r.escalates = true := by
  obtain ⟨x, hx, -⟩ := reached_some h
  unfold escalationDeadline at hx
  split at hx
  · next hc => simp only [Bool.and_eq_true] at hc; exact hc.1.1
  · cases hx

theorem reached_reminder {p : Params} {n : Nat} {r : Record} (h : reached n (reminderDeadline p r) = true) :
    r.escalates = true := by
  obtain ⟨x, hx, -⟩ := reached_some h
  unfold reminderDeadline at hx
  split at hx
  · next hc => simp only [Bool.and_eq_true] at hc; exact hc.1.1
  · cases hx

variable (hR : OpsRelate R)

include hR


theorem shelfExpiry_shape (p : Point) (s : State) : Shape R (.shelfExpiry p) s := by
  have h : exec (.shelfExpiry p) s = execShelfExpiry p s := rfl
  unfold execShelfExpiry at h
  split at h
  · next hf => exact .timed _ _ h (fun _ => hR.endShelf (find_live hf)) rfl
  · exact .idle h rfl

theorem reminderDeadline_shape (p : Point) (s : State) : Shape R (.reminderDeadline p) s := by
  have h : exec (.reminderDeadline p) s = execReminderDeadline p s := rfl
  unfold execReminderDeadline at h
  split at h
  · next hf => exact .timed _ _ h (fun hd => hR.remind (find_live hf) (reached_reminder hd)) rfl
  · exact .idle h rfl

theorem escalationDeadline_shape (p : Point) (s : State) : Shape R (.escalationDeadline p) s := by
  have h : exec (.escalationDeadline p) s = execEscalationDeadline p s := rfl
  unfold execEscalationDeadline at h
  split at h
  · next hf => exact .timed _ _ h (fun hd => hR.escalate (find_live hf) (reached_escalation hd)) rfl
  · exact .idle h rfl

theorem windowEnd_shape (c : Console) (s : State) : Shape R (.windowEnd c) s := by
  have h : exec (.windowEnd c) s = execWindowEnd c s := rfl
  unfold execWindowEnd at h
  split at h
  · exact .timed _ _ h (fun _ => hR.failed c _) rfl
  · exact .idle h rfl

theorem offerDeadline_shape (c : Console) (s : State) : Shape R (.offerDeadline c) s := by
  have h : exec (.offerDeadline c) s = execOfferDeadline c s := rfl
  unfold execOfferDeadline at h
  split at h
  · exact .timed _ _ h (fun _ => hR.abort c _) rfl
  · exact .idle h rfl

theorem reviewDeadline_shape (c : Console) (s : State) : Shape R (.reviewDeadline c) s := by
  have h : exec (.reviewDeadline c) s = execReviewDeadline c s := rfl
  unfold execReviewDeadline at h
  split at h
  · exact .timed _ _ h (fun _ => hR.abort c _) rfl
  · exact .idle h rfl

/-! ### RAISE and CLEAR -/

theorem raise_shape (q x : Byte) (s : State) : Shape R (.raise q x) s := by
  refine .request 0x01 q _ rfl fun f hf v => ?_
  simp only [Option.map_eq_some_iff] at hf
  obtain ⟨p, -, rfl⟩ := hf
  dsimp only
  split
  · exact .refuse _
  · exact .refuse _
  · next hp => exact .verdict (hR.raise _ (by rw [hp]; exact PointUse.noConfusion)) fun hl => raisePoint_clean hl hp

theorem clear_shape (q x : Byte) (s : State) : Shape R (.clear q x) s := by
  refine .request 0x02 q _ rfl fun f hf v => ?_
  simp only [Option.map_eq_some_iff] at hf
  obtain ⟨p, -, rfl⟩ := hf
  dsimp only
  split
  · exact .refuse _
  · exact .refuse _
  · exact .verdict (hR.clear p) fun _ => clearPoint_clean

/-! ### Every command -/

omit hR in
theorem decodeBadge_ne {b n : Badge} (h : decodeBadge n = some b) : b ≠ 0 := by
  unfold decodeBadge at h
  split at h
  · cases h
  · cases h
    assumption

omit hR in
/-- No expiry day is 0. -/
theorem decodeExpiry_ne (e : Half) : decodeExpiry e ≠ some 0 := by
  unfold decodeExpiry
  split
  · simp
  · next he => exact fun h => he (BitVec.eq_of_toNat_eq (Option.some.inj h))


/-- Every command but a cold start and the loss of the supply has one of the shapes. -/
theorem exec_shape (i : Instr) (s : State) (hcold : ∀ m, i ≠ .coldStart m) (hloss : ∀ m, i ≠ .powerLoss m) :
    Shape R i s := by
  cases i with
  | coldStart m => exact absurd rfl (hcold m)
  | powerLoss m => exact absurd rfl (hloss m)
  | bandChange l x => exact .band l x rfl
  | qualificationDeadline l =>
    exact .timed _ _ rfl (fun _ => hR.qualify l) rfl
  | blankEnd g => exact blankEnd_shape g s
  | shelfExpiry p => exact shelfExpiry_shape hR p s
  | reminderDeadline p => exact reminderDeadline_shape hR p s
  | escalationDeadline p => exact escalationDeadline_shape hR p s
  | secondsEnd c => exact .timed _ _ rfl (fun _ => hR.seconds c) rfl
  | windowEnd c => exact windowEnd_shape hR c s
  | graceEnd c => exact .timed _ _ rfl (fun _ => hR.sessionEnd c _) rfl
  | offerDeadline c => exact offerDeadline_shape hR c s
  | reviewDeadline c => exact reviewDeadline_shape hR c s
  | frameDiscarded rx b => exact frameDiscarded_shape rx b s
  | frameTime rx k => exact frameTime_shape rx k s
  | busyDiscard => exact busyDiscard_shape s
  | undefinedRequest b => exact undefinedRequest_shape b s
  | telegramSent c => exact telegramSent_shape c s
  | heartbeat c x => exact .heartbeat c x rfl
  | undefinedTelegram c b => exact undefinedTelegram_shape c b s
  | ackKey c => exact .panel _ _ _ rfl (fun _ => ackKey_fair hR) rfl
  | silenceKey c => exact .panel _ _ _ rfl (fun _ => silenceKey_fair hR) rfl
  | resetKey c => exact .panel _ _ _ rfl (fun _ => resetKey_fair hR) rfl
  | handoverKey c => exact .panel _ _ _ rfl (fun _ => handoverKey_fair hR) rfl
  | seenKey c => exact .panel _ _ _ rfl (fun _ => seenKey_fair hR) rfl
  | acceptKey c => exact .panel _ _ _ rfl (fun _ => acceptKey_fair hR) rfl
  | signOutKey c => exact .panel _ _ _ rfl (fun _ => signOutKey_fair hR) rfl
  | badge c n => exact .panel _ _ _ rfl (fun _ => badge_fair hR) rfl
  | raise q x => exact raise_shape hR q x s
  | clear q x => exact clear_shape hR q x s
  | ack q w p => exact namedPoint_shape (decided := fun c o p v => v.ackNamed c o p) rfl fun _ _ _ _ => ackNamed_fair hR
  | resetHeld q w p =>
    exact namedPoint_shape (decided := fun c o p v => v.resetNamed c o p) rfl fun _ _ _ _ => resetNamed_fair hR
  | shelve q w p m =>
    exact namedPoint_shape (decided := fun c o p v => v.shelveNamed c o p m.toNat) rfl fun _ _ _ _ => shelveNamed_fair hR
  | unshelve q w p =>
    exact namedPoint_shape (decided := fun c o p v => v.unshelveNamed c o p) rfl fun _ _ _ _ => unshelveNamed_fair hR
  | pointWrite q w p x1 x2 x3 x4 x5 x6 m =>
    refine .request _ _ _ rfl fun f hf v => ?_
    simp only [bind, Option.bind_eq_some_iff, pure, Option.some.injEq] at hf
    obtain ⟨w, -, p, -, n, -, rfl⟩ := hf
    exact writePoint_fair hR
  | lineWrite q w l x1 x2 x3 x4 =>
    refine .request _ _ _ rfl fun f hf v => ?_
    simp only [bind, Option.bind_eq_some_iff, pure, Option.some.injEq] at hf
    obtain ⟨w, -, l, -, n, -, rfl⟩ := hf
    exact writeLine_fair hR
  | blankGroup q w g =>
    refine .request _ _ _ rfl fun f hf v => ?_
    obtain ⟨w, g, rfl⟩ := engineer_act (k := fun w g s => s.blankGroup w.1 w.2 g) hf
    exact blankGroup_fair hR
  | areaWrite q w a k h r =>
    refine .request _ _ _ rfl fun f hf v => ?_
    simp only [bind, Option.bind_eq_some_iff, pure, Option.some.injEq] at hf
    obtain ⟨w, -, a, -, k, -, h, -, r, -, rfl⟩ := hf
    exact writeArea_fair hR
  | moveArea q w a x y =>
    refine .request _ _ _ rfl fun f hf v => ?_
    simp only [bind, Option.bind_eq_some_iff, pure, Option.some.injEq] at hf
    obtain ⟨w, -, a, -, x, -, y, -, rfl⟩ := hf
    exact moveAreaDecided_fair hR
  | setDay q d => exact .request _ _ _ (exec_setDay q d s) fun f hf v => by cases hf; exact decideDay_fair hR
  | rosterWrite q w n b g e =>
    refine .request _ _ _ rfl fun f hf v => ?_
    simp only [bind, Option.bind_eq_some_iff, pure, Option.some.injEq] at hf
    obtain ⟨w, -, n, -, b, hb, g, -, rfl⟩ := hf
    exact writeRoster_fair hR (decodeBadge_ne hb) (decodeExpiry_ne e)
  | rosterSuspend q w n =>
    exact rosterSlot_shape (decided := fun c o n v => v.suspendSlot c o n) rfl fun _ _ _ _ => suspendSlot_fair hR
  | rosterRestore q w n =>
    exact rosterSlot_shape (decided := fun c o n v => v.restoreSlot c o n) rfl fun _ _ _ _ => restoreSlot_fair hR
  | rosterRetire q w n =>
    exact rosterSlot_shape (decided := fun c o n v => v.retireSlot c o n) rfl fun _ _ _ _ => retireSlot_fair hR
  | signOut q w => exact person_shape (decided := fun c o v => v.signOut c o) rfl fun _ _ _ => signOut_fair hR
  | forceSignOut q w d =>
    refine .request _ _ _ rfl fun f hf v => ?_
    obtain ⟨w, d, rfl⟩ := person_act (k := fun w d s => s.forceSignOut w.1 w.2 d) hf
    exact forceSignOut_fair hR
  | portRestart q w d =>
    refine .request _ _ _ rfl fun f hf v => ?_
    obtain ⟨w, d, rfl⟩ := engineer_act (k := fun w d s => s.portRestart w.1 w.2 d) hf
    exact portRestart_fair hR
  | portEnable q w d x =>
    refine .request _ _ _ rfl fun f hf v => ?_
    simp only [bind, Option.bind_eq_some_iff, pure, Option.some.injEq] at hf
    obtain ⟨w, -, d, -, x, -, rfl⟩ := hf
    exact portEnable_fair hR
  | noteEnter q w a k x =>
    refine .request _ _ _ rfl fun f hf v => ?_
    simp only [bind, Option.bind_eq_some_iff, pure, Option.some.injEq] at hf
    obtain ⟨w, -, a, -, k, -, x, -, rfl⟩ := hf
    exact enterNote_fair hR
  | noteClear q w n =>
    refine .request _ _ _ rfl fun f hf v => ?_
    obtain ⟨w, n, rfl⟩ := engineer_act (k := fun w n s => s.clearNote w.1 w.2 n) hf
    exact clearNote_fair hR
  | handoverOffer q w =>
    exact person_shape (decided := fun c o v => v.offerNamed c o) rfl fun _ _ _ => offerNamed_fair hR
  | handoverSeen q w k n =>
    refine .request _ _ _ rfl fun f hf v => ?_
    obtain ⟨w, r, rfl⟩ := person_act (k := fun w r s => s.seenNamed w.1 w.2 r) hf
    exact seenNamed_fair hR
  | handoverAccept q w =>
    exact person_shape (decided := fun c o v => v.acceptNamed c o) rfl fun _ _ _ => acceptNamed_fair hR
  | handoverWithdraw q w => exact person_shape (decided := fun c o v => v.withdraw c o) rfl fun _ _ _ => withdraw_fair hR
  | paramWrite q w p x y =>
    refine .request _ _ _ rfl fun f hf v => ?_
    obtain ⟨w, p, rfl⟩ := engineer_act (k := fun w p s => s.writeParam w.1 w.2 p x.toNat y.toNat) hf
    exact writeParam_fair hR x.isLt
  | readLine _ _ => exact read_shape rfl
  | readArea _ _ => exact read_shape rfl
  | readRecord _ _ => exact read_shape rfl
  | readPoint _ _ => exact read_shape rfl
  | readOperator _ _ => exact read_shape rfl
  | readConsole _ _ => exact read_shape rfl
  | readNote _ _ => exact read_shape rfl
  | readHandover _ _ _ => exact read_shape rfl
  | readStatus q => exact read_shape (field := some ()) (data := fun s _ => s.statusData) rfl
  | readParam _ _ => exact read_shape rfl
  | readChanges q => exact .changes q rfl
  | frameStart rx k => exact frameStart_shape rx k s
  | idleEndGap rx => exact idleEndGap_shape rx s
  | answerSent => exact answerSent_shape s

end Commands

end Sys2Proof.Machine
end

section
/-! How every command ends: quiet parts moved, a batch taken, a key refused, or an event settled. What the read-outs, the
telegrams, the horns and the relay depend on; and the claims that hold of every command alike. -/

namespace Sys2Proof.Machine

/-! ### The ends of a command -/

/-- What the state after a command is. -/
inductive Ends (s t : State) : Prop where
  | quiet (only : changesOnly s t quietParts)
  | batch (only : changesOnly s t (quietParts ++ [.changes, .batch])) (powered : s.powered = true)
      (set : t.changeSet.Sublist s.changeSet)
      (out : t.changeSet = s.changeSet ∧ t.attention = s.attention ∨ t.attention = !t.changeSet.isEmpty)
  | refusedKey (v : State) (c : Console) (src : ResultSource) (r : Result) (only : changesOnly s v quietParts)
      (h : t = (v.withResult c src r).composeAll v (some c))
  | settled (v u : State) (x : Option Console) (only : changesOnly s v quietParts) (powered : s.powered = true)
      (follows : Follows v u) (done : changesOnly (settle v u x) t [.exchange])

theorem takeChanges_ends (s : State) (q : Byte) :
    changesOnly s (s.takeChanges q).2 [.changes, .batch] ∧ (s.takeChanges q).2.changeSet.Sublist s.changeSet ∧
      ((s.takeChanges q).2.changeSet = s.changeSet ∧ (s.takeChanges q).2.attention = s.attention ∨
        (s.takeChanges q).2.attention = !(s.takeChanges q).2.changeSet.isEmpty) := by
  have fresh : changesOnly s (s.takeFresh q).2 [.changes, .batch] ∧
      (s.takeFresh q).2.changeSet.Sublist s.changeSet ∧
      ((s.takeFresh q).2.changeSet = s.changeSet ∧ (s.takeFresh q).2.attention = s.attention ∨
        (s.takeFresh q).2.attention = !(s.takeFresh q).2.changeSet.isEmpty) := by
    refine ⟨fun p hp => ?_, List.drop_sublist 16 _, .inr rfl⟩
    cases p <;> simp_all [State.same, sameAt, State.takeFresh]
  unfold State.takeChanges
  split
  · split
    · exact ⟨changesOnly_refl s _, List.Sublist.refl _, .inl ⟨rfl, rfl⟩⟩
    · exact fresh
  · exact fresh

theorem plantHunting_quiet (s : State) : changesOnly s s.plantHunting quietParts :=
  changesOnly_mono (changesOnly_plantHunting s) (by simp [quietParts])

theorem portHunting_quiet (s : State) (c : Console) : changesOnly s (s.portHunting c) quietParts :=
  changesOnly_mono (changesOnly_portHunting s c) (by simp [quietParts])

theorem unready_quiet (s : State) :
    changesOnly s (if s.powered && s.inHand.isSome then s.busyFrame else s) quietParts := by
  split
  · exact busyFrame_quiet s
  · exact changesOnly_refl s _

theorem linkReady_powered {s : State} (h : s.linkReady = true) : s.powered = true := (linkReady_plantRx h).1

theorem hears_powered {s : State} {c : Console} (h : s.hears c = true) : s.powered = true := by
  simp only [State.hears, Bool.and_eq_true] at h
  exact h.1.1

section Ends

variable {s t : State}

theorem request_ends {code seq : Byte} {act : Option (State → Verdict)} (h : request code seq act s = .next t)
    (fair : ∀ f, act = some f → ∀ v, (f v).Fair Follows v) : Ends s t := by
  have answered (v : State) (r : Reply) (hv : changesOnly s v quietParts) :
      changesOnly s (v.answer code seq r) quietParts :=
    changesOnly_mono (changesOnly_trans hv (changesOnly_answer v code seq r)) (by simp [quietParts])
  cases hr : s.linkReady with
  | false =>
    rw [request_unready hr] at h
    injection h with h
    exact .quiet (h ▸ unready_quiet s)
  | true =>
    rw [request_ready hr] at h
    injection h with h
    cases act with
    | none => exact .quiet (h ▸ answered _ _ (plantHunting_quiet s))
    | some f =>
      dsimp only [State.decide] at h
      split at h
      · next u hu =>
        exact .settled s.plantHunting u none (plantHunting_quiet s) (linkReady_powered hr)
          ((fair f rfl _).follows u hu) (h ▸ changesOnly_answer _ _ _ _)
      · exact .quiet (h ▸ answered _ _ (plantHunting_quiet s))

theorem withResult_follows {v u : State} (h : Follows v u) (c : Console) (src : ResultSource) (r : Result) :
    Follows v (u.withResult c src r) :=
  ⟨h.powered, h.pending, h.time, h.marks.setConsole c _, h.blocks⟩

theorem panel_ends {c : Console} {src : ResultSource} {act : State → Effect} (h : panelTelegram c src act s = .next t)
    (fair : ∀ v, (act v).keeps (Follows v)) : Ends s t := by
  unfold panelTelegram at h
  split at h
  · next hh =>
    dsimp only at h
    split at h
    · unfold State.finishTelegram at h
      split at h
      · next u hu =>
        injection h with h
        subst h
        exact .settled (s.portHunting c) _ (some c) (portHunting_quiet s c) (hears_powered hh)
          (withResult_follows (fair _ u hu) c src _) (changesOnly_refl _ _)
      · injection h with h
        exact .refusedKey (s.portHunting c) c src _ (portHunting_quiet s c) h.symm
    · injection h with h
      exact .quiet (h ▸ portHunting_quiet s c)
  · injection h with h
    exact .quiet (h ▸ changesOnly_refl s _)

theorem timed_ends {due : Bool} {u : State} (h : timed s due u = .next t) (hu : due = true → Follows s u) : Ends s t := by
  unfold timed at h
  split at h
  · next hd =>
    injection h with h
    simp only [Bool.and_eq_true] at hd
    exact .settled s u none (changesOnly_refl s _) hd.1 (hu hd.2) (h ▸ changesOnly_refl _ _)
  · injection h with h
    exact .quiet (h ▸ changesOnly_refl s _)

theorem bandChange_ends {l : Line} {x : Nat} (h : execBandChange l x s = .next t) : Ends s t := by
  have hv : changesOnly s { s with loops := s.loops.set l.val x l.isLt } quietParts := by
    intro p hp
    cases p <;> simp_all [quietParts, State.same, sameAt]
  unfold execBandChange at h
  dsimp only at h
  split at h
  · next hd =>
    injection h with h
    subst h
    simp only [Bool.and_eq_true] at hd
    exact .settled _ _ none hv hd.1 (bandChanged_follows _ l _) (changesOnly_refl _ _)
  · injection h with h
    exact .quiet (h ▸ hv)

theorem heartbeat_ends {c : Console} {x : Byte} (h : execHeartbeat c x s = .next t) : Ends s t := by
  unfold execHeartbeat at h
  split at h
  · next hh =>
    injection h with h
    subst h
    exact .settled (s.portHunting c) _ _ (portHunting_quiet s c) (hears_powered hh) (heartbeat_follows _ c _)
      (changesOnly_refl _ _)
  · injection h with h
    exact .quiet (h ▸ changesOnly_refl s _)

theorem readChanges_ends {q : Byte} (h : execReadChanges q s = .next t) : Ends s t := by
  unfold execReadChanges at h
  split at h
  · next hr =>
    injection h with h
    subst h
    obtain ⟨only, set, out⟩ := takeChanges_ends s.plantHunting q
    refine .batch (changesOnly_mono (changesOnly_trans (changesOnly_trans (plantHunting_quiet s) only)
      (changesOnly_answer _ _ _ _)) ?_) (linkReady_powered hr) set out
    simp [quietParts]
  · exact request_ends h fun f hf => by cases hf

end Ends

/-- Every command but a cold start and the loss of the supply ends in one of the ways listed. -/
theorem exec_ends {i : Instr} {s t : State} (h : exec i s = .next t) (hcold : ∀ m, i ≠ .coldStart m)
    (hloss : ∀ m, i ≠ .powerLoss m) : Ends s t := by
  cases exec_shape follows_ops i s hcold hloss with
  | request code seq act e fair => exact request_ends (e ▸ h) fair
  | panel c src act e fair _ => exact panel_ends (e ▸ h) fair
  | timed due u e fair _ => exact timed_ends (e ▸ h) fair
  | band l x e => subst e; exact bandChange_ends h
  | heartbeat c x e => subst e; exact heartbeat_ends h
  | changes q e => subst e; exact readChanges_ends h
  | quiet u e only _ _ =>
    rw [e] at h
    injection h with h
    exact .quiet (h ▸ only)

/-! ### What the read-outs and the panels see of a state -/

/-- Two states that the read-outs do not tell apart. -/
structure SameReadout (s t : State) : Prop where
  cfg : t.cfg = s.cfg
  lines : t.lines = s.lines
  live : t.live = s.live
  waiting : t.waiting = s.waiting
  routes : t.routes = s.routes
  day : t.day = s.day
  handovers : t.handovers = s.handovers
  links : sameAt (fun k => (k.link, k.count)) s t
  sessions : sameAt (fun k => (k.session, k.lastEnd)) s t
  flags : sameAt (fun k => (k.hornFault, k.underQualified)) s t
  loads : sameAt (fun k => (k.load, k.flooded, k.secondSum, k.secondTaken)) s t
  horns : sameAt (fun k => k.pattern) s t

/-- The parts that no read-out of R183 depends on. -/
def unreadParts : List Part := quietParts ++ [.supply, .time, .relay, .changes, .batch, .draws, .commands, .results]

theorem sameReadout_of {s t : State} (h : changesOnly s t unreadParts) : SameReadout s t where
  cfg := h .settings (by decide)
  lines := h .lines (by decide)
  live := h .table (by decide)
  waiting := h .queue (by decide)
  routes := h .routes (by decide)
  day := h .day (by decide)
  handovers := h .handovers (by decide)
  links := h .links (by decide)
  sessions := h .sessions (by decide)
  flags := h .flags (by decide)
  loads := h .loads (by decide)
  horns := h .horns (by decide)

namespace SameReadout

variable {s t : State} (h : SameReadout s t)
include h

theorem link (c : Console) : t.consoles[c].link = s.consoles[c].link := congrArg Prod.fst (h.links c)
theorem count (c : Console) : t.consoles[c].count = s.consoles[c].count := congrArg Prod.snd (h.links c)
theorem session (c : Console) : t.consoles[c].session = s.consoles[c].session := congrArg Prod.fst (h.sessions c)
theorem lastEnd (c : Console) : t.consoles[c].lastEnd = s.consoles[c].lastEnd := congrArg Prod.snd (h.sessions c)
theorem hornFault (c : Console) : t.consoles[c].hornFault = s.consoles[c].hornFault := congrArg Prod.fst (h.flags c)
theorem underQualified (c : Console) : t.consoles[c].underQualified = s.consoles[c].underQualified :=
  congrArg Prod.snd (h.flags c)
theorem load (c : Console) : t.consoles[c].load = s.consoles[c].load := congrArg (·.1) (h.loads c)
theorem flooded (c : Console) : t.consoles[c].flooded = s.consoles[c].flooded := congrArg (·.2.1) (h.loads c)
theorem pattern (c : Console) : t.consoles[c].pattern = s.consoles[c].pattern := h.horns c

theorem records : t.records = s.records := by simp only [State.records, h.live]

theorem find (p : Point) : t.find p = s.find p := by simp only [State.find, h.live]

theorem entryOf (p : Point) : t.entryOf p = s.entryOf p := by simp only [State.entryOf, h.waiting]

theorem pointView (p : Point) : t.pointView p = s.pointView p := by
  simp only [State.pointView, State.slotOf, State.recordOf, h.find, h.entryOf, h.cfg, h.lines]

theorem consoleView (c : Console) : t.consoleView c = s.consoleView c := by
  simp only [State.consoleView, State.heldCount, h.records, h.cfg, h.handovers, h.link, h.count, h.session, h.lastEnd,
    h.hornFault, h.underQualified, h.load, h.flooded, h.pattern]

theorem areaView (a : Area) : t.areaView a = s.areaView a := by
  simp only [State.areaView, State.areaCounts, h.records, h.cfg, h.routes]

theorem placeOf (o : Operator) : t.placeOf o = s.placeOf o := by
  simp only [State.placeOf, State.attachedAt, h.session, h.handovers]

theorem operatorView (o : Operator) : t.operatorView o = s.operatorView o := by
  simp only [State.operatorView, h.cfg, h.day, h.placeOf]

theorem handoverView (c : Console) : t.handoverView c = s.handoverView c := by
  have hk : t.itemKind = s.itemKind := funext fun it => by simp only [State.itemKind, h.cfg]
  simp only [State.handoverView, h.handovers, hk]

theorem attachedAt (c : Console) : t.attachedAt c = s.attachedAt c := by simp only [State.attachedAt, h.session]

theorem coAnnunciated (r : Record) : t.coAnnunciated r = s.coAnnunciated r := by
  simp only [State.coAnnunciated, h.hornFault]

theorem countedAt (c : Console) : t.countedAt c = s.countedAt c :=
  funext fun r => by simp only [State.countedAt, h.coAnnunciated]

/-- The panel sees the result of the last key beside what the read-outs see. -/
theorem telegramOf {c : Console} (hn : t.consoles[c].resultNumber = s.consoles[c].resultNumber)
    (hr : t.consoles[c].lastResult = s.consoles[c].lastResult) : t.telegramOf c = s.telegramOf c := by
  simp only [State.telegramOf, h.records, h.countedAt, h.handovers, h.pattern, h.flooded, h.waiting,
    h.underQualified, h.attachedAt, h.link, hn, hr]

end SameReadout

/-- The values of the read-out behind a reference are different in two states. -/
def viewDiffers (s t : State) : Ref → Prop
  | .point p => s.pointView p ≠ t.pointView p
  | .console c => s.consoleView c ≠ t.consoleView c
  | .area a => s.areaView a ≠ t.areaView a
  | .note n => s.cfg.notes[n] ≠ t.cfg.notes[n]
  | .operator o => s.operatorView o ≠ t.operatorView o
  | .handover c => s.handoverView c ≠ t.handoverView c

theorem mem_changedRefs (s t : State) (r : Ref) : r ∈ changedRefs s t ↔ viewDiffers s t r := by
  cases r <;> simp [changedRefs, viewDiffers]

theorem viewDiffers_congr {s t s' t' : State} (hs : SameReadout s s') (ht : SameReadout t t') (r : Ref) :
    viewDiffers s' t' r ↔ viewDiffers s t r := by
  cases r <;> simp only [viewDiffers, hs.pointView, ht.pointView, hs.consoleView, ht.consoleView, hs.areaView,
    ht.areaView, hs.cfg, ht.cfg, hs.operatorView, ht.operatorView, hs.handoverView, ht.handoverView]

theorem SameReadout.refl (s : State) : SameReadout s s := sameReadout_of (changesOnly_refl s _)

theorem SameReadout.of_quiet {s t : State} (h : changesOnly s t quietParts) : SameReadout s t :=
  sameReadout_of (changesOnly_mono h fun _ hp => List.mem_append_left _ hp)

theorem not_viewDiffers {s t : State} (h : SameReadout s t) (r : Ref) : ¬viewDiffers s t r := by
  rw [viewDiffers_congr (SameReadout.refl s) h]
  cases r <;> simp [viewDiffers]

theorem changesOnly_withResult (s : State) (c : Console) (src : ResultSource) (r : Result) :
    changesOnly s (s.withResult c src r) [.results] := by
  have hk (d : Console) : ∃ n x, (s.withResult c src r).consoles[d] =
      { s.consoles[d] with resultNumber := n, lastResult := x } := by
    simp only [State.withResult, State.setConsole_consoles, Fin.getElem_fin, upd_get]
    split
    · next e => subst e; exact ⟨_, _, rfl⟩
    · exact ⟨_, _, rfl⟩
  intro p hp
  cases p
  case results => simp at hp
  case links | sessions | flags | telegrams | loads | horns => intro d; obtain ⟨n, x, e⟩ := hk d; rw [e]
  all_goals first | rfl | exact ⟨rfl, rfl⟩

theorem composeAll_console (t s : State) (x : Option Console) (c : Console) :
    (t.composeAll s x).consoles[c] =
      if composes s t x c then (t.consoles[c]).compose (t.telegramOf c) else t.consoles[c] := by
  simp [State.composeAll]

theorem changesOnly_composeAll (t s : State) (x : Option Console) :
    changesOnly t (t.composeAll s x) [.telegrams] := by
  intro p hp
  cases p
  case telegrams => simp at hp
  case links | sessions | flags | results | loads | horns =>
    intro d
    rw [composeAll_console]
    split <;> simp
  all_goals simp [State.same]

/-- A key's refusal is seen by no read-out. -/
theorem refusedKey_readout {s v : State} {c : Console} {src : ResultSource} {r : Result}
    (h : changesOnly s v quietParts) : SameReadout s ((v.withResult c src r).composeAll v (some c)) := by
  refine sameReadout_of (changesOnly_mono (changesOnly_trans h (changesOnly_trans (changesOnly_withResult v c src r)
    (changesOnly_composeAll _ v (some c)))) ?_)
  simp [unreadParts, quietParts]

/-- The state of a settled event, before its telegrams are composed. -/
def settling (s u : State) : State := (u.rehorn.rerelay).markAll (changedRefs s u.rehorn.rerelay)

theorem settle_eq (s u : State) (x : Option Console) : settle s u x = (settling s u).composeAll s x := rfl

theorem settling_readout (s u : State) (x : Option Console) {t : State} (h : changesOnly (settle s u x) t [.exchange]) :
    SameReadout (settling s u) t :=
  sameReadout_of (changesOnly_mono (changesOnly_trans (changesOnly_composeAll (settling s u) s x) h)
    (by simp [unreadParts, quietParts]))

/-- A read-out that an event has changed is marked, and the attention output is on. -/
theorem marked_of_viewDiffers {s t : State} {r : Ref} (h : Ends s t) (hr : viewDiffers s t r) : r ∈ t.changeSet := by
  cases h with
  | quiet only => exact absurd hr (not_viewDiffers (.of_quiet only) r)
  | batch only _ _ _ =>
    exact absurd hr (not_viewDiffers (sameReadout_of (changesOnly_mono only (by simp [unreadParts, quietParts]))) r)
  | refusedKey v c src x only e => exact absurd hr (not_viewDiffers (e ▸ refusedKey_readout only) r)
  | settled v u x only _ _ done =>
    have hv : SameReadout v s := by
      have h' := SameReadout.of_quiet only
      exact ⟨h'.cfg.symm, h'.lines.symm, h'.live.symm, h'.waiting.symm, h'.routes.symm, h'.day.symm,
        h'.handovers.symm, fun c => (h'.links c).symm, fun c => (h'.sessions c).symm, fun c => (h'.flags c).symm,
        fun c => (h'.loads c).symm, fun c => (h'.horns c).symm⟩
    have hu : SameReadout u.rehorn.rerelay (settling v u) :=
      sameReadout_of (changesOnly_mono (m := unreadParts) (l := [.changes]) (fun p hp => by
        cases p <;> simp_all [State.same, sameAt, settling]) (by simp [unreadParts]))
    rw [viewDiffers_congr hv (settling_readout v u x done), viewDiffers_congr (.refl v) hu, ← mem_changedRefs] at hr
    have hset := (done .changes (by decide)).1
    rw [hset, settle_changeSet, mem_addRefs]
    exact .inr hr

/-! ### Marks of every change (R183) -/

section Data

variable {s t : State}

theorem pointData_congr {p : Point} (h : t.pointView p = s.pointView p) : t.pointData p = s.pointData p := by
  simp only [State.pointView, PointView.mk.injEq] at h
  obtain ⟨hc, hslot, hrec, hent, hline⟩ := h
  have hfind : t.find p = s.find p := by
    simp only [State.slotOf, State.recordOf] at hslot hrec
    revert hslot hrec
    rcases t.find p with _ | ⟨i, r⟩ <;> rcases s.find p with _ | ⟨j, q⟩ <;> simp
    exact fun hi hr => ⟨hi, hr⟩
  simp only [State.pointData, State.statusOf, State.recordOf, hfind, hent, hc]
  congr 1
  rw [hc] at hline
  split at hline <;> simp_all

theorem consoleData_congr {c : Console} (h : t.consoleView c = s.consoleView c) (ht : t.partTime = s.partTime) :
    t.consoleData c = s.consoleData c := by
  simp only [State.consoleView, ConsoleView.mk.injEq] at h
  obtain ⟨h1, h2, h3, h4, h5, h6, h7, h8, h9, h10, h11, h12, h13, h14⟩ := h
  simp only [State.consoleData, h1, h2, h3, h4, h5, h6, h7, h8, h9, h10, h11, h12, h13, h14, ht]

theorem areaData_congr {a : Area} (h : t.areaView a = s.areaView a) : t.areaData a = s.areaData a := by
  simp only [State.areaView, Prod.mk.injEq] at h
  obtain ⟨h1, h2, h3⟩ := h
  have h3 : t.areaCounts a = s.areaCounts a := Prod.ext (congrArg Prod.fst h3) (congrArg Prod.snd h3)
  simp only [State.areaData, h1, h2, h3]

theorem operatorData_congr {o : Operator} (h : t.operatorView o = s.operatorView o) :
    t.operatorData o = s.operatorData o := by
  simp only [State.operatorView, Prod.mk.injEq] at h
  obtain ⟨h1, h2, h3⟩ := h
  unfold State.operatorData
  cases hr : s.cfg.roster[o] with
  | none => simp only [h1, hr]
  | some r =>
    rw [hr] at h1
    rw [h1, hr] at h2
    have hday : r.expired t.day = r.expired s.day := h2
    simp only [h1, hday, h3]

theorem itemBytes_congr {it : Item} (h : t.itemKind it = s.itemKind it) : t.itemBytes it = s.itemBytes it := by
  simp only [State.itemBytes, State.itemBits, h]

theorem handoverData_congr {c : Console} {g : Fin 6} (h : t.handoverView c = s.handoverView c)
    (ht : t.partTime = s.partTime) : t.handoverData c g = s.handoverData c g := by
  simp only [State.handoverView, Prod.mk.injEq] at h
  obtain ⟨h1, h2⟩ := h
  rw [h1] at h2
  have hk := List.map_inj_left.1 h2
  have hbytes : (((s.handovers[c].phase.items.drop (16 * g.val)).take 16).flatMap t.itemBytes) =
      ((s.handovers[c].phase.items.drop (16 * g.val)).take 16).flatMap s.itemBytes :=
    List.flatMap_congr fun it hit =>
      itemBytes_congr (hk it (List.mem_of_mem_drop (List.mem_of_mem_take hit)))
  simp only [State.handoverData, h1, ht, hbytes]

end Data

theorem Ends.time {s t : State} (h : Ends s t) : t.partTime = s.partTime := by
  cases h with
  | quiet only => exact only .time (by decide)
  | batch only _ _ _ => exact only .time (by decide)
  | refusedKey v c src x only e =>
    rw [e, State.composeAll_partTime, State.withResult_partTime]
    exact only .time (by decide)
  | settled v u x only _ follows done =>
    have hd : t.partTime = (settle v u x).partTime := done .time (by decide)
    have hv : v.partTime = s.partTime := only .time (by decide)
    rw [hd, settle_partTime, follows.time, hv]

theorem unpowered_readout (s : State) (m : Bool) : SameReadout s (s.unpowered m) :=
  sameReadout_of fun p hp => by
    cases p <;> simp_all [unreadParts, quietParts, State.same, sameAt, State.unpowered]

/-- A read-out that a command has changed is marked; a cold start is excepted. -/
theorem exec_marks {i : Instr} {s t : State} (h : exec i s = .next t) (hcold : ∀ m, i ≠ .coldStart m) {r : Ref}
    (hr : viewDiffers s t r) : r ∈ t.changeSet := by
  by_cases hloss : ∃ m, i = .powerLoss m
  · obtain ⟨m, rfl⟩ := hloss
    injection h with h
    exact absurd hr (not_viewDiffers (h ▸ unpowered_readout s m) r)
  · exact marked_of_viewDiffers (exec_ends h hcold (not_exists.1 hloss)) hr

theorem exec_time {i : Instr} {s t : State} (h : exec i s = .next t) (hcold : ∀ m, i ≠ .coldStart m) :
    t.partTime = s.partTime := by
  by_cases hloss : ∃ m, i = .powerLoss m
  · obtain ⟨m, rfl⟩ := hloss
    injection h with h
    exact h ▸ rfl
  · exact (exec_ends h hcold (not_exists.1 hloss)).time

/-- Settles O4: the end of an event marks whatever its read-outs show changed, and the data of the answers are read off
the same values. -/
theorem everyChangeIsMarked : Obligations.EveryChangeIsMarked := by
  unfold Obligations.EveryChangeIsMarked
  refine ⟨fun i s t h hcold r hr => exec_marks h hcold ((mem_changedRefs s t r).1 hr), fun i s t h hcold => ?_⟩
  have ht := exec_time h hcold
  refine ⟨fun p hp => ?_, fun c hc => ?_, fun a ha => ?_, fun n hn => ?_, fun o ho => ?_, fun c g hg => ?_⟩
  · exact exec_marks h hcold fun e => hp (pointData_congr e.symm)
  · exact exec_marks h hcold fun e => hc (consoleData_congr e.symm ht)
  · exact exec_marks h hcold fun e => ha (areaData_congr e.symm)
  · exact exec_marks h hcold fun e => hn (by simp only [State.noteData, e])
  · exact exec_marks h hcold fun e => ho (operatorData_congr e.symm)
  · exact exec_marks h hcold fun e => hg (handoverData_congr e.symm ht)

/-! ### Completion (R-scope, "Outcomes") -/

theorem request_completes (code seq : Byte) (act : Option (State → Verdict)) (s : State) :
    ∃ t, request code seq act s = .next t := by
  cases hr : s.linkReady with
  | false => exact ⟨_, request_unready hr⟩
  | true => exact ⟨_, request_ready hr⟩

theorem exec_completes (i : Instr) (s : State) : ∃ t, exec i s = .next t := by
  by_cases hcold : ∃ m, i = .coldStart m
  · obtain ⟨m, rfl⟩ := hcold; exact ⟨_, rfl⟩
  by_cases hloss : ∃ m, i = .powerLoss m
  · obtain ⟨m, rfl⟩ := hloss; exact ⟨_, rfl⟩
  cases exec_shape follows_ops i s (not_exists.1 hcold) (not_exists.1 hloss) with
  | request code seq act e _ => rw [e]; exact request_completes code seq act s
  | panel c src act e _ _ =>
    rw [e]; unfold panelTelegram; dsimp only; repeat' split
    all_goals exact ⟨_, rfl⟩
  | timed due u e _ _ => rw [e]; unfold timed; split <;> exact ⟨_, rfl⟩
  | band l x e => subst e; show ∃ t, execBandChange l x s = _; unfold execBandChange; dsimp only; split <;> exact ⟨_, rfl⟩
  | heartbeat c x e => subst e; show ∃ t, execHeartbeat c x s = _; unfold execHeartbeat; split <;> exact ⟨_, rfl⟩
  | changes q e =>
    subst e; show ∃ t, execReadChanges q s = _
    unfold execReadChanges
    split
    · exact ⟨_, rfl⟩
    · exact request_completes _ _ _ _
  | quiet u e _ _ _ => exact ⟨u, e⟩

theorem exec_pending {i : Instr} {s t : State} (h : exec i s = .next t) : t.pending = s.pending := by
  by_cases hcold : ∃ m, i = .coldStart m
  · obtain ⟨m, rfl⟩ := hcold; injection h with h; exact h ▸ rfl
  by_cases hloss : ∃ m, i = .powerLoss m
  · obtain ⟨m, rfl⟩ := hloss; injection h with h; exact h ▸ rfl
  cases exec_ends h (not_exists.1 hcold) (not_exists.1 hloss) with
  | quiet only => exact only .commands (by decide)
  | batch only _ _ _ => exact only .commands (by decide)
  | refusedKey v c src x only e =>
    rw [e, State.composeAll_pending, State.withResult_pending]
    exact only .commands (by decide)
  | settled v u x only _ follows done =>
    have hd : t.pending = (settle v u x).pending := done .commands (by decide)
    have hv : v.pending = s.pending := only .commands (by decide)
    rw [hd, settle_pending, follows.pending, hv]

theorem step_completes (s : State) : Safe s := by
  unfold Safe step
  split
  · exact ⟨_, rfl⟩
  · exact exec_completes _ _

/-- Settles O1. -/
theorem stepRunsTheFrontCommand : Obligations.StepRunsTheFrontCommand := by
  unfold Obligations.StepRunsTheFrontCommand
  intro c rest s h
  unfold step
  rw [h]

/-- Settles O3, by the shapes of the commands. -/
theorem everyCommandCompletes : Obligations.EveryCommandCompletes := by
  unfold Obligations.EveryCommandCompletes
  exact ⟨⟨exec_completes, step_completes⟩, fun _ _ _ => exec_pending⟩

end Sys2Proof.Machine
end

section
/-! Claims about every command: telegrams (R143 to R145), authority (R126), refusals (R182), horns and relay (R93, R96),
the change set (R183, R184), the reset image, and the module without power (R189). -/

namespace Sys2Proof.Machine

/-! ### Telegrams -/

theorem carries_compose {k : ConsoleRecord} {x : Telegram} (h : k.link ≠ .off) :
    (k.compose x).inFlight = some x ∨ (k.compose x).pendingTelegram = some x := by
  unfold ConsoleRecord.compose
  split
  · next e => exact absurd e h
  · exact .inr rfl
  · split
    · exact .inl rfl
    · exact .inr rfl

theorem composeAll_telegramOf (t s : State) (x : Option Console) (c : Console) :
    (t.composeAll s x).telegramOf c = t.telegramOf c := by
  have h := changesOnly_composeAll t s x
  have hr := h .results (by decide) c
  exact (sameReadout_of (changesOnly_mono h (by simp [unreadParts, quietParts]))).telegramOf
    (congrArg Prod.fst hr) (congrArg Prod.snd hr)

/-- An event that composes a telegram for a console that is not OFF leaves it in flight or pending. -/
theorem composeAll_carries {t s : State} {x : Option Console} {c : Console} (hc : composes s t x c = true)
    (hl : t.consoles[c].link ≠ .off) : (t.composeAll s x).carries c := by
  unfold State.carries
  rw [composeAll_console, if_pos hc, composeAll_telegramOf]
  exact carries_compose hl

theorem linkByte_eq_iff (x y : Link) : linkByte x = linkByte y ↔ linkCode x = linkCode y := by
  cases x <;> cases y <;> simp [linkByte, linkCode]

theorem inCharge_isSome (x : Session) : x.inCharge.isSome = true ↔ x ≠ .none := by
  cases x <;> simp [Session.inCharge]

theorem inCharge_isNone (x : Session) : x.inCharge.isNone = true ↔ x = .none := by
  cases x <;> simp [Session.inCharge]

/-- What a panel is to be told of. -/
def panelDiffers (s t : State) (c : Console) : Prop :=
  s.telegramOf c ≠ t.telegramOf c ∨ linkCode s.consoles[c].link ≠ linkCode t.consoles[c].link ∨
    s.consoles[c].session ≠ .none ∧ t.consoles[c].session = .none

theorem composes_of_panelDiffers {s t : State} {x : Option Console} {c : Console} (h : panelDiffers s t c) :
    composes s t x c = true := by
  unfold composes sessionGone
  simp only [Bool.or_eq_true, bne_iff_ne, Bool.and_eq_true, inCharge_isSome, inCharge_isNone, ne_eq, linkByte_eq_iff]
  rcases h with h | h | h
  · exact .inl (.inl (.inr h))
  · exact .inl (.inr h)
  · exact .inr h

/-- Two states that a panel does not tell apart. -/
structure SamePanel (s t : State) (c : Console) : Prop where
  telegram : t.telegramOf c = s.telegramOf c
  link : t.consoles[c].link = s.consoles[c].link
  session : t.consoles[c].session = s.consoles[c].session

theorem panelDiffers_congr {s t s' t' : State} {c : Console} (hs : SamePanel s s' c) (ht : SamePanel t t' c) :
    panelDiffers s' t' c ↔ panelDiffers s t c := by
  unfold panelDiffers
  rw [hs.telegram, hs.link, hs.session, ht.telegram, ht.link, ht.session]

theorem SamePanel.refl (s : State) (c : Console) : SamePanel s s c := ⟨rfl, rfl, rfl⟩

theorem not_panelDiffers {s t : State} {c : Console} (h : SamePanel s t c) : ¬panelDiffers s t c := by
  rw [panelDiffers_congr (.refl s c) h]
  simp [panelDiffers]

/-- The parts that no panel depends on: those of no read-out, but for the results. -/
def unseenParts : List Part := quietParts ++ [.supply, .time, .relay, .changes, .batch, .draws, .commands]

theorem samePanel_of {s t : State} (h : changesOnly s t unseenParts) (c : Console) : SamePanel s t c := by
  have hs := sameReadout_of (changesOnly_mono h (by simp [unseenParts, unreadParts, quietParts]))
  have hr := h .results (by decide) c
  exact ⟨hs.telegramOf (congrArg Prod.fst hr) (congrArg Prod.snd hr), hs.link c, hs.session c⟩

theorem samePanel_of_quiet {s t : State} (h : changesOnly s t quietParts) (c : Console) : SamePanel s t c :=
  samePanel_of (changesOnly_mono h fun _ hp => List.mem_append_left _ hp) c

theorem carries_congr {s t : State} {c : Console} (h : changesOnly s t [.exchange]) : t.carries c ↔ s.carries c := by
  have ht := (samePanel_of (changesOnly_mono h (by simp [unseenParts, quietParts])) c).telegram
  have hx := h .telegrams (by decide) c
  have hflight : t.consoles[c].inFlight = s.consoles[c].inFlight := congrArg Prod.fst hx
  have hpending : t.consoles[c].pendingTelegram = s.consoles[c].pendingTelegram := congrArg Prod.snd hx
  unfold State.carries
  rw [hflight, hpending, ht]

/-- A panel is sent whatever a command changes of it. -/
theorem carries_of_panelDiffers {s t : State} {c : Console} (h : Ends s t) (hl : t.consoles[c].link ≠ .off)
    (hd : panelDiffers s t c) : t.carries c := by
  cases h with
  | quiet only => exact absurd hd (not_panelDiffers (samePanel_of_quiet only c))
  | batch only _ _ _ =>
    exact absurd hd (not_panelDiffers (samePanel_of (changesOnly_mono only (by simp [unseenParts, quietParts])) c))
  | refusedKey v d src r only e =>
    subst e
    by_cases hcd : d = c
    · subst hcd
      refine composeAll_carries (by simp [composes]) ?_
      rw [composeAll_console] at hl
      split at hl
      · rwa [Fin.getElem_fin, compose_link] at hl
      · exact hl
    · refine absurd hd (not_panelDiffers ?_)
      have hv := samePanel_of_quiet only c
      have hkey : (v.withResult d src r).consoles[c] = v.consoles[c] := by
        simp only [State.withResult, State.setConsole_consoles, Fin.getElem_fin]
        exact upd_get_other _ _ _ _ (Ne.symm hcd)
      have hw := refusedKey_readout (c := d) (src := src) (r := r) (changesOnly_refl v quietParts)
      have hn : ((v.withResult d src r).composeAll v (some d)).consoles[c].resultNumber =
          v.consoles[c].resultNumber ∧ ((v.withResult d src r).composeAll v (some d)).consoles[c].lastResult =
          v.consoles[c].lastResult := by
        rw [composeAll_console, hkey]
        split <;> simp
      exact ⟨(hw.telegramOf hn.1 hn.2).trans hv.telegram, (hw.link c).trans hv.link,
        (hw.session c).trans hv.session⟩
  | settled v u x only _ _ done =>
    have hsp := samePanel_of (changesOnly_mono done (m := unseenParts) (by simp [unseenParts, quietParts])) c
    have hcomp := changesOnly_composeAll (settling v u) v x
    have hsc := samePanel_of (changesOnly_mono hcomp (m := unseenParts) (by simp [unseenParts, quietParts])) c
    have hv := samePanel_of_quiet only c
    rw [carries_congr done, settle_eq]
    have hd' : panelDiffers v (settling v u) c := by
      have := (panelDiffers_congr (.refl s c) hsp).1 hd
      rw [settle_eq] at this
      have := (panelDiffers_congr (.refl s c) hsc).1 this
      exact (panelDiffers_congr hv (.refl _ c)).2 this
    refine composeAll_carries (composes_of_panelDiffers hd') ?_
    rw [hsp.link, settle_eq, hsc.link] at hl
    exact hl

theorem coAnnunciated_iff (s : State) (r : Record) : s.coAnnunciated r = true ↔ s.coHeard r := by
  unfold State.coAnnunciated State.coHeard
  cases r.route <;> simp [Priority.high]

theorem unacknowledged_iff (r : Record) :
    r.unacknowledged = true ↔ r.state = .raisedUnack ∨ r.state = .clearedUnack := by
  simp [Record.unacknowledged]

theorem countedAt_iff (s : State) (c : Console) (r : Record) : s.countedAt c r = true ↔ s.shownAt c r := by
  unfold State.countedAt State.shownAt
  simp only [Bool.and_eq_true, unacknowledged_iff, Bool.not_eq_true', Bool.or_eq_true, beq_iff_eq, coAnnunciated_iff,
    and_assoc]

theorem stage_ne_zero (x : Fin 3) : x ≠ 0 ↔ x = 1 ∨ x = 2 := by decide +revert

/-- A telegram of a console shows the values of R143. -/
theorem telegramOf_shows (s : State) (c : Console) : s.shows c (s.telegramOf c) := by
  have hcount : s.records.filter (s.countedAt c) = s.records.filter fun r => s.shownAt c r :=
    List.filter_congr fun r _ => by rw [Bool.eq_iff_iff, countedAt_iff, decide_eq_true_iff]
  constructor
  case count => intro h; simp only [State.telegramOf, h, hcount, Bool.false_eq_true, if_false]
  case review =>
    intro o i d l h
    have hunseen : (l.filter fun it => !it.seen) = l.filter fun it => it.seen = false :=
      List.filter_congr fun it _ => by cases it.seen <;> rfl
    simp only [State.telegramOf, h, Phase.inReview, if_true, Phase.unseen, Phase.items, hunseen]
  case reminder =>
    simp only [State.telegramOf, List.any_eq_true, List.mem_filter, countedAt_iff, bne_iff_ne, stage_ne_zero]
    exact exists_congr fun r => and_assoc
  case listFull => simp [State.telegramOf]
  case signedIn =>
    simp only [State.telegramOf, Option.isSome_iff_exists, attachedAt_eq_some_iff]
  case lampOff => intro h; simp only [State.telegramOf, h]
  case lampFlashing => intro o d l h; simp only [State.telegramOf, h]
  case lampSteady => intro o i d l h; simp only [State.telegramOf, h]
  case linkSteady => intro w h; simp only [State.telegramOf, h]
  case linkFlashing => intro w h; simp only [State.telegramOf, h]
  case linkOff => intro h; simp only [State.telegramOf, h]
  all_goals first | rfl | exact ⟨rfl, rfl⟩

/-- Settles O5: an event composes a telegram for every panel that it changes. -/
theorem everyPanelChangeIsSent : Obligations.EveryPanelChangeIsSent := by
  unfold Obligations.EveryPanelChangeIsSent
  refine ⟨fun i s t h hcold c hl hd => ?_, telegramOf_shows⟩
  by_cases hloss : ∃ m, i = .powerLoss m
  · obtain ⟨m, rfl⟩ := hloss
    injection h with h
    subst h
    have hp : changesOnly s (s.unpowered m) unseenParts := fun p hp => by
      cases p <;> simp_all [unseenParts, quietParts, State.same, sameAt, State.unpowered]
    exact absurd hd (not_panelDiffers (samePanel_of hp c))
  · exact carries_of_panelDiffers (exec_ends h hcold (not_exists.1 hloss)) hl hd

/-! ### Authority -/

theorem Ends.blocks {s t : State} (h : Ends s t) : sameBlocks s t ∨ s.supervised := by
  cases h with
  | quiet only => exact .inl (sameBlocks_of_cfg (only .settings (by decide)))
  | batch only _ _ _ => exact .inl (sameBlocks_of_cfg (only .settings (by decide)))
  | refusedKey v c src x only e =>
    have hv : v.cfg = s.cfg := only .settings (by decide)
    exact .inl (sameBlocks_of_cfg (by rw [e, State.composeAll_cfg, State.withResult_cfg, hv]))
  | settled v u x only _ follows done =>
    have hv := SameReadout.of_quiet only
    have hd : t.cfg = u.cfg := (done .settings (by decide)).trans (settle_cfg v u x)
    rcases follows.blocks with h | h
    · left
      simpa only [sameBlocks, hd, hv.cfg] using h
    · right
      have hlevel (o : Operator) (a : Area) : v.effectiveLevel o a = s.effectiveLevel o a := by
        simp only [State.effectiveLevel, hv.cfg, hv.day]
      simpa only [State.supervised, State.commissioning, hv.cfg, hv.session, hlevel] using h

theorem mem_toList_iff {α : Type} {n : Nat} (v : Vector α n) (x : α) : x ∈ v.toList ↔ ∃ i : Fin n, v[i] = x := by
  rw [Vector.mem_toList_iff, Vector.mem_iff_getElem]
  exact ⟨fun ⟨i, hi, e⟩ => ⟨⟨i, hi⟩, e⟩, fun ⟨i, e⟩ => ⟨i.val, i.isLt, e⟩⟩

theorem commissioning_iff (s : State) : s.commissioning = true ↔
    ∀ (o : Operator) (r : OperatorRecord), s.cfg.roster[o] = some r → r.status = .active →
      ∀ a : Area, r.grants[a] ≠ 4 := by
  unfold State.commissioning
  simp only [List.all_eq_true, mem_toList_iff, forall_exists_index, forall_apply_eq_imp_iff]
  refine forall_congr' fun o => ?_
  cases s.cfg.roster[o] with
  | none => simp
  | some r => cases hst : r.status <;> simp [hst, Fin.forall_iff]

/-- Settles O6: every store write but NOTE_ENTER's and NOTE_CLEAR's has passed the authority test of its request. -/
theorem storedContentsNeedASupervisor : Obligations.StoredContentsNeedASupervisor := by
  unfold Obligations.StoredContentsNeedASupervisor
  refine ⟨fun i s t h hcold => ?_, commissioning_iff⟩
  by_cases hloss : ∃ m, i = .powerLoss m
  · obtain ⟨m, rfl⟩ := hloss
    injection h with h
    exact .inl (sameBlocks_of_cfg (h ▸ rfl))
  · exact (exec_ends h hcold (not_exists.1 hloss)).blocks

/-! ### Refusals -/

/-- A request decided without an effect touches the exchange alone. -/
theorem changesOnly_answered (s : State) (code seq : Byte) (r : Reply) :
    changesOnly s (s.plantHunting.answer code seq r) linkParts :=
  (onlyAnswered_of s code seq r).2

theorem request_refused {s t : State} {code seq : Byte} {act : Option (State → Verdict)} {a : Answer}
    (hr : s.linkReady = true) (hl : s.linkAlarms) (fair : ∀ f, act = some f → ∀ v, (f v).Fair Follows v)
    (h : request code seq act s = .next t) (ha : t.inHand = some a) (hres : a.result ≠ none) :
    changesOnly s t linkParts := by
  rw [request_ready hr] at h
  injection h with h
  cases act with
  | none => exact h ▸ changesOnly_answered s code seq _
  | some f =>
    have hf := fair f rfl s.plantHunting
    dsimp only [State.decide] at h
    split at h
    · next u hu =>
      subst h
      have hreply : (f s.plantHunting).reply.result ≠ none := by
        rw [← Option.some.inj ha] at hres
        exact hres
      rw [hf.clean hl hreply] at hu
      cases hu
    · exact h ▸ changesOnly_answered s code seq _

/-- Settles O7: no verdict both refuses and leaves a state, but for a raise that brings a new cause. -/
theorem refusedRequestsChangeNothing : Obligations.RefusedRequestsChangeNothing := by
  unfold Obligations.RefusedRequestsChangeNothing
  intro i s t a hi hr hl h ha hres
  have hcold : ∀ m, i ≠ .coldStart m := by rintro m rfl; cases hi
  have hloss : ∀ m, i ≠ .powerLoss m := by rintro m rfl; cases hi
  cases exec_shape follows_ops i s hcold hloss with
  | request code seq act e fair => exact request_refused hr hl fair (e ▸ h) ha hres
  | panel c src act _ _ plain => rw [plain] at hi; cases hi
  | timed due u _ _ plain => rw [plain] at hi; cases hi
  | band l x e => subst e; cases hi
  | heartbeat c x e => subst e; cases hi
  | quiet u _ _ _ plain => rw [plain] at hi; cases hi
  | changes q e =>
    subst e
    have h : execReadChanges q s = .next t := h
    unfold execReadChanges at h
    rw [if_pos hr] at h
    injection h with h
    subst h
    rw [← Option.some.inj ha] at hres
    exact absurd rfl hres

/-! ### Horns and relay -/

theorem patternOf_congr {s t : State} (hlive : t.live = s.live)
    (hf : ∀ c : Console, t.consoles[c].hornFault = s.consoles[c].hornFault) (c : Console) :
    t.patternOf c = s.patternOf c := by
  have hsound : t.soundsAt c = s.soundsAt c := funext fun r => by
    simp only [State.soundsAt, State.soundsAtSupervisor, State.coAnnunciated, hf]
  have hrec : t.records = s.records := by simp only [State.records, hlive]
  unfold State.patternOf
  rw [hsound, hrec]

theorem relayWanted_congr {s t : State} (hlive : t.live = s.live)
    (hf : ∀ c : Console, t.consoles[c].hornFault = s.consoles[c].hornFault)
    (hl : ∀ c : Console, t.consoles[c].link = s.consoles[c].link) : t.relayWanted = s.relayWanted := by
  simp only [State.relayWanted, State.records, State.coAnnunciated, State.linkUp, hlive, hf, hl]

theorem soundLaw_of_readout {s t : State} (h : SameReadout s t) (hp : t.powered = s.powered)
    (hr : t.relay = s.relay) (l : s.soundLaw) : t.soundLaw := by
  intro ht
  obtain ⟨l1, l2⟩ := l (hp ▸ ht)
  refine ⟨?_, fun c => ?_⟩
  · rw [hr, l1, relayWanted_congr h.live h.hornFault h.link]
  · rw [h.pattern c, l2 c, patternOf_congr h.live h.hornFault c]

theorem settle_soundLaw (s u : State) (x : Option Console) : (settle s u x).soundLaw := by
  intro _
  have hlive : (settle s u x).live = u.live := settle_live s u x
  have hf : ∀ c : Console, (settle s u x).consoles[c].hornFault = u.consoles[c].hornFault := settle_hornFault s u x
  have hl : ∀ c : Console, (settle s u x).consoles[c].link = u.consoles[c].link := settle_link s u x
  refine ⟨?_, fun c => ?_⟩
  · rw [relayWanted_congr hlive hf hl, settle_eq, State.composeAll_relay, settling, State.markAll_relay]
    show u.rehorn.relayWanted = _
    exact relayWanted_congr (State.rehorn_live u) (fun c => by simp [State.rehorn]) fun c => by simp [State.rehorn]
  · rw [patternOf_congr hlive hf]
    exact settle_pattern s u x c

theorem Ends.soundLaw {s t : State} (h : Ends s t) (l : s.soundLaw) : t.soundLaw := by
  cases h with
  | quiet only => exact soundLaw_of_readout (.of_quiet only) (only .supply (by decide)) (only .relay (by decide)) l
  | batch only _ _ _ =>
    exact soundLaw_of_readout (sameReadout_of (changesOnly_mono only (by simp [unreadParts, quietParts])))
      (only .supply (by decide)) (only .relay (by decide)) l
  | refusedKey v c src x only e =>
    have hp : v.powered = s.powered := only .supply (by decide)
    have hr : v.relay = s.relay := only .relay (by decide)
    refine soundLaw_of_readout (e ▸ refusedKey_readout only) ?_ ?_ l
    · rw [e, State.composeAll_powered, State.withResult_powered, hp]
    · rw [e, State.composeAll_relay, State.withResult_relay, hr]
  | settled v u x _ _ _ done =>
    exact soundLaw_of_readout (sameReadout_of (changesOnly_mono done (by simp [unreadParts, quietParts])))
      (done .supply (by decide)) (done .relay (by decide)) (settle_soundLaw v u x)

theorem records_of_replicate {s : State} (h : s.live = Vector.replicate 64 none) : s.records = [] := by
  rw [List.eq_nil_iff_forall_not_mem]
  intro r hr
  obtain ⟨i, hi⟩ := (mem_records s r).1 hr
  rw [h] at hi
  simp at hi

theorem started_records (s : State) (st : Store) : (s.started st).records = [] := records_of_replicate rfl

theorem started_soundLaw (s : State) (st : Store) : (s.started st).soundLaw := by
  intro _
  refine ⟨?_, fun c => ?_⟩
  · simp only [State.relayWanted, started_records]; rfl
  · simp only [State.patternOf, started_records]
    simp [State.started, ConsoleRecord.start]

/-- A law that every command keeps, and a tick of part time, is kept by every step. -/
theorem step_keeps_of_exec {P : State → Prop} {s t : State} (hs : P s) (h : step s = .next t)
    (hpend : ∀ (u : State) (l : List Instr), P u → P { u with pending := l })
    (htick : ∀ u : State, P u → P u.tick) (hexec : ∀ (i : Instr) (u v : State), P u → exec i u = .next v → P v) :
    P t := by
  unfold step at h
  split at h
  · injection h with h; exact h ▸ htick s hs
  · exact hexec _ _ _ (hpend s _ hs) h

theorem tick_readout (s : State) : SameReadout s s.tick ∧ s.tick.powered = s.powered ∧ s.tick.relay = s.relay ∧
    s.tick.changeSet = s.changeSet ∧ s.tick.attention = s.attention := by
  unfold State.tick
  repeat' split
  · exact ⟨.refl s, rfl, rfl, rfl, rfl⟩
  · exact ⟨⟨rfl, rfl, rfl, rfl, rfl, rfl, rfl, fun _ => rfl, fun _ => rfl, fun _ => rfl, fun _ => rfl, fun _ => rfl⟩,
      rfl, rfl, rfl, rfl⟩
  · exact ⟨⟨rfl, rfl, rfl, rfl, rfl, rfl, rfl, fun _ => rfl, fun _ => rfl, fun _ => rfl, fun _ => rfl, fun _ => rfl⟩,
      rfl, rfl, rfl, rfl⟩

/-- Settles O15: the end of every event derives horns and relay afresh, and nothing else moves what they are derived
from. -/
theorem stepsKeepHornsAndRelay : Obligations.StepsKeepHornsAndRelay := by
  unfold Obligations.StepsKeepHornsAndRelay
  intro s t l h
  refine step_keeps_of_exec l h (fun u p hu => ?_) (fun u hu => ?_) fun i u v hu h => ?_
  · exact soundLaw_of_readout (s := u) ⟨rfl, rfl, rfl, rfl, rfl, rfl, rfl, fun _ => rfl, fun _ => rfl, fun _ => rfl,
      fun _ => rfl, fun _ => rfl⟩ rfl rfl hu
  · obtain ⟨hs, hp, hr, -, -⟩ := tick_readout u
    exact soundLaw_of_readout hs hp hr hu
  · by_cases hcold : ∃ m, i = .coldStart m
    · obtain ⟨m, rfl⟩ := hcold
      injection h with h
      exact h ▸ started_soundLaw _ _
    by_cases hloss : ∃ m, i = .powerLoss m
    · obtain ⟨m, rfl⟩ := hloss
      injection h with h
      exact h ▸ fun hp => absurd hp (by simp [State.unpowered])
    exact (exec_ends h (not_exists.1 hcold) (not_exists.1 hloss)).soundLaw hu

/-! ### The change set -/

theorem changeLaw_congr {s t : State} (hset : t.changeSet = s.changeSet) (hout : t.attention = s.attention)
    (hp : t.powered = s.powered) (l : s.changeLaw) : t.changeLaw := by
  unfold State.changeLaw at *
  rw [hset, hout, hp]
  exact l

theorem addRefs_isEmpty (l rs : List Ref) : (addRefs l rs).isEmpty = (l.isEmpty && rs.isEmpty) := by
  rw [Bool.eq_iff_iff]
  simp only [Bool.and_eq_true, List.isEmpty_iff, List.eq_nil_iff_forall_not_mem, mem_addRefs, not_or, forall_and]

theorem Marks.changeLaw {s t : State} (h : Marks s t) (hs : s.powered = true) (ht : t.powered = true)
    (l : s.changeLaw) : t.changeLaw := by
  obtain ⟨refs, hset, hout⟩ := h
  obtain ⟨l1, l2⟩ := l
  refine ⟨hset ▸ nodup_addRefs refs l1, ?_⟩
  rw [hout, hset, l2, hs, ht, addRefs_isEmpty]
  cases s.changeSet.isEmpty <;> cases refs.isEmpty <;> rfl

theorem settle_marks (s u : State) (x : Option Console) : Marks u (settle s u x) :=
  ⟨_, settle_changeSet s u x, settle_attention s u x⟩

theorem Ends.changeLaw {s t : State} (h : Ends s t) (l : s.changeLaw) : t.changeLaw := by
  cases h with
  | quiet only =>
    exact changeLaw_congr (only .changes (by decide)).1 (only .changes (by decide)).2 (only .supply (by decide)) l
  | batch only powered set out =>
    have hp : t.powered = s.powered := only .supply (by decide)
    rcases out with ⟨hset, hout⟩ | hout
    · exact changeLaw_congr hset hout hp l
    · exact ⟨l.1.sublist set, by rw [hout, hp, powered, Bool.true_and]⟩
  | refusedKey v c src x only e =>
    have hc := only .changes (by decide)
    have hp : v.powered = s.powered := only .supply (by decide)
    subst e
    refine changeLaw_congr (s := s) ?_ ?_ ?_ l
    · rw [State.composeAll_changeSet, State.withResult_changeSet, hc.1]
    · rw [State.composeAll_attention, State.withResult_attention, hc.2]
    · rw [State.composeAll_powered, State.withResult_powered, hp]
  | settled v u x only powered follows done =>
    have hv := only .changes (by decide)
    have hp : v.powered = s.powered := only .supply (by decide)
    have hd := done .changes (by decide)
    have hpv : v.powered = true := hp.trans powered
    have hpu : u.powered = true := follows.powered.trans hpv
    have hps : (settle v u x).powered = true := (settle_powered v u x).trans hpu
    refine changeLaw_congr hd.1 hd.2 (done .supply (by decide)) ?_
    exact (settle_marks v u x).changeLaw hpu hps
      (follows.marks.changeLaw hpv hpu (changeLaw_congr hv.1 hv.2 hp l))

theorem consoles_nodup : Ref.consoles.Nodup := by decide

theorem loadRefs_law (st : Store) : st.loadRefs.Nodup ∧ st.loadRefs ≠ [] := by
  unfold Store.loadRefs
  split
  · next c _ =>
    refine ⟨nodup_addRefs _ consoles_nodup, List.ne_nil_of_mem (a := Ref.console 0) ?_⟩
    rw [mem_addRefs]
    exact .inl (by decide)
  · exact ⟨consoles_nodup, by decide⟩

/-- Settles O19: the set grows by marks, which repeat none, and shrinks by the oldest alone. -/
theorem stepsKeepTheChangeSet : Obligations.StepsKeepTheChangeSet := by
  unfold Obligations.StepsKeepTheChangeSet
  intro s t l h
  refine step_keeps_of_exec l h (fun u p hu => hu) (fun u hu => ?_) fun i u v hu h => ?_
  · obtain ⟨-, hp, -, hset, hout⟩ := tick_readout u
    exact changeLaw_congr hset hout hp hu
  · by_cases hcold : ∃ m, i = .coldStart m
    · obtain ⟨m, rfl⟩ := hcold
      injection h with h
      subst h
      obtain ⟨h1, h2⟩ := loadRefs_law (u.store.cutOff m)
      exact ⟨h1, by simp [State.started, h2]⟩
    by_cases hloss : ∃ m, i = .powerLoss m
    · obtain ⟨m, rfl⟩ := hloss
      injection h with h
      exact h ▸ ⟨hu.1, rfl⟩
    exact (exec_ends h (not_exists.1 hcold) (not_exists.1 hloss)).changeLaw hu

/-! ### Without power -/

/-- Without power every command but a cold start, the loss of the supply and a change of a loop does nothing. -/
theorem exec_unpowered {i : Instr} {s : State} (hp : s.powered = false) (hcold : ∀ m, i ≠ .coldStart m)
    (hloss : ∀ m, i ≠ .powerLoss m) (hband : ∀ l x, i ≠ .bandChange l x) : exec i s = .next s := by
  have hready : s.linkReady = false := by simp [State.linkReady, hp]
  have hhears (c : Console) : s.hears c = false := by simp [State.hears, hp]
  have hreq (code seq : Byte) (act : Option (State → Verdict)) : request code seq act s = .next s := by
    rw [request_unready hready, hp]
    rfl
  cases exec_shape follows_ops i s hcold hloss with
  | request code seq act e _ => rw [e, hreq]
  | panel c src act e _ _ => rw [e, panelTelegram, hhears]; rfl
  | timed due u e _ _ => rw [e, timed, hp]; rfl
  | band l x e => exact absurd e (hband l x)
  | heartbeat c x e => subst e; show execHeartbeat c x s = _; rw [execHeartbeat, hhears]; rfl
  | changes q e => subst e; show execReadChanges q s = _; rw [execReadChanges, hready, if_neg Bool.false_ne_true, hreq]
  | quiet u e _ unpowered _ => rw [e, unpowered hp]

theorem cutOff_spec (st : Store) (cut : Bool) :
    (st.cutOff cut).copyA = (if cut = true ∧ st.writing = some .a then none else st.copyA) ∧
      (st.cutOff cut).copyB = (if cut = true ∧ st.writing = some .b then none else st.copyB) ∧
      (st.cutOff cut).generation = st.generation ∧ (st.cutOff cut).storeFault = st.storeFault ∧
      (st.cutOff cut).storeLost = st.storeLost ∧ (st.cutOff cut).writing = none := by
  unfold Store.cutOff
  rcases cut with _ | _ <;> rcases st.writing with _ | _ | _ <;> simp

/-- Settles O25. -/
theorem powerLossStopsTheModule : Obligations.PowerLossStopsTheModule := by
  unfold Obligations.PowerLossStopsTheModule
  refine ⟨fun cut s => ?_, fun i s hp hcold hloss hband => exec_unpowered hp hcold hloss hband⟩
  obtain ⟨ha, hb, hg, hf, hl, hw⟩ := cutOff_spec s.store cut
  refine ⟨s.unpowered cut, rfl, rfl, rfl, rfl, rfl, ha, hb, hg, hf, hl, hw, fun p hp => ?_⟩
  cases p <;> simp_all [State.same, sameAt, State.unpowered]

end Sys2Proof.Machine
end

section
/-! The live table under each operation: which records stand after it. And what each change of a record
makes of the law of the records (R38, R39, R48, R88). -/

namespace Sys2Proof.Machine

/-! ### What holds of all live records -/

/-- A property holds of every live record. -/
def State.all (s : State) (Q : Record → Prop) : Prop := ∀ r ∈ s.records, Q r

section All

variable {s t : State} {Q : Record → Prop}

theorem all_iff : s.all Q ↔ ∀ (i : Slot) (r : Record), s.live[i] = some r → Q r := by
  unfold State.all
  simp only [mem_records, forall_exists_index]
  exact ⟨fun h i r e => h r i e, fun h r i e => h i r e⟩

theorem all_of_live (h : t.live = s.live) (hs : s.all Q) : t.all Q := by
  simp only [all_iff, h] at *
  exact hs

theorem all_at (hs : s.all Q) {i : Slot} {r : Record} (h : s.live[i] = some r) : Q r := all_iff.1 hs i r h

theorem all_setSlot {i : Slot} {x : Option Record} (hs : s.all Q) (hx : ∀ r, x = some r → Q r) :
    (s.setSlot i x).all Q := by
  rw [all_iff] at *
  intro j r hr
  simp only [State.setSlot_live, Fin.getElem_fin, set_get] at hr
  split at hr
  · exact hx r hr
  · exact hs j r hr

theorem all_setSlot_some {i : Slot} {q : Record} (hs : s.all Q) (hq : Q q) : (s.setSlot i (some q)).all Q :=
  all_setSlot hs fun r e => by cases e; exact hq

theorem all_setSlot_none {i : Slot} (hs : s.all Q) : (s.setSlot i none).all Q :=
  all_setSlot hs fun r e => by cases e

theorem all_mapRecords {f : Record → Record} (hs : s.all Q) (hf : ∀ r, r ∈ s.records → Q r → Q (f r)) :
    (s.mapRecords f).all Q := by
  rw [all_iff]
  intro j r hr
  simp only [State.mapRecords, Fin.getElem_fin, Vector.getElem_ofFn, Option.map_eq_some_iff] at hr
  obtain ⟨q, hq, rfl⟩ := hr
  have hm : q ∈ s.records := (mem_records s q).2 ⟨j, hq⟩
  exact hf q hm (hs q hm)

theorem all_annunciate {i : Slot} {q : Record} (hs : s.all Q) (hq : Q (s.annunciated q)) :
    (s.annunciate i q).all Q :=
  all_of_live (s := s.setSlot i (some (s.annunciated q))) rfl (all_setSlot_some hs hq)

theorem all_reroute (hs : s.all Q) (hf : ∀ r, r ∈ s.records → Q r → s.routeChanges r.area = true →
    Q (s.moved r (s.routeOf r.area))) : s.reroute.all Q := by
  rw [all_iff]
  intro j r hr
  simp only [State.reroute, Fin.getElem_fin, Vector.getElem_ofFn, Option.map_eq_some_iff] at hr
  obtain ⟨q, hq, rfl⟩ := hr
  have hm : q ∈ s.records := (mem_records s q).2 ⟨j, hq⟩
  split
  · next hc => exact hf q hm (hs q hm) hc
  · exact hs q hm

/-- What the admission of an entry is read off: nothing that an admission changes. -/
structure SameGround (s u : State) : Prop where
  cfg : u.cfg = s.cfg
  routes : u.routes = s.routes
  time : u.partTime = s.partTime
  flooded : ∀ c : Console, u.consoles[c].flooded = s.consoles[c].flooded

theorem SameGround.refl (s : State) : SameGround s s := ⟨rfl, rfl, rfl, fun _ => rfl⟩

theorem SameGround.trans {u : State} (h : SameGround s t) (k : SameGround t u) : SameGround s u :=
  ⟨k.cfg.trans h.cfg, k.routes.trans h.routes, k.time.trans h.time, fun c => (k.flooded c).trans (h.flooded c)⟩

theorem annunciate_flooded (s : State) (i : Slot) (r : Record) (c : Console) :
    (s.annunciate i r).consoles[c].flooded = s.consoles[c].flooded := by
  unfold State.annunciate
  dsimp only
  split
  · next d _ =>
    simp only [Fin.getElem_fin, upd_get]
    split
    · next e => subst e; rfl
    · rfl
  · rfl

theorem admitEntry_ground (s : State) (i : Slot) (e : Entry) (l : List Entry) :
    SameGround s (State.admitEntry { s with waiting := l } i e) := by
  refine ⟨by simp, by simp, by simp, fun c => ?_⟩
  have h : (State.admitEntry { s with waiting := l } i e).consoles =
      (State.annunciate { s with waiting := l } i (s.recordOfEntry e)).consoles := by
    simp only [State.admitEntry, State.markAll_consoles, State.admitRecord, State.appendItem_consoles]
    rfl
  rw [h]
  exact annunciate_flooded _ i _ c

theorem admitEntry_live (s : State) (i : Slot) (e : Entry) (l : List Entry) :
    (State.admitEntry { s with waiting := l } i e).live =
      s.live.set i.val (some (s.annunciated (s.recordOfEntry e))) i.isLt := by
  simp only [State.admitEntry, State.markAll_live, State.admitRecord, State.appendItem_live]
  rfl

/-- What holds of every record, and of every entry as it is admitted, holds of every record after the filling. -/
theorem all_fillFrom (l : List Entry) (hs : s.all Q)
    (he : ∀ e ∈ l, ∀ u, SameGround s u → Q (u.annunciated (u.recordOfEntry e))) : (State.fillFrom l s).all Q := by
  induction l generalizing s with
  | nil => exact hs
  | cons e es ih =>
    unfold State.fillFrom
    split
    · next i _ =>
      have hg := admitEntry_ground s i e es
      refine ih ?_ fun x hx u hu => he x (List.mem_cons_of_mem _ hx) u (hg.trans hu)
      refine all_of_live (s := s.setSlot i (some (s.annunciated (s.recordOfEntry e)))) (admitEntry_live s i e es) ?_
      exact all_setSlot_some hs (he e (List.mem_cons_self ..) s (.refl s))
    · exact hs

theorem fillFrom_waiting (l : List Entry) (s : State) (h : s.waiting = l) : (State.fillFrom l s).waiting <:+ l := by
  induction l generalizing s with
  | nil => rw [show State.fillFrom [] s = s from rfl, h]
  | cons e es ih =>
    unfold State.fillFrom
    split
    · next i _ =>
      exact (ih (State.admitEntry { s with waiting := es } i e) (by simp)).trans (List.suffix_cons e es)
    · rw [h]

theorem fill_waiting (s : State) : s.fill.waiting <:+ s.waiting := fillFrom_waiting _ s rfl

theorem all_fill (hs : s.all Q) (he : ∀ e ∈ s.waiting, ∀ u, SameGround s u → Q (u.annunciated (u.recordOfEntry e))) :
    s.fill.all Q := all_fillFrom _ hs he

end All

/-! ### The law of the records -/

/-- What an annunciation needs of a record to leave it lawful: all of the law but what the annunciation sets. -/
structure Record.Annunciable (r : Record) : Prop where
  standing : r.state = .raisedUnack ∨ r.state = .acked → r.condition = .active
  returned : r.state = .clearedUnack ∨ r.state = .resetWait → r.condition = .gone
  shelf : r.state = .shelved ↔ r.shelfEnd.isSome = true
  shelver : r.state = .shelved ↔ r.shelvedBy.isSome = true
  counted : 1 ≤ r.occurrences ∧ r.occurrences ≤ 255
  selfClearing : r.cls = .selfClearing → r.state = .raisedUnack ∨ r.state = .acked ∨ r.state = .shelved
  locking : r.cls = .locking → r.state ≠ .resetWait

theorem holds_iff (s : State) (r : Record) (x : Option Console) :
    s.holds r x = true ↔ r.state = .raisedUnack ∧ r.priority.high = false ∧
      ∃ c, x = some c ∧ s.consoles[c].flooded = true := by
  unfold State.holds
  cases x <;> simp [and_assoc]

theorem annunciated_lawful {s : State} {r : Record} (h : r.Annunciable) : (s.annunciated r).lawful := by
  obtain ⟨standing, returned, shelf, shelver, counted, selfClearing, locking⟩ := h
  constructor <;> try assumption
  case staged => intro hs; exact absurd rfl hs
  case held =>
    intro hh
    obtain ⟨h1, h2, -⟩ := (holds_iff s r _).1 hh
    exact ⟨h1, h2, rfl⟩
  case fresh => intro hst; exact if_pos hst

theorem bumped_range (n : Nat) : 1 ≤ bumped n ∧ bumped n ≤ 255 := by unfold bumped; omega

theorem freshRecord_annunciable (s : State) (p : Point) (k : Cause) : (s.freshRecord p k).Annunciable := by
  constructor <;> simp [State.freshRecord]

/-- The law of one waiting entry, under the configuration of its point. -/
def Entry.lawful (cfg : Settings) (e : Entry) : Prop :=
  1 ≤ e.occurrences ∧ e.occurrences ≤ 255 ∧ (e.condition = .gone → cfg.points[e.point].cls ≠ .selfClearing)

theorem recordLaw_iff (s : State) : s.recordLaw ↔ s.all Record.lawful ∧ ∀ e ∈ s.waiting, e.lawful s.cfg := Iff.rfl

theorem recordOfEntry_annunciable {s : State} {e : Entry} (h : e.lawful s.cfg) : (s.recordOfEntry e).Annunciable := by
  obtain ⟨h1, h2, h3⟩ := h
  cases hc : e.condition
  · constructor <;> simp_all [State.recordOfEntry, State.freshRecord]
  · have h3 := h3 hc
    constructor <;> simp_all [State.recordOfEntry, State.freshRecord]

theorem reraised_annunciable {r : Record} (h : r.lawful) (hs : r.state = .clearedUnack ∨ r.state = .resetWait)
    (k : Cause) : Record.Annunciable { r with
      state := .raisedUnack, condition := .active, cause := k, occurrences := bumped r.occurrences } := by
  have hn : r.state ≠ .shelved := by rcases hs with e | e <;> rw [e] <;> decide
  have h1 := h.shelf.not.1 hn
  have h2 := h.shelver.not.1 hn
  have hb := bumped_range r.occurrences
  constructor <;> simp_all

theorem unshelved_annunciable {r : Record} (h : r.lawful) (hc : r.condition = .active) :
    Record.Annunciable { r with state := .raisedUnack, shelvedBy := none, shelfEnd := none } := by
  have hb := h.counted
  constructor <;> simp_all

theorem lawful_cause {r : Record} (h : r.lawful) (k : Cause) : Record.lawful { r with cause := k } :=
  ⟨h.standing, h.returned, h.staged, h.held, h.shelf, h.shelver, h.fresh, h.counted, h.selfClearing, h.locking⟩

theorem lawful_shelved_raise {r : Record} (h : r.lawful) (hs : r.state = .shelved) (k : Cause) :
    Record.lawful { r with condition := .active, cause := k, occurrences := bumped r.occurrences } := by
  obtain ⟨standing, returned, staged, held, shelf, shelver, fresh, counted, selfClearing, locking⟩ := h
  have hb := bumped_range r.occurrences
  constructor <;> simp_all [Record.unacknowledged]

theorem lawful_shelved_clear {r : Record} (h : r.lawful) (hs : r.state = .shelved) :
    Record.lawful { r with condition := .gone } := by
  obtain ⟨standing, returned, staged, held, shelf, shelver, fresh, counted, selfClearing, locking⟩ := h
  constructor <;> simp_all [Record.unacknowledged]

theorem clearedRecord_lawful {s : State} {r : Record} (h : r.lawful) (hs : r.state = .raisedUnack)
    (hc : r.cls ≠ .selfClearing) : (s.clearedRecord r).lawful := by
  obtain ⟨standing, returned, staged, held, shelf, shelver, fresh, counted, selfClearing, locking⟩ := h
  unfold State.clearedRecord
  dsimp only
  split
  · constructor <;> simp_all [Record.release, Record.unacknowledged]
  · constructor <;> simp_all [Record.unacknowledged]

theorem resetWait_lawful {r : Record} (h : r.lawful) (hs : r.state = .acked) (hc : r.cls = .held) :
    Record.lawful { r with state := .resetWait, condition := .gone } := by
  obtain ⟨standing, returned, staged, held, shelf, shelver, fresh, counted, selfClearing, locking⟩ := h
  constructor <;> simp_all [Record.unacknowledged]

theorem acknowledged_lawful {r : Record} (h : r.lawful) (o : Operator) {st : RecordState}
    (hst : r.state = .raisedUnack ∧ st = .acked ∨ r.state = .clearedUnack ∧ r.cls = .held ∧ st = .resetWait) :
    (r.acknowledged st o).lawful := by
  obtain ⟨standing, returned, staged, held, shelf, shelver, fresh, counted, selfClearing, locking⟩ := h
  rcases hst with ⟨hr, rfl⟩ | ⟨hr, hc, rfl⟩
  · constructor <;> simp_all [Record.acknowledged]
  · constructor <;> simp_all [Record.acknowledged]

theorem shelve_lawful {r : Record} (h : r.lawful) (hs : r.state = .raisedUnack ∨ r.state = .acked) (o : Operator)
    (n : Nat) : (r.shelve o n).lawful := by
  obtain ⟨standing, returned, staged, held, shelf, shelver, fresh, counted, selfClearing, locking⟩ := h
  constructor <;> simp_all [Record.shelve]

theorem escalates_iff (r : Record) : r.escalates = true ↔ r.unacknowledged = true ∧ r.floodHeld = false := by
  simp [Record.escalates]

theorem remind_lawful {r : Record} (h : r.lawful) (he : r.escalates = true) : r.remind.lawful := by
  obtain ⟨hu, hf⟩ := (escalates_iff r).1 he
  exact ⟨h.standing, h.returned, fun _ => hu, fun e => absurd (hf.symm.trans e) Bool.false_ne_true, h.shelf,
    h.shelver, h.fresh, h.counted, h.selfClearing, h.locking⟩

theorem escalate_lawful {r : Record} (h : r.lawful) (he : r.escalates = true) : r.escalate.lawful := by
  obtain ⟨hu, hf⟩ := (escalates_iff r).1 he
  exact ⟨h.standing, h.returned, fun _ => hu, fun e => absurd (hf.symm.trans e) Bool.false_ne_true, h.shelf,
    h.shelver, h.fresh, h.counted, h.selfClearing, h.locking⟩

theorem silenced_lawful {s : State} {c : Console} {r : Record} (h : r.lawful) : (s.silenced c r).lawful :=
  ⟨h.standing, h.returned, h.staged, h.held, h.shelf, h.shelver, h.fresh, h.counted, h.selfClearing, h.locking⟩

theorem release_lawful {r : Record} (h : r.lawful) (n : Nat) : (r.release n).lawful :=
  ⟨h.standing, h.returned, fun e => absurd rfl e, fun e => absurd e (by simp [Record.release]), h.shelf, h.shelver,
    h.fresh, h.counted, h.selfClearing, h.locking⟩

/-- A reroute moves a record as R13 and R109 say. -/
theorem moved_eq (s : State) (r : Record) (x : Option Console) : s.moved r x = movedTo s r x := by
  unfold State.moved movedTo
  cases x with
  | none => cases hf : r.floodHeld <;> simp [Record.release]
  | some c => cases hf : r.floodHeld <;> cases hk : s.consoles[c].flooded <;> simp_all [Record.release]

theorem moved_same (s : State) (r : Record) (x : Option Console) : (s.moved r x).point = r.point ∧
    (s.moved r x).priority = r.priority ∧ (s.moved r x).area = r.area ∧ (s.moved r x).cls = r.cls ∧
    (s.moved r x).route = x := by
  rw [moved_eq]
  unfold movedTo
  split <;> exact ⟨rfl, rfl, rfl, rfl, rfl⟩

theorem moved_point (s : State) (r : Record) (x : Option Console) : (s.moved r x).point = r.point :=
  (moved_same s r x).1

theorem moved_lawful {s : State} {r : Record} (h : r.lawful) (x : Option Console) : (s.moved r x).lawful := by
  have h' : Record.lawful { r with route := x, silencedAtRoute := false, silencedAtSupervisor := false } :=
    ⟨h.standing, h.returned, h.staged, h.held, h.shelf, h.shelver, h.fresh, h.counted, h.selfClearing, h.locking⟩
  rw [moved_eq]
  unfold movedTo
  split
  · exact release_lawful h' s.partTime
  · exact h'

theorem advance_lawful {p : Params} {n : Nat} {r : Record} (h : r.lawful) : (p.advance n r).lawful := by
  unfold Params.advance
  split
  · next he => exact escalate_lawful h (reached_escalation he)
  · split
    · next he => exact remind_lawful h (reached_reminder he)
    · exact h

section Points

variable {s t : State}

/-- A point that is NORMAL has no record and no entry. -/
theorem statusOf_normal {p : Point} (h : s.statusOf p = .normal) : s.find p = none ∧ s.entryOf p = none := by
  unfold State.statusOf State.recordOf at h
  cases hf : s.find p with
  | some x => rw [hf] at h; simp at h
  | none =>
    rw [hf] at h
    cases he : s.entryOf p with
    | some e => rw [he] at h; simp at h
    | none => exact ⟨rfl, rfl⟩

theorem entryOf_none {p : Point} (h : s.entryOf p = none) (e : Entry) (he : e ∈ s.waiting) : e.point ≠ p := by
  have := List.find?_eq_none.1 h e he
  simpa using this

theorem writeRefusal_normal {c : Console} {o : Option Operator} {p : Point} {n : PointConfig}
    (h : s.pointWriteRefusal c o p n = none) : s.statusOf p = .normal := by
  have := firstRefusal_none.1 h (s.statusOf p == .normal, .wrongState) (by simp)
  simpa using this

theorem setPoint_points_other (p q : Point) (n : PointConfig) (h : q ≠ p) :
    (s.setPoint p n).cfg.points[q] = s.cfg.points[q] := by
  simp only [State.setPoint_cfg, Fin.getElem_fin, set_get, if_neg h]

theorem mem_insertEntry (e x : Entry) (l : List Entry) : x ∈ insertEntry e l ↔ x = e ∨ x ∈ l := by
  induction l with
  | nil => simp [insertEntry]
  | cons y ys ih =>
    unfold insertEntry
    split
    · rw [List.mem_cons, ih, List.mem_cons]; tauto
    · simp

end Points

end Sys2Proof.Machine
end

section
/-! The console records under each operation: which fields an operation leaves at every console. Said here for the load
fields (R99 to R101), which only an annunciation and a second's end move. -/

namespace Sys2Proof.Machine

section SameAt

variable {α : Type} {g : ConsoleRecord → α} {s t u : State}

theorem sameAt_refl (g : ConsoleRecord → α) (s : State) : sameAt g s s := fun _ => rfl

theorem sameAt_trans (h : sameAt g s t) (k : sameAt g t u) : sameAt g s u := fun c => (k c).trans (h c)

theorem sameAt_of_consoles (h : t.consoles = s.consoles) : sameAt g s t := fun c => by rw [h]

/-- One console's record changes, but not what is read of it. -/
theorem sameAt_upd {c : Console} {f : ConsoleRecord → ConsoleRecord} (h : t.consoles = upd s.consoles c f)
    (hf : g (f s.consoles[c]) = g s.consoles[c]) : sameAt g s t := by
  intro d
  rw [h]
  simp only [Fin.getElem_fin, upd_get]
  split
  · next e => subst e; exact hf
  · rfl

theorem sameAt_setConsole (c : Console) {f : ConsoleRecord → ConsoleRecord}
    (hf : g (f s.consoles[c]) = g s.consoles[c]) : sameAt g s (s.setConsole c f) := sameAt_upd rfl hf

/-- Some consoles' records change, but not what is read of them. -/
theorem sameAt_ofFn {p : Console → Bool} {f : Console → ConsoleRecord}
    (h : t.consoles = Vector.ofFn fun c => if p c then f c else s.consoles[c])
    (hf : ∀ c, p c = true → g (f c) = g s.consoles[c]) : sameAt g s t := by
  intro d
  rw [h]
  simp only [Fin.getElem_fin, Vector.getElem_ofFn]
  split
  · next e => exact hf d e
  · rfl

theorem sameAt_foldl {β : Type} {f : State → β → State} (l : List β) (h : ∀ u x, sameAt g u (f u x)) (s : State) :
    sameAt g s (l.foldl f s) := by
  induction l generalizing s with
  | nil => exact sameAt_refl g s
  | cons x xs ih => exact sameAt_trans (h s x) (ih (f s x))

/-- After a change that left a field at every console: what the next operation leaves of it. -/
theorem sameAt_after_markAll (h : sameAt g s t) (l : List Ref) : sameAt g s (t.markAll l) := h

theorem sameAt_after_storeWrite (h : sameAt g s t) : sameAt g s t.storeWrite := h

theorem sameAt_after_reroute (h : sameAt g s t) : sameAt g s t.reroute :=
  sameAt_trans h (sameAt_of_consoles (State.reroute_consoles t))

theorem sameAt_after_rerouteStep (h : sameAt g s t) : sameAt g s t.rerouteStep :=
  sameAt_trans h (sameAt_of_consoles (State.rerouteStep_consoles t))

theorem sameAt_after_abortHandover (h : sameAt g s t) (c : Console) (x : HandoverOutcome) :
    sameAt g s (t.abortHandover c x) :=
  sameAt_trans h (sameAt_of_consoles (State.abortHandover_consoles t c x))

theorem sameAt_after_setConsole (h : sameAt g s t) (c : Console) {f : ConsoleRecord → ConsoleRecord}
    (hf : ∀ k, g (f k) = g k) : sameAt g s (t.setConsole c f) := sameAt_trans h (sameAt_setConsole c (hf _))

end SameAt

/-! ### The load fields -/

/-- The load fields of a console record. -/
abbrev ConsoleRecord.loads (k : ConsoleRecord) : Nat × Bool × Nat × Nat := (k.load, k.flooded, k.secondSum, k.secondTaken)

section Loads

variable (s : State)

theorem requalify_loads (l : List Console) : sameAt ConsoleRecord.loads s (s.requalify l) :=
  sameAt_ofFn rfl fun _ _ => rfl

theorem moveSessions_loads (o : Operator) : sameAt ConsoleRecord.loads s (s.moveSessions o) :=
  sameAt_ofFn rfl fun _ _ => rfl

theorem dropSession_loads (c : Console) (x : EndCause) : sameAt ConsoleRecord.loads s (s.dropSession c x) :=
  sameAt_after_markAll (sameAt_setConsole c rfl) _

theorem endSession_loads (c : Console) (x : EndCause) : sameAt ConsoleRecord.loads s (s.endSession c x) := by
  unfold State.endSession
  split
  · exact sameAt_refl _ s
  · exact sameAt_after_markAll (sameAt_after_rerouteStep (dropSession_loads s c x)) _

theorem detach_loads (c : Console) : sameAt ConsoleRecord.loads s (s.detach c) := by
  unfold State.detach
  split
  · exact sameAt_after_markAll (sameAt_setConsole c rfl) _
  · exact sameAt_refl _ s

theorem loseLink_loads (c : Console) : sameAt ConsoleRecord.loads s (s.loseLink c) := by
  unfold State.loseLink
  split
  · next w _ =>
    have h : sameAt ConsoleRecord.loads s (s.setConsole c fun k => { k with link := .lost w }) := sameAt_setConsole c rfl
    exact sameAt_trans (sameAt_after_abortHandover (sameAt_after_markAll h _) c _) (detach_loads _ c)
  · exact sameAt_refl _ s

theorem failWindow_loads (c : Console) (n : Nat) : sameAt ConsoleRecord.loads s (s.failWindow c n) := by
  unfold State.failWindow
  dsimp only
  split
  · refine sameAt_after_rerouteStep (sameAt_trans ?_ (loseLink_loads _ c))
    exact sameAt_after_markAll (sameAt_setConsole c rfl) _
  · exact sameAt_after_markAll (sameAt_setConsole c rfl) _

theorem bringUp_loads (c : Console) : sameAt ConsoleRecord.loads s (s.bringUp c) :=
  sameAt_after_reroute (sameAt_setConsole c rfl)

theorem hornReport_loads (c : Console) (b : Bool) : sameAt ConsoleRecord.loads s (s.hornReport c b) := by
  unfold State.hornReport
  split
  · have h := sameAt_of_consoles (g := ConsoleRecord.loads) (State.mapRecords_consoles s fun r =>
      if s.unheardAt c r then { r with silencedAtSupervisor := false } else r)
    exact sameAt_after_markAll (t := s.faultHorn c)
      (sameAt_after_setConsole h c (f := fun k => { k with hornFault := true }) fun _ => rfl) _
  · exact sameAt_refl _ s

theorem signIn_loads (c : Console) (o : Operator) : sameAt ConsoleRecord.loads s (s.signIn c o) := by
  unfold State.signIn
  refine sameAt_after_markAll (sameAt_after_rerouteStep (sameAt_trans ?_ (requalify_loads _ [c]))) _
  exact sameAt_after_setConsole (moveSessions_loads s o) c fun _ => rfl

theorem comeIn_loads (c : Console) (o : Operator) : sameAt ConsoleRecord.loads s (s.comeIn c o) := by
  unfold State.comeIn
  dsimp only
  split
  · exact sameAt_of_consoles (by rw [State.markAll_consoles, State.setPhase_consoles])
  · refine sameAt_trans (sameAt_after_rerouteStep (moveSessions_loads s o)) (sameAt_of_consoles ?_)
    rw [State.markAll_consoles, State.setPhase_consoles]

theorem restartPort_loads (c : Console) : sameAt ConsoleRecord.loads s (s.restartPort c) := by
  unfold State.restartPort
  have h := sameAt_after_setConsole (sameAt_after_abortHandover (sameAt_refl ConsoleRecord.loads s) c .restart) c
    (f := fun k => k.cleared .down) fun _ => rfl
  exact sameAt_after_markAll (sameAt_after_rerouteStep (sameAt_trans h (detach_loads _ c))) _

theorem setEnabled_loads (c : Console) (b : Bool) : sameAt ConsoleRecord.loads s (s.setEnabled c b) := by
  refine sameAt_upd (c := c) (f := fun k => if b then { k with link := .down, count := 0 } else k.cleared .off)
    (by simp [State.setEnabled]) ?_
  cases b <;> rfl

theorem acceptDesk_loads (c : Console) (o i : Operator) : sameAt ConsoleRecord.loads s (s.acceptDesk c o i) := by
  unfold State.acceptDesk
  dsimp only
  refine sameAt_after_markAll (sameAt_trans ?_ (requalify_loads _ [c])) _
  exact sameAt_setConsole c rfl

theorem dropSuspended_loads (l : List Console) : sameAt ConsoleRecord.loads s (s.dropSuspended l) := by
  intro d
  simp only [State.dropSuspended, State.markAll_consoles, Fin.getElem_fin, Vector.getElem_ofFn]
  split <;> rfl

theorem endSuspended_loads (l : List Console) : sameAt ConsoleRecord.loads s (s.endSuspended l) := by
  unfold State.endSuspended
  split
  · exact sameAt_refl _ s
  · exact sameAt_after_markAll (sameAt_after_rerouteStep (dropSuspended_loads s l)) _

theorem suspend_loads (o : Operator) : sameAt ConsoleRecord.loads s (s.suspend o) := by
  unfold State.suspend
  dsimp only
  refine sameAt_after_storeWrite (sameAt_after_markAll (sameAt_trans ?_ (endSuspended_loads _ _)) _)
  exact sameAt_foldl (s.handoversOf o) (fun u c => sameAt_after_abortHandover (sameAt_refl _ u) c _) (s.setStatus o .suspended)

theorem capCounts_loads : sameAt ConsoleRecord.loads s s.capCounts := by
  intro c
  simp [ConsoleRecord.capped]

theorem relimit_loads : sameAt ConsoleRecord.loads s s.relimit := by
  unfold State.relimit
  dsimp only
  split
  · exact capCounts_loads s
  · exact sameAt_after_rerouteStep (sameAt_trans (capCounts_loads s) (sameAt_foldl _ (fun u c => loseLink_loads u c) _))

theorem takeParams_loads (w : Parameter) (p : Params) : sameAt ConsoleRecord.loads s (s.takeParams w p) := by
  have h : sameAt ConsoleRecord.loads s (s.setParams p) := sameAt_of_consoles (by simp)
  unfold State.takeParams
  dsimp only
  split
  · exact sameAt_trans h (sameAt_of_consoles (by simp))
  · exact sameAt_trans h (relimit_loads _)
  · exact h

theorem moveArea_loads (a : Area) (x y : Option Console) : sameAt ConsoleRecord.loads s (s.moveArea a x y) := by
  unfold State.moveArea
  dsimp only
  have h : sameAt ConsoleRecord.loads s (s.setArea a fun k => { k with owner := x, fallback := y }).rerouteStep :=
    sameAt_of_consoles (by simp)
  refine sameAt_after_storeWrite (sameAt_after_markAll ?_ _)
  split
  · exact h
  · exact sameAt_trans h (requalify_loads _ _)

end Loads

end Sys2Proof.Machine
end

section
/-! Laws that look at the table, the queue, the configuration of the points and the flooded consoles alone. TableKeep
lists what such a law has to stand; from it the law is kept by every operation behind a command. -/

namespace Sys2Proof.Machine

/-- What R105 asks of a flood-held record. -/
def State.heldWell (s : State) (r : Record) : Prop :=
  r.floodHeld = true → r.state = .raisedUnack ∧ r.priority.high = false ∧ r.stage = 0 ∧
    ∃ c, r.route = some c ∧ s.consoles[c].flooded = true

/-- What an event that leaves a record in its slot may make of it. -/
structure State.Becomes (s : State) (r q : Record) : Prop where
  point : q.point = r.point
  priority : q.priority = r.priority
  area : q.area = r.area
  cls : q.cls = r.cls
  lawful : r.lawful → q.lawful
  held : s.heldWell r → s.heldWell q
  carried : r.route = s.routes[r.area] → q.route = s.routes[q.area]

/-- What an event that leaves an entry in the queue may make of it. -/
structure State.EntryBecomes (s : State) (e x : Entry) : Prop where
  point : x.point = e.point
  priority : x.priority = e.priority
  arrival : x.arrival = e.arrival
  lawful : e.lawful s.cfg → x.lawful s.cfg

/-- Nothing that such a law looks at differs. -/
structure State.SameTable (s t : State) : Prop where
  live : t.live = s.live
  waiting : t.waiting = s.waiting
  points : t.cfg.points = s.cfg.points
  time : t.partTime = s.partTime
  flooded : ∀ c : Console, t.consoles[c].flooded = s.consoles[c].flooded

/-- What the items of a console's handover name, in their order. -/
def State.itemRefs (s : State) (c : Console) : List ItemRef := s.handovers[c].phase.items.map Item.ref

/-- Nothing differs but marks, seen flags, and fields of consoles that such a law does not look at. -/
structure State.SameEvent (s t : State) : Prop extends s.SameTable t where
  routes : t.routes = s.routes
  cfg : t.cfg = s.cfg
  refs : ∀ c : Console, t.itemRefs c = s.itemRefs c

/-- What a law has to stand, to be kept by the events of single records and entries. -/
structure SlotKeep (P : State → Prop) : Prop where
  congr : ∀ {s t : State}, P s → s.SameEvent t → P t
  slot : ∀ {s : State} {i : Slot} {r q : Record}, P s → s.live[i] = some r → s.Becomes r q → P (s.setSlot i (some q))
  records : ∀ {s : State} {f : Record → Record}, P s → (∀ r, s.Becomes r (f r)) → P (s.mapRecords f)
  removals : ∀ {s : State} (l : List (Slot × Record)), P s → (∀ x ∈ l, s.live[x.1] = some x.2) → P (s.removeAll l)
  entry : ∀ {s : State} {p : Point} {f : Entry → Entry}, P s → (∀ e, e.point = p → s.EntryBecomes e (f e)) →
    P (s.setEntry p f)
  drop : ∀ {s : State} (p : Point), P s → P { s with waiting := s.waiting.filter fun x => x.point != p }

/-- What such a law has to stand besides, to be kept by a raise of a NORMAL point whatever its use. -/
structure SeatKeep (P : State → Prop) : Prop extends SlotKeep P where
  seat : ∀ {s : State} {i : Slot} {p : Point} (k : Cause), P s → s.find p = none → s.entryOf p = none →
    s.lowestEmpty = some i → P (s.admitRecord i (s.freshRecord p k))
  queue : ∀ {s : State} {p : Point} (k : Cause), P s → s.find p = none → s.entryOf p = none → s.lowestEmpty = none →
    P { s with waiting := insertEntry (s.freshEntry p k) s.waiting }

/-- What a law of the table has to stand, to be kept by the operations on consoles, areas, operators and parameters. -/
structure DeskKeep (P : State → Prop) : Prop where
  congr : ∀ {s t : State}, P s → s.SameTable t → P t
  reroute : ∀ {s : State}, P s → P s.reroute
  records : ∀ {s : State} {f : Record → Record}, P s → (∀ r, s.Becomes r (f r)) → P (s.mapRecords f)

/-- What a law of the table has to stand, to be kept by every operation but a raise: the events of single records, and the rest. -/
structure TableKeep (P : State → Prop) : Prop where
  slots : SlotKeep P
  congr : ∀ {s t : State}, P s → s.SameTable t → P t
  reroute : ∀ {s : State}, P s → P s.reroute
  point : ∀ {s : State} {p : Point} (n : PointConfig), P s → s.statusOf p = .normal → P (s.setPoint p n)
  seconds : ∀ {s : State} (c : Console), P s → P (s.secondsEnd c)
  later : ∀ {s : State}, P s → P { s with partTime := s.partTime + 1 }
  cold : ∀ {s : State} (b : Bool), P (s.started (s.store.cutOff b))

/-! ### What the events make of a record -/

namespace State.Becomes

variable {s : State} {r q : Record}

/-- A change that leaves a record's identity, and can only clear its flood-held flag. -/
theorem of_unheld (hp : q.point = r.point) (hpr : q.priority = r.priority) (ha : q.area = r.area) (hc : q.cls = r.cls)
    (hl : r.lawful → q.lawful) (hf : q.floodHeld = false) (hr : q.route = r.route) : s.Becomes r q :=
  ⟨hp, hpr, ha, hc, hl, fun _ h => Bool.noConfusion (hf.symm.trans h),
    fun h => by rw [hr, h]; simp only [ha]⟩

theorem refl (r : Record) : s.Becomes r r := ⟨rfl, rfl, rfl, rfl, id, id, id⟩

theorem cause (r : Record) (k : Cause) : s.Becomes r { r with cause := k } :=
  ⟨rfl, rfl, rfl, rfl, fun h => lawful_cause h k, id, id⟩

theorem shelvedRaise (h : r.state = .shelved) (k : Cause) :
    s.Becomes r { r with condition := .active, cause := k, occurrences := bumped r.occurrences } :=
  ⟨rfl, rfl, rfl, rfl, fun l => lawful_shelved_raise l h k, id, id⟩

theorem shelvedClear (h : r.state = .shelved) : s.Becomes r { r with condition := .gone } :=
  ⟨rfl, rfl, rfl, rfl, fun l => lawful_shelved_clear l h, id, id⟩

theorem resetWait (hs : r.state = .acked) (hc : r.cls = .held) :
    s.Becomes r { r with state := .resetWait, condition := .gone } :=
  ⟨rfl, rfl, rfl, rfl, fun l => resetWait_lawful l hs hc, fun h hf => RecordState.noConfusion ((h hf).1.symm.trans hs), id⟩

theorem clearedRecord (hs : r.state = .raisedUnack) (hc : r.cls ≠ .selfClearing) : s.Becomes r (s.clearedRecord r) := by
  have hl := fun l : r.lawful => clearedRecord_lawful (s := s) l hs hc
  have hp : (s.clearedRecord r).floodHeld = false := by
    unfold State.clearedRecord
    dsimp only
    split
    · rfl
    · next hf => simpa using hf
  have hi : ∀ q, q = s.clearedRecord r → q.point = r.point ∧ q.priority = r.priority ∧ q.area = r.area ∧
      q.cls = r.cls ∧ q.route = r.route := by
    rintro q rfl
    unfold State.clearedRecord
    dsimp only
    split <;> exact ⟨rfl, rfl, rfl, rfl, rfl⟩
  obtain ⟨h1, h2, h3, h4, h5⟩ := hi _ rfl
  exact of_unheld h1 h2 h3 h4 hl hp h5

theorem silenced (c : Console) (r : Record) : s.Becomes r (s.silenced c r) :=
  ⟨rfl, rfl, rfl, rfl, silenced_lawful, id, id⟩

theorem heard (r : Record) : s.Becomes r { r with silencedAtSupervisor := false } :=
  ⟨rfl, rfl, rfl, rfl, fun h => ⟨h.standing, h.returned, h.staged, h.held, h.shelf, h.shelver, h.fresh, h.counted,
    h.selfClearing, h.locking⟩, id, id⟩

theorem release (r : Record) (n : Nat) : s.Becomes r (r.release n) :=
  of_unheld rfl rfl rfl rfl (fun h => release_lawful h n) rfl rfl

theorem acknowledged (o : Operator) {st : RecordState}
    (hst : r.state = .raisedUnack ∧ st = .acked ∨ r.state = .clearedUnack ∧ r.cls = .held ∧ st = .resetWait) :
    s.Becomes r (r.acknowledged st o) :=
  of_unheld rfl rfl rfl rfl (fun h => acknowledged_lawful h o hst) rfl rfl

theorem shelve (hs : r.state = .raisedUnack ∨ r.state = .acked) (o : Operator) (n : Nat) :
    s.Becomes r (r.shelve o n) :=
  of_unheld rfl rfl rfl rfl (fun h => shelve_lawful h hs o n) rfl rfl

theorem remind (he : r.escalates = true) : s.Becomes r r.remind :=
  of_unheld rfl rfl rfl rfl (fun h => remind_lawful h he) ((escalates_iff r).1 he).2 rfl

theorem escalate (he : r.escalates = true) : s.Becomes r r.escalate :=
  of_unheld rfl rfl rfl rfl (fun h => escalate_lawful h he) ((escalates_iff r).1 he).2 rfl

theorem advance (p : Params) (n : Nat) (r : Record) : s.Becomes r (p.advance n r) := by
  unfold Params.advance
  split
  · next he => exact escalate (reached_escalation he)
  · split
    · next he => exact remind (reached_reminder he)
    · exact refl r

theorem annunciated (hp : q.point = r.point) (hpr : q.priority = r.priority) (ha : q.area = r.area) (hc : q.cls = r.cls)
    (hl : r.lawful → q.Annunciable) : s.Becomes r (s.annunciated q) :=
  ⟨hp, hpr, ha, hc, fun l => annunciated_lawful (hl l), fun _ hf => by
    obtain ⟨h1, h2, c, h3, h4⟩ := (holds_iff s q _).1 hf
    exact ⟨h1, h2, rfl, c, h3, h4⟩,
  fun _ => rfl⟩

theorem ite {c : Prop} [Decidable c] {q' : Record} (h : c → s.Becomes r q) (h' : ¬c → s.Becomes r q') :
    s.Becomes r (if c then q else q') := by
  split
  · next hc => exact h hc
  · next hc => exact h' hc

end State.Becomes

/-! ### What leaves the table as it is -/

namespace State.SameTable

variable {s t : State}

theorem of_loads (hf : sameAt ConsoleRecord.loads s t) (hl : t.live = s.live) (hw : t.waiting = s.waiting)
    (hp : t.cfg.points = s.cfg.points) (ht : t.partTime = s.partTime) : s.SameTable t :=
  ⟨hl, hw, hp, ht, fun c => congrArg (·.2.1) (hf c)⟩

theorem of_consoles (hc : t.consoles = s.consoles) (hl : t.live = s.live) (hw : t.waiting = s.waiting)
    (hp : t.cfg.points = s.cfg.points) (ht : t.partTime = s.partTime) : s.SameTable t :=
  ⟨hl, hw, hp, ht, fun c => by rw [hc]⟩

end State.SameTable

namespace State.SameEvent

variable {s t : State}

theorem of_handovers (hs : s.SameTable t) (hr : t.routes = s.routes) (hc : t.cfg = s.cfg)
    (hh : t.handovers = s.handovers) : s.SameEvent t :=
  ⟨hs, hr, hc, fun c => by unfold State.itemRefs; rw [hh]⟩

end State.SameEvent

theorem unseeItem_itemRefs (s : State) (x : ItemRef) (c : Console) : (s.unseeItem x).itemRefs c = s.itemRefs c := by
  unfold State.itemRefs State.unseeItem State.mapPhases
  simp only [Fin.getElem_fin, Vector.getElem_ofFn, Phase.setSeen]
  have hm : ∀ l : List Item,
      (l.map fun it => if it.ref = x then { it with seen := false } else it).map Item.ref = l.map Item.ref := by
    intro l
    rw [List.map_map]
    exact List.map_congr_left fun it _ => by dsimp only [Function.comp_apply]; split <;> rfl
  cases (s.handovers[c.val]).phase with
  | none => rfl
  | offered o n l => exact hm l
  | review o i n l => exact hm l

/-- A record's item is to be seen again. -/
theorem State.SameEvent.unseen (s : State) (x : ItemRef) : s.SameEvent (s.unseeItem x) :=
  ⟨.of_consoles (by simp) (by simp) (by simp) (by simp) (by simp), by simp, by simp, unseeItem_itemRefs s x⟩

/-! ### The events of single records -/

namespace SlotKeep

variable {P : State → Prop} {s t : State}

theorem removal (hP : SlotKeep P) (h : P s) {i : Slot} {r : Record} (hr : s.live[i] = some r) :
    P (s.removeAndFill i r) :=
  hP.removals [(i, r)] h fun x hx => by cases List.mem_singleton.1 hx; exact hr

theorem annunciate (hP : SlotKeep P) (h : P s) {i : Slot} {r q : Record} (hr : s.live[i] = some r)
    (hb : s.Becomes r (s.annunciated q)) : P (s.annunciate i q) :=
  hP.congr (hP.slot h hr hb) (.of_handovers ⟨rfl, rfl, rfl, rfl, annunciate_flooded s i q⟩ rfl rfl rfl)

theorem raiseStanding (hP : SlotKeep P) (h : P s) {i : Slot} {r : Record} (hr : s.live[i] = some r) (k : Cause) :
    (s.raiseStanding i r k).keeps P := by
  unfold State.raiseStanding
  split
  · simp
  · intro u hu; cases hu; exact hP.slot h hr (.cause r k)

theorem reraise (hP : SlotKeep P) (h : P s) {i : Slot} {r : Record} (hr : s.live[i] = some r)
    (hs : r.state = .clearedUnack ∨ r.state = .resetWait) (k : Cause) : P (s.reraise i r k) := by
  have hb := State.Becomes.annunciated (s := s) (r := r) (q := { r with
    state := .raisedUnack, condition := .active, cause := k, occurrences := bumped r.occurrences }) rfl rfl rfl rfl
    fun l => reraised_annunciable l hs k
  exact hP.congr (hP.annunciate h hr hb) (.unseen _ _)

theorem raiseRecord (hP : SlotKeep P) (h : P s) {i : Slot} {r : Record} (hr : s.live[i] = some r) (k : Cause) :
    (s.raiseRecord i r k).keeps P := by
  unfold State.raiseRecord
  split
  · exact hP.raiseStanding h hr k
  · exact hP.raiseStanding h hr k
  · next e => exact Effect.keeps_accept (hP.reraise h hr (.inl e) k)
  · next e => exact Effect.keeps_accept (hP.reraise h hr (.inr e) k)
  · next e =>
    split
    · exact hP.raiseStanding h hr k
    · exact Effect.keeps_accept (hP.slot h hr (.shelvedRaise e k))

/-- A raise of a NORMAL point is left to what its admission, or its wait in the queue, makes of the law. -/
theorem raise_of_normal (hP : SlotKeep P) (h : P s) {p : Point} {k : Cause}
    (hn : s.find p = none → s.entryOf p = none → P (s.raiseNormal p k)) : (s.raisePoint p k).keeps P := by
  unfold State.raisePoint
  split
  · next i r hf => exact hP.raiseRecord h (find_live hf) k
  · next hf =>
    split
    · refine Effect.keeps_accept (hP.entry h fun e _ => ⟨rfl, rfl, rfl, fun _ => ?_⟩)
      exact ⟨(bumped_range _).1, (bumped_range _).2, fun x => by cases x⟩
    · next he => exact Effect.keeps_accept (hn hf he)

theorem clearRecord (hP : SlotKeep P) (h : P s) {i : Slot} {r : Record} (hr : s.live[i] = some r) :
    (s.clearRecord i r).keeps P := by
  unfold State.clearRecord
  split
  · next e =>
    split
    · exact Effect.keeps_accept (hP.removal h hr)
    · next hc => exact Effect.keeps_accept (hP.slot h hr (.clearedRecord e hc))
  · next e =>
    split
    · next hc => exact Effect.keeps_accept (hP.slot h hr (.resetWait e hc))
    · exact Effect.keeps_accept (hP.removal h hr)
  · simp
  · simp
  · next e =>
    split
    · exact Effect.keeps_accept (hP.slot h hr (.shelvedClear e))
    · simp

theorem clearPoint (hP : SlotKeep P) (h : P s) (p : Point) : (s.clearPoint p).keeps P := by
  unfold State.clearPoint
  split
  · next hf => exact hP.clearRecord h (find_live hf)
  · split
    · unfold State.clearEntry
      split
      · simp
      · split
        · exact Effect.keeps_accept (hP.drop p h)
        · next hc =>
          refine Effect.keeps_accept (hP.entry h fun e he => ⟨rfl, rfl, rfl, fun l => ?_⟩)
          subst he
          exact ⟨l.1, l.2.1, fun _ => hc⟩
    · simp

theorem acknowledge (hP : SlotKeep P) (h : P s) {i : Slot} {r : Record} (o : Operator) (hr : s.live[i] = some r)
    (hu : r.unacknowledged = true) : P (s.acknowledge i r o) := by
  have kept : ∀ st, s.Becomes r (r.acknowledged st o) → P (s.keepAcknowledged i r st o) := fun st hb =>
    hP.congr (hP.slot h hr hb) (.of_handovers (.of_consoles rfl rfl rfl rfl rfl) rfl rfl rfl)
  unfold State.acknowledge
  split
  · next hs hc => exact kept _ (.acknowledged o (.inr ⟨hs, hc, rfl⟩))
  · exact hP.removal h hr
  · next hn _ =>
    have hs : r.state = .raisedUnack := ((unacknowledged_iff r).1 hu).resolve_right hn
    exact kept _ (.acknowledged o (.inl ⟨hs, rfl⟩))

theorem endShelf (hP : SlotKeep P) (h : P s) {i : Slot} {r : Record} (hr : s.live[i] = some r) :
    P (s.endShelf i r) := by
  unfold State.endShelf
  split
  · next hc =>
    have hb := State.Becomes.annunciated (s := s) (r := r)
      (q := { r with state := .raisedUnack, shelvedBy := none, shelfEnd := none }) rfl rfl rfl rfl
      fun l => unshelved_annunciable l hc
    exact hP.congr (hP.annunciate h hr hb) (.unseen _ _)
  · exact hP.removal h hr

end SlotKeep

theorem SeatKeep.raisePoint {P : State → Prop} {s : State} (hP : SeatKeep P) (h : P s) (p : Point) (k : Cause) : (s.raisePoint p k).keeps P := by
  refine hP.raise_of_normal h fun hf he => ?_
  unfold State.raiseNormal
  split
  · next hl => exact hP.seat k h hf he hl
  · next hl => exact hP.queue k h hf he hl

/-! ### The operations on consoles, areas, operators and parameters -/

namespace DeskKeep

variable {P : State → Prop} {s t : State}

theorem after_loads (hP : DeskKeep P) (h : P s) (hf : sameAt ConsoleRecord.loads s t) (hl : t.live = s.live)
    (hw : t.waiting = s.waiting) (hp : t.cfg.points = s.cfg.points) (ht : t.partTime = s.partTime) : P t :=
  hP.congr h (.of_loads hf hl hw hp ht)

theorem rerouteStep (hP : DeskKeep P) (h : P s) : P s.rerouteStep :=
  hP.congr (hP.reroute h) (.of_consoles (by simp [State.rerouteStep]) (by simp [State.rerouteStep])
    (by simp [State.rerouteStep]) (by simp [State.rerouteStep]) (by simp [State.rerouteStep]))

theorem markAll (hP : DeskKeep P) (h : P s) (l : List Ref) : P (s.markAll l) :=
  hP.congr h (.of_consoles rfl rfl rfl rfl rfl)

theorem storeWrite (hP : DeskKeep P) (h : P s) : P s.storeWrite := hP.congr h (.of_consoles rfl rfl rfl rfl rfl)

theorem abortHandover (hP : DeskKeep P) (h : P s) (c : Console) (x : HandoverOutcome) : P (s.abortHandover c x) :=
  hP.congr h (.of_consoles (by simp) (by simp) (by simp) (by simp) (by simp))

theorem requalify (hP : DeskKeep P) (h : P s) (l : List Console) : P (s.requalify l) :=
  hP.after_loads h (requalify_loads s l) (by simp) (by simp) (by simp) (by simp)

theorem endSession (hP : DeskKeep P) (h : P s) (c : Console) (x : EndCause) : P (s.endSession c x) := by
  unfold State.endSession
  split
  · exact h
  · exact hP.markAll (hP.rerouteStep (hP.after_loads h (dropSession_loads s c x) (by simp) (by simp) (by simp) (by simp))) _

theorem loseLink (hP : DeskKeep P) (h : P s) (c : Console) : P (s.loseLink c) :=
  hP.after_loads h (loseLink_loads s c) (by simp) (by simp) (by simp) (by simp)

theorem foldl {β : Type} {f : State → β → State} (l : List β) (hf : ∀ u x, P u → P (f u x)) (h : P s) :
    P (l.foldl f s) := by
  induction l generalizing s with
  | nil => exact h
  | cons x xs ih => exact ih (hf s x h)

theorem suspend (hP : DeskKeep P) (h : P s) (o : Operator) : P (s.suspend o) := by
  have h0 : P (s.setStatus o .suspended) := hP.congr h (.of_consoles rfl rfl rfl rfl rfl)
  unfold State.suspend
  refine hP.storeWrite (hP.markAll ?_ _)
  have h1 : P ((s.handoversOf o).foldl (fun t c => t.abortHandover c .suspended) (s.setStatus o .suspended)) :=
    foldl _ (fun u c hu => hP.abortHandover hu c .suspended) h0
  unfold State.endSuspended
  split
  · exact h1
  · exact hP.markAll (hP.rerouteStep
      (hP.after_loads h1 (dropSuspended_loads _ _) rfl rfl rfl rfl)) _

theorem failWindow (hP : DeskKeep P) (h : P s) (c : Console) (n : Nat) : P (s.failWindow c n) := by
  have h1 : ∀ (f : ConsoleRecord → ConsoleRecord) l, (∀ k, (f k).loads = k.loads) → P ((s.setConsole c f).markAll l) :=
    fun f l hf => hP.after_loads h (sameAt_after_markAll (sameAt_setConsole c (hf _)) l) rfl rfl rfl rfl
  unfold State.failWindow
  dsimp only
  split
  · refine hP.rerouteStep (hP.loseLink (h1 _ _ ?_) c)
    intro k; rfl
  · refine h1 _ _ ?_
    intro k; rfl

theorem setConsole (hP : DeskKeep P) (h : P s) (c : Console) {f : ConsoleRecord → ConsoleRecord}
    (hf : ∀ k, (f k).loads = k.loads) : P (s.setConsole c f) :=
  hP.after_loads h (sameAt_setConsole c (hf _)) rfl rfl rfl rfl

theorem faultHorn (hP : DeskKeep P) (h : P s) (c : Console) : P (s.faultHorn c) :=
  hP.setConsole (hP.records h fun r => .ite (fun _ => .heard r) fun _ => .refl r) c fun _ => rfl

theorem hornReport (hP : DeskKeep P) (h : P s) (c : Console) (b : Bool) : P (s.hornReport c b) := by
  unfold State.hornReport
  split
  · exact hP.markAll (hP.faultHorn h c) _
  · exact h

theorem signIn (hP : DeskKeep P) (h : P s) (c : Console) (o : Operator) : P (s.signIn c o) := by
  unfold State.signIn
  refine hP.markAll (hP.rerouteStep (hP.requalify (hP.setConsole ?_ c (f := fun k => { k with session := .attached o }) fun _ => rfl) _)) _
  exact hP.after_loads h (moveSessions_loads s o) (by simp) (by simp) (by simp) (by simp)

theorem comeIn (hP : DeskKeep P) (h : P s) (c : Console) (o : Operator) : P (s.comeIn c o) := by
  unfold State.comeIn
  dsimp only
  have phase : ∀ (u : State) (p : Phase) (l : List Ref), P u → P ((u.setPhase c p).markAll l) := fun u p l hu =>
    hP.congr hu (.of_consoles rfl rfl rfl rfl rfl)
  split
  · exact phase _ _ _ h
  · refine phase _ _ _ (hP.rerouteStep ?_)
    exact hP.after_loads h (moveSessions_loads s o) (by simp) (by simp) (by simp) (by simp)

theorem restartPort (hP : DeskKeep P) (h : P s) (c : Console) : P (s.restartPort c) := by
  unfold State.restartPort
  refine hP.markAll (hP.rerouteStep ?_) _
  refine hP.after_loads (hP.setConsole (hP.abortHandover h c .restart) c (f := fun k => k.cleared .down) fun _ => rfl)
    (detach_loads _ c) ?_ ?_ ?_ ?_ <;> simp

theorem takeParams (hP : DeskKeep P) (h : P s) (w : Parameter) (p : Params) : P (s.takeParams w p) := by
  have h0 : P (s.setParams p) := hP.congr h (.of_consoles rfl rfl rfl rfl rfl)
  unfold State.takeParams
  dsimp only
  split
  · exact hP.records h0 fun r => .ite (fun _ => .advance _ _ r) fun _ => .refl r
  · have h1 : P (s.setParams p).capCounts := hP.after_loads h0 (capCounts_loads _) rfl rfl rfl rfl
    unfold State.relimit
    dsimp only
    split
    · exact h1
    · exact hP.rerouteStep (foldl _ (fun u c hu => hP.loseLink hu c) h1)
  · exact h0

theorem moveArea (hP : DeskKeep P) (h : P s) (a : Area) (x y : Option Console) : P (s.moveArea a x y) := by
  unfold State.moveArea
  dsimp only
  have h1 : P (s.setArea a fun k => { k with owner := x, fallback := y }).rerouteStep :=
    hP.rerouteStep (hP.congr h (.of_consoles rfl rfl rfl rfl rfl))
  refine hP.storeWrite (hP.markAll ?_ _)
  split
  · exact h1
  · exact hP.requalify h1 _

theorem setEnabled (hP : DeskKeep P) (h : P s) (c : Console) (b : Bool) : P (s.setEnabled c b) := by
  unfold State.setEnabled
  refine hP.storeWrite (hP.reroute (hP.after_loads h (sameAt_upd (c := c)
    (f := fun k => if b then { k with link := .down, count := 0 } else k.cleared .off) rfl ?_) rfl rfl rfl rfl))
  cases b <;> rfl

theorem bringUp (hP : DeskKeep P) (h : P s) (c : Console) : P (s.bringUp c) :=
  hP.reroute (hP.setConsole h c fun _ => rfl)

theorem successWindow (hP : DeskKeep P) (h : P s) (c : Console) : P (s.successWindow c) := by
  unfold State.successWindow
  dsimp only
  split
  · exact hP.bringUp h c
  · exact hP.setConsole h c fun _ => rfl

theorem heartbeat (hP : DeskKeep P) (h : P s) (c : Console) (b : Bool) : P (s.heartbeat c b).1 := by
  unfold State.heartbeat
  split
  · exact h
  · exact hP.hornReport (hP.bringUp h c) c b
  all_goals
    split
    · exact hP.hornReport (hP.failWindow h c _) c b
    · exact hP.hornReport (hP.successWindow h c) c b

end DeskKeep

/-- What the RESET key removes is live. -/
theorem resettable_live (s : State) (c : Console) (o : Operator) : ∀ x ∈ s.resettable c o, s.live[x.1] = some x.2 := by
  intro x hx
  obtain ⟨p, -, hp⟩ := List.mem_filterMap.1 hx
  split at hp
  · next i r hf =>
    split at hp
    · cases hp; exact find_live hf
    · cases hp
  · cases hp

/-! ### Every operation behind a command -/

namespace TableKeep

variable {P : State → Prop}

theorem desks (hP : TableKeep P) : DeskKeep P := ⟨hP.congr, hP.reroute, hP.slots.records⟩

/-- A law of the table is kept by every operation behind a command. -/
theorem opsKeep (hP : TableKeep P) (hS : SeatKeep P) : OpsKeep P where
  skel e h := hP.congr h ⟨skel_live e, skel_waiting e, by rw [skel_cfg e], skel_time e, skel_flooded e⟩
  raise p k h := hS.raisePoint h p k
  clear p h := hP.slots.clearPoint h p
  point _ _ _ _ h hc := hP.point _ h (writeRefusal_normal hc)
  lineConfig _ _ h := hP.congr h (.of_consoles rfl rfl rfl rfl rfl)
  acknowledge o h hr hu := hP.slots.acknowledge h o hr hu
  silence c h := hP.slots.records h (.silenced c)
  removal h hr := hP.slots.removal h hr
  removals c o h := hP.slots.removals _ h (resettable_live _ c o)
  shelve o n h hr hs := hP.slots.slot h hr (.shelve hs o n)
  endShelf h hr _ := hP.slots.endShelf h hr
  remind h hr he := hP.slots.slot h hr (.remind he)
  escalate h hr he := hP.slots.slot h hr (.escalate he)
  levels _ _ _ _ h := hP.congr h (.of_consoles rfl rfl rfl rfl rfl)
  move _ _ a x y h _ := hP.desks.moveArea h a x y
  roster _ _ _ _ _ _ _ h _ _ _ := hP.congr h (.of_consoles rfl rfl rfl rfl rfl)
  status _ h := hP.congr h (.of_consoles rfl rfl rfl rfl rfl)
  retire _ h _ := hP.congr h (.of_consoles rfl rfl rfl rfl rfl)
  abort c x h := hP.desks.abortHandover h c x
  sessionEnd c x h _ := hP.desks.endSession h c x
  leave c x h _ := hP.desks.endSession h c x
  graceEnd c x h _ := hP.desks.endSession h c x
  suspend o h := hP.desks.suspend h o
  seconds c h := hP.seconds c h
  failed c n h := hP.desks.failWindow h c n
  bringUp c h _ := hP.desks.bringUp h c
  success c w h _ := hP.desks.setConsole h c fun _ => rfl
  horn c b h := hP.desks.hornReport h c b
  signIn c o _ h _ _ _ _ := hP.desks.signIn h c o
  comeIn c o _ _ _ _ h _ _ _ _ _ := hP.desks.comeIn h c o
  restart c h _ := hP.desks.restartPort h c
  enable c b h _ _ := hP.desks.setEnabled h c b
  enterNote _ _ _ _ _ h _ _ := hP.congr h (.of_consoles (by simp) (by simp) (by simp) (by simp [State.putNote]) (by simp))
  clearNote _ h := hP.congr h (.of_consoles (by simp) (by simp) (by simp) (by simp [State.emptyNote]) (by simp))
  offer _ _ h _ _ _ := hP.congr h (.of_consoles (by simp) (by simp) (by simp) (by simp) (by simp))
  seen _ _ h := hP.congr h (.of_consoles (by simp) (by simp) (by simp) (by simp) (by simp))
  accept c o i _ _ h _ := hP.desks.after_loads h (acceptDesk_loads _ c o i) (by simp) (by simp) (by simp) (by simp)
  params w _ _ p h _ := hP.desks.takeParams h w p
  storeWrite h := hP.desks.storeWrite h
  later h := hP.later h
  unpowered _ h := hP.congr h (.of_consoles rfl rfl rfl rfl rfl)
  cold b _ := hP.cold b

end TableKeep

end Sys2Proof.Machine
end

section
/-! The laws of the records, of the table and of the held records (R37 to R41, R48, R52, R54, R105), each from what it
has to stand. -/

namespace Sys2Proof.Machine

/-! ### The law of the records -/

section RecordLaw

variable {s t : State}

theorem recordLaw_fill (h : s.recordLaw) : s.fill.recordLaw := by
  obtain ⟨h1, h2⟩ := h
  refine ⟨all_fill h1 fun e he u hu => annunciated_lawful (recordOfEntry_annunciable ?_), fun e he => ?_⟩
  · rw [hu.cfg]; exact h2 e he
  · rw [State.fill_cfg]; exact h2 e ((fill_waiting s).subset he)

theorem recordLaw_congr (h : s.recordLaw) (e : s.SameTable t) : t.recordLaw := by
  obtain ⟨h1, h2⟩ := h
  refine ⟨all_of_live e.live h1, fun x hx => ?_⟩
  rw [e.points]
  exact h2 x (e.waiting ▸ hx)

/-- An operation on single records, taken for each of a list. -/
theorem removed_keeps {P : State → Prop} (hr : ∀ (u : State) i r, P u → P (u.remove i r)) (l : List (Slot × Record))
    (h : P s) : P (l.foldl (fun t x => t.remove x.1 x.2) s) := by
  induction l generalizing s with
  | nil => exact h
  | cons x xs ih => exact ih (hr s x.1 x.2 h)

/-- A second's end leaves the table as it is, or releases the records held at the console. -/
theorem secondsEnd_live (s : State) (c : Console) :
    (s.secondsEnd c).live = s.live ∨ (s.secondsEnd c).live = (s.releaseHeld c).live := by
  unfold State.secondsEnd
  dsimp only
  split
  · exact .inr rfl
  · exact .inl rfl

theorem secondsEnd_all {Q : Record → Prop} (c : Console) (h : s.all Q) (hr : ∀ r, Q r → Q (r.release s.partTime)) :
    (s.secondsEnd c).all Q := by
  rcases secondsEnd_live s c with e | e
  · exact all_of_live e h
  · refine all_of_live e (all_mapRecords h fun r _ hq => ?_)
    split
    · exact hr r hq
    · exact hq

theorem recordLaw_keep_slots : SeatKeep State.recordLaw where
  congr h e := recordLaw_congr h e.toSameTable
  slot h hr hb := ⟨all_setSlot_some h.1 (hb.lawful (all_at h.1 hr)), h.2⟩
  records h hf := ⟨all_mapRecords h.1 fun r _ hr => (hf r).lawful hr, fun e he => by
    rw [State.mapRecords_cfg]; exact h.2 e (by simpa using he)⟩
  removals l h _ := by
    refine recordLaw_fill (removed_keeps (fun u i r hu => ?_) l h)
    exact recordLaw_congr (s := u.setSlot i none) ⟨all_setSlot_none hu.1, hu.2⟩
      (.of_consoles (by simp) (by simp [State.remove]) (by simp) (by simp) (by simp))
  seat {s i p} k h _ _ _ := by
    have h1 : (s.setSlot i (some (s.annunciated (s.freshRecord p k)))).recordLaw :=
      ⟨all_setSlot_some h.1 (annunciated_lawful (freshRecord_annunciable s p k)), h.2⟩
    refine recordLaw_congr (s := s.annunciate i (s.freshRecord p k)) h1 ?_
    exact .of_consoles (by simp [State.admitRecord]) (by simp [State.admitRecord]) (by simp) (by simp) (by simp)
  queue {s p} k h _ _ _ := by
    refine ⟨h.1, fun e he => ?_⟩
    rcases (mem_insertEntry _ _ _).1 he with rfl | he
    · exact ⟨by simp [State.freshEntry], by simp [State.freshEntry], by simp [State.freshEntry]⟩
    · exact h.2 e he
  entry h hf := by
    refine ⟨h.1, fun e he => ?_⟩
    simp only [State.setEntry, List.mem_map] at he
    obtain ⟨x, hx, rfl⟩ := he
    split
    · next e => exact (hf x e).lawful (h.2 x hx)
    · exact h.2 x hx
  drop p h := ⟨h.1, fun e he => h.2 e (List.mem_filter.1 he).1⟩

theorem recordLaw_keep : TableKeep State.recordLaw where
  slots := recordLaw_keep_slots.toSlotKeep
  congr h e := recordLaw_congr h e
  reroute h := ⟨all_reroute h.1 fun r _ hr _ => moved_lawful hr _, fun e he => by
    rw [State.reroute_cfg]; exact h.2 e (by simpa using he)⟩
  point {s p} n h hn := by
    refine ⟨h.1, fun e he => ⟨(h.2 e he).1, (h.2 e he).2.1, fun hg => ?_⟩⟩
    rw [setPoint_points_other p e.point n (entryOf_none (statusOf_normal hn).2 e he)]
    exact (h.2 e he).2.2 hg
  seconds {s} c h := ⟨secondsEnd_all c h.1 fun r hr => release_lawful hr _, fun e he => by
    rw [State.secondsEnd_cfg]; exact h.2 e (by simpa using he)⟩
  later h := h
  cold b := ⟨fun r hr => by rw [started_records] at hr; exact absurd hr List.not_mem_nil,
    fun e he => absurd he List.not_mem_nil⟩

end RecordLaw

/-- Settles O11: a change of a record in its slot, an annunciation and an admission leave it lawful. -/
theorem stepsKeepRecordsLawful : Obligations.StepsKeepRecordsLawful :=
  fun _ _ hs h => step_keeps (recordLaw_keep.opsKeep recordLaw_keep_slots) hs h

/-! ### The law of the table -/

section TableLaw

variable {s t : State}

/-- No two slots hold records of one point. -/
def State.onceLive (s : State) : Prop :=
  ∀ (i j : Slot) (r q : Record), s.live[i] = some r → s.live[j] = some q → r.point = q.point → i = j

theorem once_iff (s : State) : (s.records.map Record.point).Nodup ↔ s.onceLive := by
  unfold State.onceLive State.records List.Nodup
  rw [List.pairwise_map, List.pairwise_filterMap, List.pairwise_iff_getElem]
  constructor
  · intro h i j r q hi hj he
    have key : ∀ a b : Slot, ∀ x y, s.live[a] = some x → s.live[b] = some y → a < b → x.point ≠ y.point := by
      intro a b x y ha hb hlt
      exact h a.val b.val (by simp) (by simp) hlt x (by simpa using ha) y (by simpa using hb)
    rcases lt_trichotomy i j with hlt | heq | hgt
    · exact absurd he (key i j r q hi hj hlt)
    · exact heq
    · exact absurd he.symm (key j i q r hj hi hgt)
  · intro h a b ha hb hlt x hx y hy he
    have ha' : a < 64 := by simpa using ha
    have hb' : b < 64 := by simpa using hb
    have := h ⟨a, ha'⟩ ⟨b, hb'⟩ x y (by simpa using hx) (by simpa using hy) he
    exact absurd (congrArg Fin.val this) (by simp; omega)

theorem lowestEmpty_none : s.lowestEmpty = none ↔ ∀ i : Slot, s.live[i] ≠ none := by
  unfold State.lowestEmpty
  rw [lowestWhere_none]
  exact forall_congr' fun i => by cases s.live[i] <;> simp

theorem onceLive_setSlot_none (h : s.onceLive) (i : Slot) : (s.setSlot i none).onceLive := by
  intro a b r q ha hb he
  simp only [State.setSlot_live, Fin.getElem_fin, set_get] at ha hb
  split at ha
  · cases ha
  · split at hb
    · cases hb
    · exact h a b r q ha hb he

/-- A record of a point that no other slot holds goes into a slot. -/
theorem onceLive_setSlot_some (h : s.onceLive) {i : Slot} {x : Record}
    (hx : ∀ (j : Slot) (q : Record), s.live[j] = some q → q.point = x.point → j = i) :
    (s.setSlot i (some x)).onceLive := by
  intro a b r q ha hb he
  simp only [State.setSlot_live, Fin.getElem_fin, set_get] at ha hb
  split at ha <;> split at hb
  · next ea eb => rw [ea, eb]
  · next ea _ => cases ha; rw [hx b q hb he.symm, ea]
  · next _ eb => cases hb; rw [hx a r ha he, eb]
  · exact h a b r q ha hb he

/-- The law of the table but for the queue being empty while a slot is free: what holds in the middle of a removal. -/
structure State.tableCore (s : State) : Prop where
  once : s.onceLive
  queued : (s.waiting.map Entry.point).Nodup
  apart : ∀ e ∈ s.waiting, s.all fun r => r.point ≠ e.point
  ordered : s.waiting.Pairwise fun x y =>
    x.priority.rank < y.priority.rank ∨ x.priority.rank = y.priority.rank ∧ x.arrival ≤ y.arrival
  arrived : ∀ e ∈ s.waiting, e.arrival ≤ s.partTime

theorem tableLaw_iff (s : State) : s.tableLaw ↔ s.tableCore ∧ (s.waiting ≠ [] → s.lowestEmpty = none) :=
  ⟨fun h => ⟨⟨(once_iff s).1 h.once, h.queued, h.apart, h.ordered, h.arrived⟩, h.full⟩,
    fun h => ⟨(once_iff s).2 h.1.once, h.1.queued, h.1.apart, h.2, h.1.ordered, h.1.arrived⟩⟩

theorem tableCore_remove (h : s.tableCore) (i : Slot) (r : Record) : (s.remove i r).tableCore := by
  have hw : (s.remove i r).waiting = s.waiting := by simp
  have hl : (s.remove i r).live = (s.setSlot i none).live := by simp [State.remove]
  have ho : (s.remove i r).onceLive := by
    have := onceLive_setSlot_none h.once i
    unfold State.onceLive at *
    rw [hl]
    exact this
  refine ⟨ho, by rw [hw]; exact h.queued, ?_, by rw [hw]; exact h.ordered, ?_⟩
  · rw [hw]
    exact fun e he => all_of_live hl (all_setSlot_none (h.apart e he))
  · rw [hw, State.remove_partTime]
    exact h.arrived

theorem onceLive_of_live (h : s.onceLive) (e : t.live = s.live) : t.onceLive := by
  unfold State.onceLive at *
  rw [e]
  exact h

/-- Filling keeps the law, and leaves the queue empty or every slot full. -/
theorem tableLaw_fillFrom (l : List Entry) (s : State) (hw : s.waiting = l) (h : s.tableCore) :
    (State.fillFrom l s).tableLaw := by
  induction l generalizing s with
  | nil => exact (tableLaw_iff s).2 ⟨h, fun hn => absurd hw hn⟩
  | cons e es ih =>
    unfold State.fillFrom
    split
    · next i hi =>
      have hl := admitEntry_live s i e es
      have hq : (e.point :: es.map Entry.point).Nodup := by simpa [hw] using h.queued
      have ho : (e :: es).Pairwise _ := hw ▸ h.ordered
      have hm : ∀ x ∈ es, x ∈ s.waiting := fun x hx => hw ▸ List.mem_cons_of_mem _ hx
      refine ih (State.admitEntry { s with waiting := es } i e) (by simp) ⟨?_, ?_, ?_, ?_, ?_⟩
      · refine onceLive_of_live (s := s.setSlot i (some (s.annunciated (s.recordOfEntry e)))) ?_ hl
        refine onceLive_setSlot_some h.once fun j q hj he => ?_
        exact absurd he (all_at (h.apart e (hw ▸ List.mem_cons_self ..)) hj)
      · simpa using (List.nodup_cons.1 hq).2
      · simp only [State.admitEntry_waiting]
        intro x hx
        refine all_of_live (s := s.setSlot i (some (s.annunciated (s.recordOfEntry e)))) hl ?_
        refine all_setSlot_some (h.apart x (hm x hx)) fun he : e.point = x.point => ?_
        exact (List.nodup_cons.1 hq).1 (he ▸ List.mem_map_of_mem hx)
      · simpa using (List.pairwise_cons.1 ho).2
      · simpa using fun x hx => h.arrived x (hm x hx)
    · next hn => exact (tableLaw_iff s).2 ⟨h, fun _ => hn⟩

theorem tableLaw_congr (h : s.tableLaw) (hl : t.live = s.live) (hw : t.waiting = s.waiting)
    (ht : s.partTime ≤ t.partTime) : t.tableLaw := by
  obtain ⟨h1, h2, h3, h4, h5, h6⟩ := h
  have hr : t.records = s.records := by unfold State.records; rw [hl]
  have he : t.lowestEmpty = s.lowestEmpty := by unfold State.lowestEmpty; rw [hl]
  refine ⟨by rw [hr]; exact h1, by rw [hw]; exact h2, by rw [hw, hr]; exact h3, by rw [hw, he]; exact h4,
    by rw [hw]; exact h5, ?_⟩
  rw [hw]
  exact fun e m => (h6 e m).trans ht

/-- The same slots are full, with records of the same points. -/
theorem tableLaw_map (h : s.tableLaw) (hl : ∀ i : Slot, (t.live[i]).map Record.point = (s.live[i]).map Record.point)
    (hw : t.waiting = s.waiting) (ht : t.partTime = s.partTime) : t.tableLaw := by
  have from_s : ∀ (i : Slot) (r : Record), t.live[i] = some r → ∃ q, s.live[i] = some q ∧ q.point = r.point := by
    intro i r hr
    have := hl i
    rw [hr] at this
    simpa using this.symm
  obtain ⟨⟨h1, h2, h3, h4, h5⟩, h6⟩ := (tableLaw_iff s).1 h
  refine (tableLaw_iff t).2 ⟨⟨?_, by rw [hw]; exact h2, ?_, by rw [hw]; exact h4, by rw [hw, ht]; exact h5⟩, ?_⟩
  · intro i j r q hi hj he
    obtain ⟨r', hr', er⟩ := from_s i r hi
    obtain ⟨q', hq', eq⟩ := from_s j q hj
    exact h1 i j r' q' hr' hq' (by rw [er, eq, he])
  · rw [hw]
    intro e he
    refine all_iff.2 fun i r hr => ?_
    obtain ⟨r', hr', er⟩ := from_s i r hr
    exact er ▸ all_at (h3 e he) hr'
  · rw [hw]
    intro hn
    refine lowestEmpty_none.2 fun i e => lowestEmpty_none.1 (h6 hn) i ?_
    have := hl i
    rw [e] at this
    simpa using this.symm

theorem insertEntry_perm (e : Entry) (l : List Entry) : (insertEntry e l).Perm (e :: l) := by
  induction l with
  | nil => exact .refl _
  | cons x xs ih =>
    unfold insertEntry
    split
    · exact (ih.cons x).trans (.swap e x xs)
    · exact .refl _

/-- An entry that arrives last of all goes behind those of its priority. -/
theorem insertEntry_ordered (e : Entry) (l : List Entry)
    (h : l.Pairwise fun x y => x.priority.rank < y.priority.rank ∨ x.priority.rank = y.priority.rank ∧ x.arrival ≤ y.arrival)
    (ha : ∀ x ∈ l, x.arrival ≤ e.arrival) : (insertEntry e l).Pairwise fun x y =>
      x.priority.rank < y.priority.rank ∨ x.priority.rank = y.priority.rank ∧ x.arrival ≤ y.arrival := by
  induction l with
  | nil => exact List.pairwise_singleton _ e
  | cons x xs ih =>
    obtain ⟨hx, hxs⟩ := List.pairwise_cons.1 h
    unfold insertEntry
    split
    · next hle =>
      refine List.pairwise_cons.2 ⟨fun y hy => ?_, ih hxs fun y hy => ha y (List.mem_cons_of_mem _ hy)⟩
      rcases (mem_insertEntry _ _ _).1 hy with rfl | hy
      · rcases Nat.lt_or_eq_of_le hle with hlt | heq
        · exact .inl hlt
        · exact .inr ⟨heq, ha x (List.mem_cons_self ..)⟩
      · exact hx y hy
    · next hgt =>
      refine List.pairwise_cons.2 ⟨fun y hy => ?_, h⟩
      have hgt := not_le.1 hgt
      rcases List.mem_cons.1 hy with rfl | hy
      · exact .inl hgt
      · rcases hx y hy with hlt | ⟨heq, -⟩
        · exact .inl (hgt.trans hlt)
        · exact .inl (heq ▸ hgt)

theorem waiting_nil_of_lowestEmpty (h : s.tableLaw) {i : Slot} (hi : s.lowestEmpty = some i) : s.waiting = [] := by
  by_contra hn
  rw [h.full hn] at hi
  cases hi

theorem records_of_find_none {p : Point} (h : s.find p = none) : s.all fun r => r.point ≠ p := fun r hr => find_none h r hr

theorem secondsEnd_points (s : State) (c : Console) (i : Slot) :
    ((s.secondsEnd c).live[i]).map Record.point = (s.live[i]).map Record.point := by
  unfold State.secondsEnd
  dsimp only
  split
  · simp only [State.markAll_live, State.releaseHeld, State.mapRecords, State.setConsole_live, Fin.getElem_fin,
      Vector.getElem_ofFn, Option.map_map]
    congr 1
    funext r
    dsimp only [Function.comp_apply]
    split <;> rfl
  · rfl

theorem tableLaw_keep_slots : SeatKeep State.tableLaw where
  congr h e := tableLaw_congr h e.live e.waiting e.time.ge
  slot {s i r q} h hr hb := by
    refine tableLaw_map h (fun j => ?_) rfl rfl
    simp only [State.setSlot_live, Fin.getElem_fin, set_get]
    split
    · next e => subst e; rw [show s.live[j.val] = some r from hr]; exact congrArg some hb.point
    · rfl
  records {s f} h hf := by
    refine tableLaw_map h (fun j => ?_) (by simp) (by simp)
    simp only [State.mapRecords, Fin.getElem_fin, Vector.getElem_ofFn, Option.map_map]
    congr 1
    funext r
    exact (hf r).point
  removals l h _ := by
    have hc := removed_keeps (P := State.tableCore) (fun _ i r hu => tableCore_remove hu i r) l ((tableLaw_iff _).1 h).1
    exact tableLaw_fillFrom _ _ rfl hc
  seat {s i p} k h hf _ hi := by
    have hw := waiting_nil_of_lowestEmpty h hi
    have hl : (s.admitRecord i (s.freshRecord p k)).live = (s.setSlot i (some (s.annunciated (s.freshRecord p k)))).live := by
      simp [State.admitRecord, State.annunciate]
    have hw' : (s.admitRecord i (s.freshRecord p k)).waiting = [] := by simp [hw]
    refine (tableLaw_iff _).2 ⟨⟨onceLive_of_live (onceLive_setSlot_some ((tableLaw_iff s).1 h).1.once ?_) hl, ?_, ?_, ?_, ?_⟩,
      fun hn => absurd hw' hn⟩
    · exact fun j q hj he => absurd he (all_at (records_of_find_none hf) hj)
    all_goals simp [hw]
  queue {s p} k h hf he hn := by
    refine (tableLaw_iff _).2 ⟨⟨((tableLaw_iff s).1 h).1.once, ?_, ?_, ?_, ?_⟩, fun _ => hn⟩
    · refine ((insertEntry_perm _ _).map Entry.point).nodup_iff.2 (List.nodup_cons.2 ⟨fun hm => ?_, h.queued⟩)
      obtain ⟨e, hm, hp⟩ := List.mem_map.1 hm
      exact entryOf_none he e hm hp
    · intro e hm
      rcases (mem_insertEntry _ _ _).1 hm with rfl | hm
      · exact records_of_find_none hf
      · exact h.apart e hm
    · exact insertEntry_ordered _ _ h.ordered h.arrived
    · intro e hm
      rcases (mem_insertEntry _ _ _).1 hm with rfl | hm
      · exact le_refl _
      · exact h.arrived e hm
  entry {s p f} h hf := by
    have hb : ∀ e, s.EntryBecomes e (if e.point = p then f e else e) := by
      intro e
      split
      · next he => exact hf e he
      · exact ⟨rfl, rfl, rfl, id⟩
    refine ⟨h.once, ?_, ?_, fun hn => h.full fun e => hn (by simp [State.setEntry, e]), ?_, ?_⟩
    · have hm : (s.setEntry p f).waiting.map Entry.point = s.waiting.map Entry.point := by
        simp only [State.setEntry, List.map_map]
        exact List.map_congr_left fun e _ => (hb e).point
      rw [hm]
      exact h.queued
    · intro e he
      obtain ⟨x, hx, rfl⟩ := List.mem_map.1 he
      rw [(hb x).point]
      exact h.apart x hx
    · simp only [State.setEntry, List.pairwise_map]
      exact h.ordered.imp fun {x y} hxy => by
        rw [(hb x).priority, (hb y).priority, (hb x).arrival, (hb y).arrival]; exact hxy
    · intro e he
      obtain ⟨x, hx, rfl⟩ := List.mem_map.1 he
      rw [(hb x).arrival]
      exact h.arrived x hx
  drop {s} p h := by
    have hsub : (s.waiting.filter fun x => x.point != p).Sublist s.waiting := List.filter_sublist
    refine ⟨h.once, (hsub.map Entry.point).nodup h.queued, fun e he => h.apart e (hsub.subset he),
      fun hn => h.full fun e => hn ?_, h.ordered.sublist hsub, fun e he => h.arrived e (hsub.subset he)⟩
    simp [e]

theorem tableLaw_keep : TableKeep State.tableLaw where
  slots := tableLaw_keep_slots.toSlotKeep
  congr h e := tableLaw_congr h e.live e.waiting e.time.ge
  reroute {s} h := by
    refine tableLaw_map h (fun j => ?_) (by simp) (by simp)
    simp only [State.reroute, Fin.getElem_fin, Vector.getElem_ofFn, Option.map_map]
    congr 1
    funext r
    dsimp only [Function.comp_apply]
    split
    · exact moved_point s r _
    · rfl
  point n h _ := tableLaw_congr h rfl rfl (le_refl _)
  seconds {s} c h := tableLaw_map h (secondsEnd_points s c) (by simp) (by simp)
  later h := tableLaw_congr h rfl rfl (Nat.le_succ _)
  cold b := by
    refine ⟨by rw [started_records]; exact List.nodup_nil, List.nodup_nil, fun e he => absurd he List.not_mem_nil,
      fun hn => absurd rfl hn, List.Pairwise.nil, fun e he => absurd he List.not_mem_nil⟩

end TableLaw

/-- Settles O12: a removal is filled from the head of the queue, and a new entry goes behind those of its priority. -/
theorem stepsKeepTheTable : Obligations.StepsKeepTheTable :=
  fun _ _ hs h => step_keeps (tableLaw_keep.opsKeep tableLaw_keep_slots) hs h

/-! ### The law of the held records, and of the loads -/

section HeldLaw

variable {s t : State}

theorem heldWell_congr {r : Record} (h : s.heldWell r) (e : ∀ c : Console, t.consoles[c].flooded = s.consoles[c].flooded) :
    t.heldWell r := by
  intro hf
  obtain ⟨h1, h2, h3, c, h4, h5⟩ := h hf
  exact ⟨h1, h2, h3, c, h4, (e c).trans h5⟩

theorem heldWell_annunciated (u : State) (r : Record) : u.heldWell (u.annunciated r) := by
  intro hf
  obtain ⟨h1, h2, c, h3, h4⟩ := (holds_iff u r _).1 hf
  exact ⟨h1, h2, rfl, c, h3, h4⟩

/-- A record keeps its flood-held flag in a move only to a FLOODED console (R109). -/
theorem moved_heldWell {r : Record} (h : s.heldWell r) (x : Option Console) : s.heldWell (s.moved r x) := by
  rw [moved_eq]
  unfold movedTo
  split
  · exact fun e => Bool.noConfusion e
  · next hn =>
    intro hf
    obtain ⟨h1, h2, h3, -⟩ := h hf
    exact ⟨h1, h2, h3, not_not.1 (not_and.1 hn hf)⟩

theorem heldLaw_iff (s : State) : s.heldLaw ↔ s.all s.heldWell := Iff.rfl

theorem heldLaw_congr (h : s.heldLaw) (hl : t.live = s.live)
    (e : ∀ c : Console, t.consoles[c].flooded = s.consoles[c].flooded) : t.heldLaw :=
  fun r hr => heldWell_congr (all_of_live hl h r hr) e

theorem mapRecords_all {Q : Record → Prop} {f : Record → Record} (hf : ∀ r ∈ s.records, Q (f r)) :
    (s.mapRecords f).all Q := by
  rw [all_iff]
  intro j r hr
  simp only [State.mapRecords, Fin.getElem_fin, Vector.getElem_ofFn, Option.map_eq_some_iff] at hr
  obtain ⟨q, hq, rfl⟩ := hr
  exact hf q ((mem_records s q).2 ⟨j, hq⟩)

theorem fillFrom_flooded (l : List Entry) (s : State) (c : Console) :
    (State.fillFrom l s).consoles[c].flooded = s.consoles[c].flooded := by
  induction l generalizing s with
  | nil => rfl
  | cons e es ih =>
    cases hl : s.lowestEmpty with
    | some i =>
      simp only [State.fillFrom, hl]
      exact (ih _).trans ((admitEntry_ground s i e es).flooded c)
    | none => simp only [State.fillFrom, hl]

theorem heldLaw_fill (h : s.heldLaw) : s.fill.heldLaw := by
  have key : s.fill.all s.heldWell := all_fill h fun e _ u hu =>
    heldWell_congr (heldWell_annunciated u _) fun c => (hu.flooded c).symm
  exact fun r hr => heldWell_congr (key r hr) (fillFrom_flooded _ s)

/-- A second's end releases, at a flood's end, what was held at the console. -/
theorem heldLaw_secondsEnd (h : s.heldLaw) (c : Console) : (s.secondsEnd c).heldLaw := by
  have keep : ∀ (u : State) (r : Record), s.heldWell r → (r.floodHeld = true → r.route = some c →
      u.consoles[c].flooded = true) → (∀ d, d ≠ c → u.consoles[d].flooded = s.consoles[d].flooded) → u.heldWell r := by
    intro u r hr hc ho hf
    obtain ⟨h1, h2, h3, d, h4, h5⟩ := hr hf
    refine ⟨h1, h2, h3, d, h4, ?_⟩
    by_cases e : d = c
    · subst e; exact hc hf h4
    · exact (ho d e).trans h5
  have other : ∀ d, d ≠ c → (s.secondsEnd c).consoles[d].flooded = s.consoles[d].flooded := by
    intro d hd
    unfold State.secondsEnd
    dsimp only
    split <;> simp [State.releaseHeld, upd_get, hd]
  have atc : (s.secondsEnd c).consoles[c].flooded =
      s.cfg.params.judgeFlood s.consoles[c].flooded (nextLoad s.consoles[c].load s.consoles[c].secondSum) := by
    unfold State.secondsEnd
    dsimp only
    split <;> simp [State.releaseHeld]
  cases hx : s.consoles[c].flooded &&
      !s.cfg.params.judgeFlood s.consoles[c].flooded (nextLoad s.consoles[c].load s.consoles[c].secondSum) with
  | true =>
    have hl : (s.secondsEnd c).live = (s.releaseHeld c).live := by
      unfold State.secondsEnd
      dsimp only
      rw [hx]
      rfl
    refine all_of_live (Q := (s.secondsEnd c).heldWell) hl (mapRecords_all fun r hm => ?_)
    split
    · exact fun e => by cases e
    · next hn =>
      refine keep _ r (h r hm) (fun hf hc => ?_) other
      simp [hf, hc] at hn
  | false =>
    have hl : (s.secondsEnd c).live = s.live := by
      unfold State.secondsEnd
      dsimp only
      rw [hx]
      rfl
    refine all_of_live hl fun r hm => keep _ r (h r hm) (fun hf hc => ?_) other
    obtain ⟨-, -, -, d, h4, h5⟩ := h r hm hf
    cases hc.symm.trans h4
    rw [atc]
    simp only [Fin.getElem_fin] at h5 hx ⊢
    simpa [h5] using hx

theorem heldLaw_keep_slots : SeatKeep State.heldLaw where
  congr h e := heldLaw_congr h e.live e.flooded
  slot {s i r q} h hr hb := all_setSlot_some (s := s) (Q := s.heldWell) h (hb.held (all_at (Q := s.heldWell) h hr))
  records {s f} h hf := fun r hr =>
    heldWell_congr (all_mapRecords (Q := s.heldWell) h (fun r _ hr => (hf r).held hr) r hr) fun c => by rw [State.mapRecords_consoles]
  removals l h _ := by
    refine heldLaw_fill (removed_keeps (fun u i r hu => ?_) l h)
    exact heldLaw_congr (s := u.setSlot i none) (all_setSlot_none (Q := u.heldWell) hu) (by simp [State.remove]) (by simp)
  seat {s i p} k h _ _ _ := by
    refine heldLaw_congr (s := s.setSlot i (some (s.annunciated (s.freshRecord p k))))
      (all_setSlot_some (Q := s.heldWell) h (heldWell_annunciated s _)) (by simp [State.admitRecord, State.annunciate]) fun c => ?_
    rw [State.admitRecord_consoles]
    exact annunciate_flooded s i _ c
  queue k h _ _ _ := h
  entry h _ := h
  drop p h := h

theorem heldLaw_keep : TableKeep State.heldLaw where
  slots := heldLaw_keep_slots.toSlotKeep
  congr h e := heldLaw_congr h e.live e.flooded
  reroute {s} h := fun r hr => heldWell_congr
    (all_reroute (Q := s.heldWell) h (fun r _ hr _ => moved_heldWell hr _) r hr) fun c => by rw [State.reroute_consoles]
  point n h _ := h
  seconds c h := heldLaw_secondsEnd h c
  later h := h
  cold b := fun r hr => by rw [started_records] at hr; exact absurd hr List.not_mem_nil

end HeldLaw

end Sys2Proof.Machine
end

section
/-! What the events of single records change beside the table: the second's sums and the item lists. And the law of the
loads (R99 to R101): only an annunciation and a second's end move a load field, and each within its range. -/

namespace Sys2Proof.Machine

/-- A predicate that the changes of the table, of a second's sum and of the item lists keep. -/
structure EventKeep (P : State → Prop) : Prop where
  live : ∀ {s : State} (l : Vector (Option Record) 64), P s → P { s with live := l }
  waiting : ∀ {s : State} (l : List Entry), P s → P { s with waiting := l }
  weight : ∀ {s : State} (c : Console) (w : Nat), P s → P { s with consoles := upd s.consoles c fun k => k.addWeight w }
  items : ∀ {s : State} (f : Console → Phase → Phase), (∀ c p, ∃ l, f c p = p.withItems l) → P s → P (s.mapPhases f)
  marks : ∀ {s : State} (l : List Ref), P s → P (s.markAll l)

theorem withItems_items (p : Phase) : p.withItems p.items = p := by cases p <;> rfl

namespace EventKeep

variable {P : State → Prop} {s : State}

theorem mapRecords (hP : EventKeep P) (h : P s) (f : Record → Record) : P (s.mapRecords f) := hP.live _ h

theorem setSlot (hP : EventKeep P) (h : P s) (i : Slot) (x : Option Record) : P (s.setSlot i x) := hP.live _ h

theorem annunciate (hP : EventKeep P) (h : P s) (i : Slot) (r : Record) : P (s.annunciate i r) := by
  unfold State.annunciate
  cases hc : s.countsToward r with
  | none => exact hP.live _ h
  | some c => exact hP.live (s.live.set i.val (some (s.annunciated r)) i.isLt) (hP.weight c r.priority.weight h)

theorem appendItem (hP : EventKeep P) (h : P s) (a : Area) (x : ItemRef) : P (s.appendItem a x) := by
  refine hP.items _ (fun c p => ?_) h
  split
  · exact ⟨_, rfl⟩
  · exact ⟨p.items, (withItems_items p).symm⟩

theorem dropItem (hP : EventKeep P) (h : P s) (x : ItemRef) : P (s.dropItem x) :=
  hP.marks _ (hP.items _ (fun _ _ => ⟨_, rfl⟩) h)

theorem unseeItem (hP : EventKeep P) (h : P s) (x : ItemRef) : P (s.unseeItem x) :=
  hP.items _ (fun _ _ => ⟨_, rfl⟩) h

theorem remove (hP : EventKeep P) (h : P s) (i : Slot) (r : Record) : P (s.remove i r) :=
  hP.dropItem (hP.marks _ (hP.live _ h)) _

theorem admitRecord (hP : EventKeep P) (h : P s) (i : Slot) (r : Record) : P (s.admitRecord i r) :=
  hP.appendItem (hP.annunciate h i r) _ _

theorem fillFrom (hP : EventKeep P) (l : List Entry) (h : P s) : P (State.fillFrom l s) := by
  induction l generalizing s with
  | nil => exact h
  | cons e es ih =>
    unfold State.fillFrom
    split
    · next i _ => exact ih (hP.marks _ (hP.admitRecord (hP.waiting es h) i _))
    · exact h

theorem removeAll (hP : EventKeep P) (l : List (Slot × Record)) (h : P s) : P (s.removeAll l) :=
  hP.fillFrom _ (removed_keeps (P := P) (fun _ i r hu => hP.remove hu i r) l h)

theorem removeAndFill (hP : EventKeep P) (h : P s) (i : Slot) (r : Record) : P (s.removeAndFill i r) :=
  hP.removeAll [(i, r)] h

theorem reraise (hP : EventKeep P) (h : P s) (i : Slot) (r : Record) (k : Cause) : P (s.reraise i r k) :=
  hP.unseeItem (hP.annunciate h i _) _

theorem raisePoint (hP : EventKeep P) (h : P s) (p : Point) (k : Cause) : (s.raisePoint p k).keeps P := by
  have standing : ∀ i r, (s.raiseStanding i r k).keeps P := by
    intro i r
    unfold State.raiseStanding
    split
    · simp
    · intro u hu; cases hu; exact hP.live _ h
  unfold State.raisePoint
  split
  · unfold State.raiseRecord
    split
    · exact standing _ _
    · exact standing _ _
    · exact Effect.keeps_accept (hP.reraise h _ _ k)
    · exact Effect.keeps_accept (hP.reraise h _ _ k)
    · split
      · exact standing _ _
      · exact Effect.keeps_accept (hP.live _ h)
  · split
    · exact Effect.keeps_accept (hP.waiting _ h)
    · unfold State.raiseNormal
      split
      · exact Effect.keeps_accept (hP.admitRecord h _ _)
      · exact Effect.keeps_accept (hP.waiting _ h)

theorem clearPoint (hP : EventKeep P) (h : P s) (p : Point) : (s.clearPoint p).keeps P := by
  have removed : ∀ i r, (Effect.accept (s.removeAndFill i r)).keeps P := fun i r =>
    Effect.keeps_accept (hP.removeAndFill h i r)
  unfold State.clearPoint
  split
  · unfold State.clearRecord
    split
    · split
      · exact removed _ _
      · exact Effect.keeps_accept (hP.live _ h)
    · split
      · exact Effect.keeps_accept (hP.live _ h)
      · exact removed _ _
    · simp
    · simp
    · split
      · exact Effect.keeps_accept (hP.live _ h)
      · simp
  · split
    · unfold State.clearEntry
      split
      · simp
      · split <;> exact Effect.keeps_accept (hP.waiting _ h)
    · simp

theorem acknowledge (hP : EventKeep P) (h : P s) (i : Slot) (r : Record) (o : Operator) : P (s.acknowledge i r o) := by
  unfold State.acknowledge
  split
  · exact hP.marks _ (hP.live _ h)
  · exact hP.removeAndFill h i r
  · exact hP.marks _ (hP.live _ h)

theorem endShelf (hP : EventKeep P) (h : P s) (i : Slot) (r : Record) : P (s.endShelf i r) := by
  unfold State.endShelf
  split
  · exact hP.unseeItem (hP.annunciate h i _) _
  · exact hP.removeAndFill h i r

end EventKeep

section LoadLaw

variable {s t : State}

theorem loadLaw_congr (h : s.loadLaw) (e : sameAt ConsoleRecord.loads s t) : t.loadLaw := by
  intro c
  rw [show t.consoles[c].load = s.consoles[c].load from congrArg (·.1) (e c),
    show t.consoles[c].secondSum = s.consoles[c].secondSum from congrArg (·.2.2.1) (e c)]
  exact h c

theorem loadLaw_of_consoles (h : s.loadLaw) (e : t.consoles = s.consoles) : t.loadLaw :=
  loadLaw_congr h (sameAt_of_consoles e)

/-- One console's record changes, and its load fields stay within their ranges. -/
theorem loadLaw_upd (h : s.loadLaw) {c : Console} {f : ConsoleRecord → ConsoleRecord}
    (e : t.consoles = upd s.consoles c f)
    (hf : (f s.consoles[c]).load ≤ 65535 ∧ (f s.consoles[c]).secondSum ≤ 65535) : t.loadLaw := by
  intro d
  rw [e]
  simp only [Fin.getElem_fin, upd_get]
  split
  · next e => subst e; exact hf
  · exact h d

theorem loadLaw_events : EventKeep State.loadLaw where
  live _ h := h
  waiting _ h := h
  weight c w h := loadLaw_upd h (c := c) (f := fun k => k.addWeight w) rfl ⟨(h c).1, Nat.min_le_left _ _⟩
  items _ _ h := h
  marks _ h := h

theorem secondsEnd_loadLaw (h : s.loadLaw) (c : Console) : (s.secondsEnd c).loadLaw := by
  refine loadLaw_upd (c := c) h (f := fun k => { k with
    load := nextLoad s.consoles[c].load s.consoles[c].secondSum
    flooded := s.cfg.params.judgeFlood s.consoles[c].flooded (nextLoad s.consoles[c].load s.consoles[c].secondSum)
    secondSum := 0
    secondTaken := s.partTime }) ?_ ⟨Nat.min_le_left _ _, Nat.zero_le _⟩
  unfold State.secondsEnd
  dsimp only
  split
  · simp only [State.markAll_consoles, State.releaseHeld, State.mapRecords_consoles, State.setConsole_consoles]
  · rfl

theorem loadLaw_keep : OpsKeep State.loadLaw where
  skel {s t} e h := fun c => by
    rw [show t.consoles[c].load = _ from skel_load e c, show t.consoles[c].secondSum = _ from skel_secondSum e c]
    exact h c
  raise p k h := loadLaw_events.raisePoint h p k
  clear p h := loadLaw_events.clearPoint h p
  point _ _ _ _ h _ := h
  lineConfig _ _ h := h
  acknowledge o h _ _ := loadLaw_events.acknowledge h _ _ o
  silence c h := loadLaw_of_consoles h (by simp)
  removal h _ := loadLaw_events.removeAndFill h _ _
  removals _ _ h := loadLaw_events.removeAll _ h
  shelve _ _ h _ _ := h
  endShelf h _ _ := loadLaw_events.endShelf h _ _
  remind h _ _ := h
  escalate h _ _ := h
  levels _ _ _ _ h := h
  move _ _ a x y h _ := loadLaw_congr h (moveArea_loads _ a x y)
  roster _ _ _ _ _ _ _ h _ _ _ := h
  status _ h := h
  retire _ h _ := h
  abort c x h := loadLaw_of_consoles h (by simp)
  sessionEnd c x h _ := loadLaw_congr h (endSession_loads _ c x)
  leave c x h _ := loadLaw_congr h (endSession_loads _ c x)
  graceEnd c x h _ := loadLaw_congr h (endSession_loads _ c x)
  suspend o h := loadLaw_congr h (suspend_loads _ o)
  seconds c h := secondsEnd_loadLaw h c
  failed c n h := loadLaw_congr h (failWindow_loads _ c n)
  bringUp c h _ := loadLaw_congr h (bringUp_loads _ c)
  success c w h _ := loadLaw_congr h (sameAt_setConsole c rfl)
  horn c b h := loadLaw_congr h (hornReport_loads _ c b)
  signIn c o _ h _ _ _ _ := loadLaw_congr h (signIn_loads _ c o)
  comeIn c o _ _ _ _ h _ _ _ _ _ := loadLaw_congr h (comeIn_loads _ c o)
  restart c h _ := loadLaw_congr h (restartPort_loads _ c)
  enable c b h _ _ := loadLaw_congr h (setEnabled_loads _ c b)
  enterNote _ _ _ _ _ h _ _ := loadLaw_of_consoles h (by simp)
  clearNote _ h := loadLaw_of_consoles h (by simp)
  offer _ _ h _ _ _ := loadLaw_of_consoles h (by simp)
  seen _ _ h := loadLaw_of_consoles h (by simp)
  accept c o i _ _ h _ := loadLaw_congr h (acceptDesk_loads _ c o i)
  params w _ _ p h _ := loadLaw_congr h (takeParams_loads _ w p)
  storeWrite h := h
  later h := h
  unpowered _ h := h
  cold b _ := fun c => by simp [State.started, ConsoleRecord.start]

end LoadLaw

/-- Settles O17: a record is held at its annunciation and released when its console leaves the flood; the loads
saturate. -/
theorem stepsKeepLoadsAndFloods : Obligations.StepsKeepLoadsAndFloods :=
  ⟨fun _ _ hs h => step_keeps (heldLaw_keep.opsKeep heldLaw_keep_slots) hs h, fun _ _ hs h => step_keeps loadLaw_keep hs h⟩

end Sys2Proof.Machine
end

section
/-! The desks under each operation: what every operation makes of a console's link, count, session, horn fault flag and
handover, said once for each. -/

namespace Sys2Proof.Machine

/-- What a desk holds of a console: its link with the count, its session with the last end, the horn fault flag and its
handover. -/
structure Desk where
  link : Link
  count : Nat
  session : Session
  lastEnd : Option EndCause
  hornFault : Bool
  handover : Handover

def State.deskAt (s : State) (c : Console) : Desk :=
  { link := s.consoles[c].link, count := s.consoles[c].count, session := s.consoles[c].session,
    lastEnd := s.consoles[c].lastEnd, hornFault := s.consoles[c].hornFault, handover := s.handovers[c] }

/-- What of a console record a desk holds. -/
abbrev ConsoleRecord.desk (k : ConsoleRecord) : Link × Nat × Session × Option EndCause × Bool :=
  (k.link, k.count, k.session, k.lastEnd, k.hornFault)

/-- Every desk is as it was. -/
def State.sameDesks (s t : State) : Prop := ∀ c : Console, t.deskAt c = s.deskAt c

section SameDesks

variable {s t u : State}

theorem sameDesks_refl (s : State) : s.sameDesks s := fun _ => rfl

theorem sameDesks_trans (h : s.sameDesks t) (k : t.sameDesks u) : s.sameDesks u := fun c => (k c).trans (h c)

theorem deskAt_congr {c : Console} (hk : t.consoles[c].desk = s.consoles[c].desk) (hh : t.handovers[c] = s.handovers[c]) :
    t.deskAt c = s.deskAt c := by
  obtain ⟨h1, h2⟩ := Prod.ext_iff.1 hk
  obtain ⟨h2, h3⟩ := Prod.ext_iff.1 h2
  obtain ⟨h3, h4⟩ := Prod.ext_iff.1 h3
  obtain ⟨h4, h5⟩ := Prod.ext_iff.1 h4
  dsimp only at h1 h2 h3 h4 h5
  unfold State.deskAt
  rw [h1, h2, h3, h4, h5, hh]

theorem sameDesks_of (hk : sameAt ConsoleRecord.desk s t) (hh : t.handovers = s.handovers) : s.sameDesks t :=
  fun c => deskAt_congr (hk c) (by rw [hh])

theorem sameDesks_of_consoles (hk : t.consoles = s.consoles) (hh : t.handovers = s.handovers) : s.sameDesks t :=
  sameDesks_of (sameAt_of_consoles hk) hh

theorem deskAt_skel (h : t.skel = s.skel) (c : Console) :
    (t.deskAt c).link = (s.deskAt c).link ∧ (t.deskAt c).count = (s.deskAt c).count ∧
      (t.deskAt c).session = (s.deskAt c).session ∧ (t.deskAt c).handover = (s.deskAt c).handover :=
  ⟨skel_link h c, skel_count h c, skel_session h c, by simp only [State.deskAt, skel_handovers h]⟩

end SameDesks

/-! ### What the operations make of one desk -/

def Desk.aborted (d : Desk) (x : HandoverOutcome) : Desk :=
  { d with handover := match d.handover.phase with
    | .none => d.handover
    | _ => { phase := .none, lastOutcome := some x } }

def Desk.ended (d : Desk) (x : EndCause) : Desk := { d with session := .none, lastEnd := some x }

def Desk.detached (d : Desk) (n : Nat) : Desk :=
  { d with session := match d.session with
    | .attached o => .detached o n
    | x => x }

def Desk.lost (d : Desk) (n : Nat) : Desk :=
  match d.link with
  | .up w => (({ d with link := .lost w }).aborted .linkLost).detached n
  | _ => d

/-- A session of an operator that is DETACHED ends MOVED. -/
def Desk.moved (d : Desk) (o : Operator) : Desk :=
  match d.session with
  | .detached p _ => if p = o then d.ended .moved else d
  | _ => d

theorem Desk.aborted_phase (d : Desk) (x : HandoverOutcome) : (d.aborted x).handover.phase = .none := by
  unfold Desk.aborted
  dsimp only
  split
  · next h => exact h
  · rfl

theorem Desk.aborted_of_none {d : Desk} (h : d.handover.phase = .none) (x : HandoverOutcome) : d.aborted x = d := by
  unfold Desk.aborted
  rw [h]

theorem Desk.aborted_of_phase {d : Desk} (h : d.handover.phase = .none → False) (x : HandoverOutcome) :
    d.aborted x = { d with handover := { phase := .none, lastOutcome := some x } } := by
  unfold Desk.aborted
  split
  · next e => exact absurd e h
  · rfl

section Ops

variable (s : State) (c d : Console)

theorem deskAt_markAll (l : List Ref) : (s.markAll l).deskAt d = s.deskAt d := rfl

theorem deskAt_storeWrite : s.storeWrite.deskAt d = s.deskAt d := rfl

theorem deskAt_requalify (l : List Console) : (s.requalify l).deskAt d = s.deskAt d := by
  refine deskAt_congr ?_ (by simp)
  simp only [State.requalify, State.markAll_consoles, Fin.getElem_fin, Vector.getElem_ofFn]
  split <;> rfl

theorem deskAt_reroute : s.reroute.deskAt d = s.deskAt d := sameDesks_of_consoles (by simp) (by simp) d

theorem deskAt_rerouteStep : s.rerouteStep.deskAt d = s.deskAt d := sameDesks_of_consoles (by simp) (by simp) d

/-- A change of one console's record. -/
theorem deskAt_setConsole (f : ConsoleRecord → ConsoleRecord) : (s.setConsole c f).deskAt d =
    if d = c then ⟨(f s.consoles[c]).link, (f s.consoles[c]).count, (f s.consoles[c]).session, (f s.consoles[c]).lastEnd,
      (f s.consoles[c]).hornFault, s.handovers[c]⟩
    else s.deskAt d := by
  unfold State.deskAt
  simp only [State.setConsole_consoles, State.setConsole_handovers, Fin.getElem_fin, upd_get]
  split
  · next e => subst e; rfl
  · rfl

theorem deskAt_setPhase (p : Phase) : (s.setPhase c p).deskAt d =
    if d = c then { s.deskAt c with handover := { s.handovers[c] with phase := p } } else s.deskAt d := by
  unfold State.deskAt State.setPhase
  simp only [Fin.getElem_fin, upd_get]
  split
  · next e => subst e; rfl
  · rfl

theorem deskAt_abortHandover (x : HandoverOutcome) :
    (s.abortHandover c x).deskAt d = if d = c then (s.deskAt c).aborted x else s.deskAt d := by
  unfold State.abortHandover
  split
  · next h =>
    rw [Desk.aborted_of_none (d := s.deskAt c) h]
    split
    · next e => rw [e]
    · rfl
  · next h =>
    rw [Desk.aborted_of_phase (d := s.deskAt c) h]
    unfold State.deskAt
    simp only [State.markAll_handovers, State.markAll_consoles, Fin.getElem_fin, upd_get]
    split
    · next e => subst e; rfl
    · rfl

theorem deskAt_dropSession (x : EndCause) :
    (s.dropSession c x).deskAt d = if d = c then (s.deskAt c).ended x else s.deskAt d := by
  unfold State.dropSession
  rw [deskAt_markAll, deskAt_setConsole]
  rfl

theorem deskAt_endSession (x : EndCause) : (s.endSession c x).deskAt d =
    if d = c ∧ s.consoles[c].session.inCharge ≠ none then (s.deskAt c).ended x else s.deskAt d := by
  unfold State.endSession
  split
  · next h => rw [h]; simp
  · next h =>
    rw [deskAt_markAll, deskAt_rerouteStep, deskAt_dropSession, h]
    simp

theorem deskAt_detach : (s.detach c).deskAt d =
    if d = c then (s.deskAt c).detached (s.partTime + 10 * s.cfg.params.graceTime) else s.deskAt d := by
  unfold State.detach Desk.detached State.deskAt
  cases h : s.consoles[c].session with
  | attached o =>
    dsimp only
    simp only [State.markAll_consoles, State.setConsole_consoles, State.markAll_handovers, State.setConsole_handovers,
      Fin.getElem_fin, upd_get]
    split
    · next e => subst e; rfl
    · rfl
  | none =>
    dsimp only
    split
    · next e => subst e; rw [h]
    · rfl
  | detached o n =>
    dsimp only
    split
    · next e => subst e; rw [h]
    · rfl

theorem detach_of_time {s : State} {t : State} (ht : t.partTime = s.partTime) (hp : t.cfg.params = s.cfg.params) (c d : Console) :
    (t.detach c).deskAt d =
      if d = c then (t.deskAt c).detached (s.partTime + 10 * s.cfg.params.graceTime) else t.deskAt d := by
  rw [deskAt_detach, ht, hp]

theorem deskAt_loseLink : (s.loseLink c).deskAt d =
    if d = c then (s.deskAt c).lost (s.partTime + 10 * s.cfg.params.graceTime) else s.deskAt d := by
  unfold State.loseLink
  split
  · next w h =>
    rw [detach_of_time (s := s) (by simp) (by simp), deskAt_abortHandover, deskAt_abortHandover, deskAt_markAll, deskAt_markAll,
      deskAt_setConsole, deskAt_setConsole]
    split
    · next e =>
      subst e
      simp only [if_true, Desk.lost, show (s.deskAt d).link = _ from h]
      rfl
    · rfl
  · next h =>
    split
    · next e =>
      subst e
      unfold Desk.lost
      split
      · next w hw => exact absurd hw (h w)
      · rfl
    · rfl

/-- What the fail of a window makes of a desk, with the fail limit, the new window and the end of a grace from now. -/
def Desk.failed (d : Desk) (limit : Nat) (w : Window) (grace : Nat) : Desk :=
  let n := min (d.count + 2) (limit + 1)
  let e := { d with count := n, link := d.link.withWindow w }
  if d.link.isUp && limit ≤ n then e.lost grace else e

theorem deskAt_failWindow (n : Nat) : (s.failWindow c n).deskAt d =
    if d = c then (s.deskAt c).failed s.cfg.params.failLimit (s.newWindow n) (s.partTime + 10 * s.cfg.params.graceTime)
    else s.deskAt d := by
  have h : ∀ l e, ((s.setConsole c fun k => { k with
      count := min (s.consoles[c].count + 2) (s.cfg.params.failLimit + 1)
      link := k.link.withWindow (s.newWindow n) }).markAll l).deskAt e =
      if e = c then { s.deskAt c with
        count := min ((s.deskAt c).count + 2) (s.cfg.params.failLimit + 1)
        link := (s.deskAt c).link.withWindow (s.newWindow n) } else s.deskAt e := by
    intro l e
    rw [deskAt_markAll, deskAt_setConsole]
    rfl
  unfold State.failWindow Desk.failed
  dsimp only
  split
  · next hc =>
    have hc' : ((s.deskAt c).link.isUp && decide (s.cfg.params.failLimit ≤
      min ((s.deskAt c).count + 2) (s.cfg.params.failLimit + 1))) = true := hc
    rw [deskAt_rerouteStep, deskAt_loseLink, h, h, if_pos rfl, if_pos hc']
    split <;> rfl
  · next hc =>
    have hc' : ¬((s.deskAt c).link.isUp && decide (s.cfg.params.failLimit ≤
      min ((s.deskAt c).count + 2) (s.cfg.params.failLimit + 1))) = true := hc
    rw [h, if_neg hc']

theorem deskAt_bringUp : (s.bringUp c).deskAt d =
    if d = c then { s.deskAt c with link := .up (s.newWindow s.partTime), count := 0, session := (s.deskAt c).session.reattach }
    else s.deskAt d := by
  unfold State.bringUp
  rw [deskAt_reroute, deskAt_setConsole]
  rfl

theorem deskAt_faultHorn : (s.faultHorn c).deskAt d =
    if d = c then { s.deskAt c with hornFault := true } else s.deskAt d := by
  unfold State.faultHorn
  rw [deskAt_setConsole]
  unfold State.deskAt
  rw [State.mapRecords_consoles, State.mapRecords_handovers]

theorem deskAt_hornReport (b : Bool) : (s.hornReport c b).deskAt d =
    if d = c then { s.deskAt c with hornFault := s.consoles[c].hornFault || b } else s.deskAt d := by
  unfold State.hornReport
  split
  · next h =>
    rw [deskAt_markAll, deskAt_faultHorn]
    simp only [Bool.and_eq_true] at h
    simp [h.1]
  · next h =>
    split
    · next e =>
      subst e
      cases hf : s.consoles[d].hornFault <;> cases b <;> simp_all [State.deskAt]
    · rfl

theorem deskAt_moveSessions (o : Operator) : (s.moveSessions o).deskAt d = (s.deskAt d).moved o := by
  unfold State.deskAt State.moveSessions Desk.moved State.detachedOf
  simp only [Fin.getElem_fin, Vector.getElem_ofFn]
  cases h : s.consoles[d.val].session with
  | detached p n =>
    dsimp only
    split
    · simp_all [Desk.ended]
    · simp_all
  | attached p => simp [h]
  | none => simp [h]

theorem deskAt_signIn (o : Operator) : (s.signIn c o).deskAt d =
    if d = c then { (s.deskAt c).moved o with session := .attached o } else (s.deskAt d).moved o := by
  unfold State.signIn
  rw [deskAt_markAll, deskAt_rerouteStep, deskAt_requalify, deskAt_setConsole]
  split
  · next e => subst e; rw [← deskAt_moveSessions]; rfl
  · exact deskAt_moveSessions s d o

theorem moved_of_none {d : Desk} {o : Operator} (h : ∀ n, d.session ≠ .detached o n) : d.moved o = d := by
  unfold Desk.moved
  split
  · next p n hs =>
    split
    · next e => exact absurd (e ▸ hs) (h n)
    · rfl
  · rfl

theorem detachedConsoles_nil {o : Operator} (h : (s.detachedConsoles o).isEmpty = true) (d : Console) (n : Nat) :
    (s.deskAt d).session ≠ .detached o n := by
  intro he
  have hm : d ∈ s.detachedConsoles o := by
    unfold State.detachedConsoles
    rw [mem_numbersWhere]
    unfold State.detachedOf
    rw [show s.consoles[d].session = _ from he]
    simp
  rw [List.isEmpty_iff.1 h] at hm
  cases hm

theorem deskAt_comeIn (o : Operator) : (s.comeIn c o).deskAt d =
    if d = c then { (s.deskAt c).moved o with handover := { s.handovers[c] with phase := match s.handovers[c].phase with
      | .offered out _ items => .review out o (s.partTime + 10 * s.cfg.params.reviewTime) items
      | p => p } }
    else (s.deskAt d).moved o := by
  unfold State.comeIn
  dsimp only
  split
  · next h =>
    rw [deskAt_markAll, deskAt_setPhase]
    have hm := fun e : Console => moved_of_none (fun n => detachedConsoles_nil s h e n)
    rw [hm, hm] <;> split <;> rfl
  · rw [deskAt_markAll, deskAt_setPhase, deskAt_rerouteStep, deskAt_rerouteStep, deskAt_moveSessions, deskAt_moveSessions,
      State.rerouteStep_handovers] <;> split <;> rfl

theorem deskAt_restartPort : (s.restartPort c).deskAt d =
    if d = c then Desk.detached { (s.deskAt c).aborted .restart with link := .down, count := 0, hornFault := false }
      (s.partTime + 10 * s.cfg.params.graceTime)
    else s.deskAt d := by
  unfold State.restartPort
  rw [deskAt_markAll, deskAt_rerouteStep, detach_of_time (s := s) (by simp) (by simp), deskAt_setConsole, deskAt_setConsole]
  split
  · next e =>
    subst e
    have ha : (s.abortHandover d .restart).deskAt d = (s.deskAt d).aborted .restart := by
      rw [deskAt_abortHandover, if_pos rfl]
    rw [if_pos rfl, ← ha]
    rfl
  · next e => rw [deskAt_abortHandover, if_neg e]

theorem deskAt_setEnabled (b : Bool) : (s.setEnabled c b).deskAt d =
    if d = c then (if b then { s.deskAt c with link := .down, count := 0 }
      else { s.deskAt c with link := .off, count := 0, hornFault := false })
    else s.deskAt d := by
  unfold State.setEnabled
  rw [deskAt_storeWrite, deskAt_reroute]
  unfold State.deskAt
  simp only [Fin.getElem_fin, upd_get]
  split
  · next e => subst e; cases b <;> rfl
  · rfl

theorem deskAt_acceptDesk (o i : Operator) : (s.acceptDesk c o i).deskAt d =
    if d = c then { s.deskAt c with session := .attached i, lastEnd := some .handedOver,
                                    handover := { phase := .none, lastOutcome := some .accepted } }
    else s.deskAt d := by
  unfold State.acceptDesk
  dsimp only
  rw [deskAt_markAll, deskAt_requalify]
  unfold State.deskAt
  simp only [State.setConsole_consoles, State.setConsole_handovers, Fin.getElem_fin, upd_get]
  split <;> rfl

theorem deskAt_offer (o : Operator) : (s.offer c o).deskAt d =
    if d = c then { s.deskAt c with handover := { s.handovers[c] with
      phase := .offered o (s.partTime + 10 * s.cfg.params.offerTime) (s.offerItems c) } }
    else s.deskAt d := by
  unfold State.offer
  rw [deskAt_markAll, deskAt_setPhase]

theorem deskAt_markSeen (x : ItemRef) : (s.markSeen c x).deskAt d =
    if d = c then { s.deskAt c with handover := { s.handovers[c] with phase := s.handovers[c].phase.setSeen x true } }
    else s.deskAt d := by
  unfold State.markSeen
  rw [deskAt_markAll, deskAt_setPhase]

theorem deskAt_dropSuspended (l : List Console) :
    (s.dropSuspended l).deskAt d = if d ∈ l then (s.deskAt d).ended .suspended else s.deskAt d := by
  unfold State.dropSuspended
  rw [deskAt_markAll]
  unfold State.deskAt
  simp only [Fin.getElem_fin, Vector.getElem_ofFn, List.contains_iff_mem]
  split <;> rfl

theorem deskAt_endSuspended (l : List Console) :
    (s.endSuspended l).deskAt d = if d ∈ l then (s.deskAt d).ended .suspended else s.deskAt d := by
  unfold State.endSuspended
  split
  · next h => rw [List.isEmpty_iff.1 h]; simp
  · rw [deskAt_markAll, deskAt_rerouteStep, deskAt_dropSuspended]

/-- Several handovers are aborted, each in its turn. -/
theorem deskAt_abortAll (l : List Console) (x : HandoverOutcome) : (l.foldl (fun t c => t.abortHandover c x) s).deskAt d =
    if d ∈ l then (s.deskAt d).aborted x else s.deskAt d := by
  have twice : ∀ k : Desk, (k.aborted x).aborted x = k.aborted x := by
    intro k
    exact Desk.aborted_of_none (Desk.aborted_phase k x) x
  induction l generalizing s with
  | nil => simp
  | cons y ys ih =>
    rw [List.foldl_cons, ih, deskAt_abortHandover]
    by_cases hy : d = y
    · subst hy
      simp [twice]
    · simp [hy]

theorem deskAt_setStatus (o : Operator) (x : OperatorStatus) : (s.setStatus o x).deskAt d = s.deskAt d := rfl

theorem deskAt_suspend (o : Operator) : (s.suspend o).deskAt d =
    let k := if d ∈ s.handoversOf o then (s.deskAt d).aborted .suspended else s.deskAt d
    if d ∈ s.consolesOf o then k.ended .suspended else k := by
  unfold State.suspend
  dsimp only
  rw [deskAt_storeWrite, deskAt_markAll, deskAt_endSuspended, deskAt_abortAll, deskAt_setStatus]

theorem deskAt_capCounts : s.capCounts.deskAt d =
    { s.deskAt d with count := min (s.deskAt d).count (s.cfg.params.failLimit + 1) } := by
  unfold State.capCounts
  rw [deskAt_markAll]
  unfold State.deskAt
  simp only [Fin.getElem_fin, Vector.getElem_map]
  rfl

theorem lost_twice (k : Desk) (n : Nat) : (k.lost n).lost n = k.lost n := by
  have h : ∀ w, (k.lost n).link ≠ .up w := by
    intro w
    unfold Desk.lost
    split
    · simp [Desk.detached, Desk.aborted]
    · next h => exact h w
  conv_lhs => unfold Desk.lost
  split
  · next w hw => exact absurd hw (h w)
  · rfl

/-- Several links are lost, each in its turn. -/
theorem deskAt_loseAll (l : List Console) : (l.foldl State.loseLink s).deskAt d =
    if d ∈ l then (s.deskAt d).lost (s.partTime + 10 * s.cfg.params.graceTime) else s.deskAt d := by
  induction l generalizing s with
  | nil => simp
  | cons y ys ih =>
    rw [List.foldl_cons, ih, deskAt_loseLink]
    by_cases hy : d = y
    · subst hy
      simp [lost_twice]
    · simp [hy]

/-- What a new fail limit makes of a desk (R136, R140, R141). -/
def Desk.limited (d : Desk) (limit grace : Nat) : Desk :=
  let e := { d with count := min d.count (limit + 1) }
  if d.link.isUp && limit ≤ e.count then e.lost grace else e

theorem deskAt_relimit : s.relimit.deskAt d =
    (s.deskAt d).limited s.cfg.params.failLimit (s.partTime + 10 * s.cfg.params.graceTime) := by
  have hf : (d ∈ s.capCounts.failing) ↔
      ((s.deskAt d).link.isUp && s.cfg.params.failLimit ≤ min (s.deskAt d).count (s.cfg.params.failLimit + 1)) = true := by
    unfold State.failing
    rw [mem_numbersWhere]
    have hc : s.capCounts.consoles[d] = s.consoles[d].capped s.cfg.params.failLimit := by
      simp [State.capCounts]
    unfold State.linkUp
    rw [hc, State.capCounts_cfg]
    rfl
  unfold State.relimit Desk.limited
  dsimp only
  split
  · next h =>
    rw [deskAt_capCounts, if_neg]
    rw [← hf, List.isEmpty_iff.1 h]
    simp
  · rw [deskAt_rerouteStep, deskAt_loseAll, deskAt_capCounts, State.capCounts_cfg, State.capCounts_partTime]
    simp only [hf]

theorem deskAt_takeParams (w : Parameter) (p : Params) : (s.takeParams w p).deskAt d =
    if w = .failLimit then (s.deskAt d).limited p.failLimit (s.partTime + 10 * p.graceTime) else s.deskAt d := by
  unfold State.takeParams
  dsimp only
  split
  · exact sameDesks_of_consoles (by simp) (by simp) d
  · rw [deskAt_relimit]; rfl
  · next h1 h2 => rw [if_neg h2]; rfl

theorem deskAt_moveArea (a : Area) (x y : Option Console) : (s.moveArea a x y).deskAt d = s.deskAt d := by
  unfold State.moveArea
  dsimp only
  rw [deskAt_storeWrite, deskAt_markAll]
  split
  · rw [deskAt_rerouteStep]; rfl
  · rw [deskAt_requalify, deskAt_rerouteStep]; rfl

theorem deskAt_secondsEnd : (s.secondsEnd c).deskAt d = s.deskAt d := by
  unfold State.secondsEnd
  dsimp only
  rw [deskAt_markAll]
  split
  · unfold State.releaseHeld
    refine (sameDesks_of_consoles (State.mapRecords_consoles _ _) (State.mapRecords_handovers _ _) d).trans ?_
    exact sameDesks_of (sameAt_setConsole c rfl) rfl d
  · exact sameDesks_of (sameAt_setConsole c rfl) rfl d

end Ops

end Sys2Proof.Machine
end

section
/-! The laws of the desks (R122, R135 to R137, R140, R156, R163): the links, the counts, the sessions and the handovers,
console by console. -/

namespace Sys2Proof.Machine

/-! ### The law of one desk -/

/-- What the laws of links and handovers ask of one desk, under the fail limit, whether its port is enabled, and whether
its console owns an area. -/
structure Desk.lawful (limit : Nat) (on : Bool) (owns : Prop) (d : Desk) : Prop where
  bound : d.count ≤ limit + 1
  counted : ∀ w, d.link = .lost w → 0 < d.count
  off : d.link = .off ↔ on = false
  attached : d.session.attachedOperator.isSome = true → d.link.isUp = true
  regained : d.link.isUp = true → d.session.graceEnd = none
  handed : d.handover.phase.active = true →
    d.link.isUp = true ∧ d.session.attachedOperator = d.handover.phase.outgoing ∧ owns

/-- The limit in its range, and every desk lawful. -/
structure State.desksLawful (s : State) : Prop where
  limit : 4 ≤ s.cfg.params.failLimit ∧ s.cfg.params.failLimit ≤ 16
  desk : ∀ c : Console, (s.deskAt c).lawful s.cfg.params.failLimit s.cfg.enabled[c] (s.ownedAreas c ≠ [])

theorem desksLawful_iff (s : State) : s.desksLawful ↔ s.linkLaw ∧ s.handoverLaw :=
  ⟨fun h => ⟨⟨h.limit, fun c => (h.desk c).bound, fun c => (h.desk c).counted, fun c => (h.desk c).off,
      fun c => (h.desk c).attached, fun c => (h.desk c).regained⟩, fun c => (h.desk c).handed⟩,
    fun ⟨h, k⟩ => ⟨h.limit, fun c => ⟨h.bound c, h.lost c, h.off c, h.attached c, h.detached c, k c⟩⟩⟩

section Desk

variable {limit : Nat} {on : Bool} {owns : Prop} {d : Desk}

theorem isUp_iff (l : Link) : l.isUp = true ↔ ∃ w, l = .up w := by cases l <;> simp [Link.isUp]

theorem graceEnd_of_detached {x : Session} (h : x.attachedOperator.isSome = true) : x.graceEnd = none := by
  cases x <;> simp_all [Session.attachedOperator, Session.graceEnd]

theorem attached_of_inCharge_none {x : Session} (h : x.inCharge = none) :
    x.attachedOperator = none ∧ x.graceEnd = none := by
  cases x <;> simp_all [Session.inCharge, Session.attachedOperator, Session.graceEnd]

theorem outgoing_isSome {p : Phase} (h : p.active = true) : p.outgoing.isSome = true := by
  cases p <;> simp_all [Phase.active, Phase.outgoing]

namespace Desk.lawful

/-- A desk without a handover in progress is lawful as its link and session are. -/
theorem of_inactive {e : Desk} (h : d.lawful limit on owns) (hl : e.link = d.link) (hn : e.count = d.count)
    (hx : e.session = d.session ∨ e.session = .none) (hp : e.handover.phase.active = false) :
    e.lawful limit on owns := by
  refine ⟨by rw [hn]; exact h.bound, by rw [hn, hl]; exact h.counted, by rw [hl]; exact h.off, ?_, ?_, ?_⟩
  · rw [hl]
    rcases hx with hx | hx <;> rw [hx]
    · exact h.attached
    · exact fun e => by cases e
  · rw [hl]
    rcases hx with hx | hx <;> rw [hx]
    · exact h.regained
    · exact fun _ => rfl
  · rw [hp]; exact fun e => by cases e

theorem aborted (h : d.lawful limit on owns) (x : HandoverOutcome) : (d.aborted x).lawful limit on owns :=
  h.of_inactive rfl rfl (.inl rfl) (by rw [Desk.aborted_phase]; rfl)

theorem ended (h : d.lawful limit on owns) (x : EndCause) (hp : d.handover.phase.active = false) :
    (d.ended x).lawful limit on owns := h.of_inactive rfl rfl (.inr rfl) hp

/-- A desk whose session is not ATTACHED has no handover. -/
theorem inactive (h : d.lawful limit on owns) (hx : d.session.attachedOperator = none) :
    d.handover.phase.active = false := by
  by_contra hn
  have hn := Bool.of_not_eq_false hn
  have := outgoing_isSome hn
  rw [← (h.handed hn).2.1, hx] at this
  cases this

/-- A session comes off its desk, whose link is not UP. -/
theorem off_desk {e : Desk} (hb : e.count ≤ limit + 1) (hc : ∀ w, e.link = .lost w → 0 < e.count)
    (ho : e.link = .off ↔ on = false) (hu : e.link.isUp = false) (hx : e.session.attachedOperator = none)
    (hp : e.handover.phase.active = false) : e.lawful limit on owns :=
  ⟨hb, hc, ho, fun k => (by rw [hx] at k; cases k), fun k => (by rw [hu] at k; cases k), fun k => (by rw [hp] at k; cases k)⟩

theorem detached_attached (d : Desk) (n : Nat) : (d.detached n).session.attachedOperator = none := by
  unfold Desk.detached
  dsimp only
  split
  · rfl
  · next h =>
    cases hs : d.session <;> simp_all [Session.attachedOperator]

/-- A desk as it is when its link is lost, but for its count. -/
theorem lost_link {n : Nat} (h : d.link.isUp = true) : ∃ w, (d.lost n).link = .lost w ∧ (d.lost n).count = d.count ∧
    (d.lost n).session.attachedOperator = none ∧ (d.lost n).handover.phase = .none := by
  obtain ⟨w, hw⟩ := (isUp_iff _).1 h
  refine ⟨w, ?_⟩
  unfold Desk.lost
  rw [hw]
  exact ⟨rfl, rfl, detached_attached _ n, Desk.aborted_phase _ _⟩

theorem lost (h : d.lawful limit on owns) (n : Nat) (hc : 0 < d.count) : (d.lost n).lawful limit on owns := by
  cases hu : d.link.isUp with
  | true =>
    obtain ⟨w, h1, h2, h3, h4⟩ := lost_link (n := n) hu
    refine off_desk (by rw [h2]; exact h.bound) (fun _ _ => h2 ▸ hc) ?_ (by rw [h1]; rfl) h3 (by rw [h4]; rfl)
    rw [h1, ← h.off]
    obtain ⟨w, hw⟩ := (isUp_iff _).1 hu
    simp [hw]
  | false =>
    have e : d.lost n = d := by
      unfold Desk.lost
      split
      · next w hw => rw [hw] at hu; cases hu
      · rfl
    rw [e]
    exact h

/-- A count and a window change at a desk whose link stays in its state. -/
theorem counts {e : Desk} {m : Nat} {w : Window} (h : d.lawful limit on owns) (he : e = { d with
    count := m, link := d.link.withWindow w }) (hb : m ≤ limit + 1) (hc : ∀ w, d.link = .lost w → 0 < m) :
    e.lawful limit on owns := by
  subst he
  have hu : (d.link.withWindow w).isUp = d.link.isUp := by cases d.link <;> rfl
  refine ⟨hb, fun v hv => ?_, ?_, ?_, ?_, ?_⟩
  · cases hl : d.link with
    | lost x => exact hc x hl
    | up x => rw [hl] at hv; cases hv
    | down => rw [hl] at hv; cases hv
    | off => rw [hl] at hv; cases hv
  · rw [← h.off]
    cases d.link <;> simp [Link.withWindow]
  · dsimp only; rw [hu]; exact h.attached
  · dsimp only; rw [hu]; exact h.regained
  · dsimp only; rw [hu]; exact h.handed

theorem failed (h : d.lawful limit on owns) (h4 : 4 ≤ limit) (w : Window) (n : Nat) :
    (d.failed limit w n).lawful limit on owns := by
  have hb : min (d.count + 2) (limit + 1) ≤ limit + 1 := Nat.min_le_right _ _
  have hc : 0 < min (d.count + 2) (limit + 1) := by omega
  have he := h.counts (w := w) rfl hb fun _ _ => hc
  unfold Desk.failed
  dsimp only
  split
  · exact he.lost n hc
  · exact he

theorem limited {m : Nat} (h : d.lawful limit on owns) (h4 : 4 ≤ m) (n : Nat) : (d.limited m n).lawful m on owns := by
  have he : Desk.lawful m on owns { d with count := min d.count (m + 1) } := by
    refine ⟨Nat.min_le_right _ _, fun w hw => ?_, h.off, h.attached, h.regained, h.handed⟩
    have := h.counted w hw
    dsimp only
    omega
  unfold Desk.limited
  dsimp only
  split
  · next hl =>
    refine he.lost n ?_
    simp only [Bool.and_eq_true, decide_eq_true_eq] at hl
    exact Nat.lt_of_lt_of_le (by omega) hl.2
  · exact he

theorem broughtUp (h : d.lawful limit on owns) (hl : d.link ≠ .off) (w : Window) :
    Desk.lawful limit on owns { d with link := .up w, count := 0, session := d.session.reattach } := by
  refine ⟨Nat.zero_le _, fun w hw => (by cases hw), ?_, fun _ => rfl, fun _ => ?_, fun ha => ?_⟩
  · have := h.off.not.1 hl
    simp [this]
  · cases d.session <;> rfl
  · obtain ⟨-, h2, h3⟩ := h.handed ha
    refine ⟨rfl, ?_, h3⟩
    rw [← h2]
    cases hs : d.session with
    | detached o n =>
      rw [hs] at h2
      have := outgoing_isSome ha
      rw [← h2] at this
      cases this
    | attached o => rfl
    | none => rfl

theorem moved (h : d.lawful limit on owns) (o : Operator) : (d.moved o).lawful limit on owns := by
  unfold Desk.moved
  split
  · next p n hs =>
    split
    · exact h.ended _ (h.inactive (by rw [hs]; rfl))
    · exact h
  · exact h

theorem withPhase (h : d.lawful limit on owns) (p : Phase)
    (hp : p.active = true → d.link.isUp = true ∧ d.session.attachedOperator = p.outgoing ∧ owns)
    {x : Option HandoverOutcome} : Desk.lawful limit on owns { d with handover := { phase := p, lastOutcome := x } } :=
  ⟨h.bound, h.counted, h.off, h.attached, h.regained, hp⟩

theorem withSession (h : d.lawful limit on owns) {o : Operator} (hu : d.link.isUp = true)
    (hp : d.handover.phase.active = false) {x : Option EndCause} :
    Desk.lawful limit on owns { d with session := .attached o, lastEnd := x } :=
  ⟨h.bound, h.counted, h.off, fun _ => hu, fun _ => rfl, fun e => by rw [hp] at e; cases e⟩

end Desk.lawful

end Desk

/-! ### The law of all desks -/

section DesksLawful

variable {s t : State}

/-- An operation that leaves the configuration of the desks. -/
theorem desksLawful_of (h : s.desksLawful) (hp : t.cfg.params.failLimit = s.cfg.params.failLimit)
    (he : t.cfg.enabled = s.cfg.enabled) (ha : t.cfg.areas = s.cfg.areas)
    (hd : ∀ c : Console, (t.deskAt c).lawful s.cfg.params.failLimit s.cfg.enabled[c] (s.ownedAreas c ≠ [])) :
    t.desksLawful := by
  have ho : ∀ c, t.ownedAreas c = s.ownedAreas c := fun c => by unfold State.ownedAreas; rw [ha]
  refine ⟨by rw [hp]; exact h.limit, fun c => ?_⟩
  rw [hp, ho, he]
  exact hd c

theorem desksLawful_same (h : s.desksLawful) (hd : s.sameDesks t) (hp : t.cfg.params = s.cfg.params)
    (he : t.cfg.enabled = s.cfg.enabled) (ha : t.cfg.areas = s.cfg.areas) : t.desksLawful :=
  desksLawful_of h (by rw [hp]) he ha fun c => by rw [hd c]; exact h.desk c

/-- An operation at one desk. -/
theorem desksLawful_at (h : s.desksLawful) (hc : t.cfg = s.cfg) (c : Console) {e : Desk}
    (hd : ∀ d, t.deskAt d = if d = c then e else s.deskAt d)
    (he : e.lawful s.cfg.params.failLimit s.cfg.enabled[c] (s.ownedAreas c ≠ [])) : t.desksLawful :=
  desksLawful_of h (by rw [hc]) (by rw [hc]) (by rw [hc]) fun d => by
    rw [hd d]
    split
    · next e => subst e; exact he
    · exact h.desk d

theorem setPhases_lawful {l : List Item} {d : Desk} {limit : Nat} {on : Bool} {owns : Prop} (h : d.lawful limit on owns) :
    Desk.lawful limit on owns { d with handover := { d.handover with phase := d.handover.phase.withItems l } } := by
  refine h.withPhase _ fun ha => ?_
  have h1 : (d.handover.phase.withItems l).active = d.handover.phase.active := by cases d.handover.phase <;> rfl
  have h2 : (d.handover.phase.withItems l).outgoing = d.handover.phase.outgoing := by cases d.handover.phase <;> rfl
  rw [h2]
  exact h.handed (h1 ▸ ha)

theorem deskAt_mapPhases (s : State) (f : Console → Phase → Phase) (c : Console) : (s.mapPhases f).deskAt c =
    { s.deskAt c with handover := { (s.deskAt c).handover with phase := f c (s.deskAt c).handover.phase } } := by
  unfold State.deskAt
  simp only [State.mapPhases, Fin.getElem_fin, Vector.getElem_ofFn]

theorem mapPhases_desksLawful (h : s.desksLawful) {f : Console → Phase → Phase}
    (hf : ∀ c p, ∃ l, f c p = p.withItems l) : (s.mapPhases f).desksLawful := by
  refine desksLawful_of h rfl rfl rfl fun c => ?_
  rw [deskAt_mapPhases]
  obtain ⟨l, hl⟩ := hf c (s.deskAt c).handover.phase
  rw [hl]
  exact setPhases_lawful (h.desk c)

theorem desksLawful_events : EventKeep State.desksLawful where
  live _ h := desksLawful_same h (sameDesks_refl _) rfl rfl rfl
  waiting _ h := desksLawful_same h (sameDesks_refl _) rfl rfl rfl
  weight c w h := desksLawful_same h (sameDesks_of (sameAt_upd (c := c) (f := fun k => k.addWeight w) rfl rfl) rfl) rfl rfl rfl
  items _ hf h := mapPhases_desksLawful h hf
  marks _ h := desksLawful_same h (sameDesks_refl _) rfl rfl rfl

theorem endSession_desksLawful (h : s.desksLawful) (c : Console) (x : EndCause)
    (hp : s.handovers[c].phase.active = false) : (s.endSession c x).desksLawful := by
  refine desksLawful_of h (by simp) (by simp) (by simp) fun d => ?_
  rw [deskAt_endSession]
  split
  · next e => rw [e.1]; exact (h.desk c).ended x hp
  · exact h.desk d

theorem inactive_of_owns_none (h : s.desksLawful) {c : Console} (ho : s.ownedAreas c = []) :
    s.handovers[c].phase.active = false := by
  by_contra hn
  exact ((h.desk c).handed (Bool.of_not_eq_false hn)).2.2 ho

theorem abortAll_cfg (s : State) (l : List Console) (x : HandoverOutcome) :
    (l.foldl (fun t c => t.abortHandover c x) s).cfg = s.cfg := by
  induction l generalizing s with
  | nil => rfl
  | cons y ys ih => rw [List.foldl_cons, ih, State.abortHandover_cfg]

theorem suspend_cfg (s : State) (o : Operator) : (s.suspend o).cfg = (s.setStatus o .suspended).cfg := by
  unfold State.suspend State.endSuspended
  dsimp only
  split
  · exact abortAll_cfg _ _ _
  · simp only [State.storeWrite_cfg, State.markAll_cfg, State.rerouteStep_cfg, State.dropSuspended]
    exact abortAll_cfg _ _ _

theorem suspend_desksLawful (h : s.desksLawful) (o : Operator) : (s.suspend o).desksLawful := by
  refine desksLawful_of h (by rw [suspend_cfg]; rfl) (by rw [suspend_cfg]; rfl) (by rw [suspend_cfg]; rfl) fun d => ?_
  rw [deskAt_suspend]
  have hk : Desk.lawful s.cfg.params.failLimit s.cfg.enabled[d] (s.ownedAreas d ≠ [])
      (if d ∈ s.handoversOf o then (s.deskAt d).aborted .suspended else s.deskAt d) := by
    split
    · exact (h.desk d).aborted _
    · exact h.desk d
  dsimp only
  split
  · next hm =>
    refine hk.ended _ ?_
    split
    · rw [Desk.aborted_phase]; rfl
    · next hn =>
      by_contra ha
      have ha := Bool.of_not_eq_false ha
      obtain ⟨-, h2, -⟩ := (h.desk d).handed ha
      have hc : (s.deskAt d).session.inCharge = some o := by
        unfold State.consolesOf at hm
        rw [mem_numbersWhere] at hm
        exact beq_iff_eq.1 hm
      have hs : (s.deskAt d).session.attachedOperator = some o := by
        have hsome := outgoing_isSome ha
        rw [← h2] at hsome
        cases hx : (s.deskAt d).session with
        | attached q => rw [hx] at hc; exact hc
        | detached q n => rw [hx] at hsome; cases hsome
        | none => rw [hx] at hsome; cases hsome
      apply hn
      unfold State.handoversOf
      rw [mem_numbersWhere]
      have : s.handovers[d].phase.outgoing = some o := h2.symm.trans hs
      rw [this]
      simp
  · exact hk

theorem moveRefusal_free {c : Console} {o : Option Operator} {a : Area} {x y : Option Console}
    (h : s.moveRefusal c o a x y = none) :
    s.handoverFree s.cfg.areas[a].owner = true ∧ s.handoverFree x = true := by
  have := firstRefusal_none.1 h (s.handoverFree s.cfg.areas[a].owner && s.handoverFree x, .handoverBusy) (by simp)
  simpa using this

theorem mem_ownedAreas (s : State) (c : Console) (a : Area) : a ∈ s.ownedAreas c ↔ s.cfg.areas[a].owner = some c := by
  unfold State.ownedAreas
  rw [mem_numbersWhere]
  simp

theorem moveArea_cfg (s : State) (a : Area) (x y : Option Console) :
    (s.moveArea a x y).cfg = (s.setArea a fun k => { k with owner := x, fallback := y }).cfg := by
  unfold State.moveArea
  dsimp only
  split
  · simp only [State.storeWrite_cfg, State.markAll_cfg, State.rerouteStep_cfg]
  · simp only [State.storeWrite_cfg, State.markAll_cfg, State.requalify_cfg, State.rerouteStep_cfg]

theorem moveArea_areas (s : State) (a b : Area) (x y : Option Console) : (s.moveArea a x y).cfg.areas[b] =
    if b = a then { s.cfg.areas[a] with owner := x, fallback := y } else s.cfg.areas[b] := by
  rw [moveArea_cfg]
  simp only [State.setArea, Fin.getElem_fin, upd_get]

/-- A console whose handover stands keeps its areas in a MOVE_AREA (R6). -/
theorem moveArea_desksLawful (h : s.desksLawful) {a : Area} {x y : Option Console}
    (hf : s.handoverFree s.cfg.areas[a].owner = true) : (s.moveArea a x y).desksLawful := by
  refine ⟨by rw [moveArea_cfg]; exact h.limit, fun c => ?_⟩
  have h' := h.desk c
  rw [deskAt_moveArea]
  refine ⟨by rw [moveArea_cfg]; exact h'.bound, h'.counted, by rw [moveArea_cfg]; exact h'.off, h'.attached, h'.regained,
    fun ha => ?_⟩
  obtain ⟨h1, h2, h3⟩ := h'.handed ha
  refine ⟨h1, h2, ?_⟩
  obtain ⟨b, hb⟩ := List.exists_mem_of_ne_nil _ h3
  refine List.ne_nil_of_mem (a := b) ?_
  rw [mem_ownedAreas] at hb ⊢
  rw [moveArea_areas]
  split
  · next e =>
    subst e
    rw [hb] at hf
    have hn : s.handovers[c].phase.active = false := by simpa [State.handoverFree] using hf
    exact absurd (hn.symm.trans ha) Bool.false_ne_true
  · exact hb

theorem validFailLimit_iff (n : Nat) : validFailLimit n = true ↔ 4 ≤ n ∧ n ≤ 16 := by simp [validFailLimit]

/-- A PARAM_WRITE leaves the fail limit, or sets it within its range. -/
theorem write_failLimit {p q : Params} {w : Parameter} {x y : Nat} (h : p.write w x y = some q) :
    w = .failLimit ∧ 4 ≤ q.failLimit ∧ q.failLimit ≤ 16 ∨ w ≠ .failLimit ∧ q.failLimit = p.failLimit := by
  cases w <;> simp only [Params.write, Option.ite_none_right_eq_some] at h
  case failLimit =>
    obtain ⟨hv, hq⟩ := h
    cases hq
    exact .inl ⟨rfl, (validFailLimit_iff x).1 hv⟩
  all_goals
    obtain ⟨-, hq⟩ := h
    cases hq
    exact .inr ⟨by simp, rfl⟩

theorem takeParams_cfg (s : State) (w : Parameter) (p : Params) : (s.takeParams w p).cfg = (s.setParams p).cfg := by
  unfold State.takeParams
  dsimp only
  split
  · simp
  · have hl : ∀ (l : List Console) (u : State), (l.foldl State.loseLink u).cfg = u.cfg := by
      intro l
      induction l with
      | nil => exact fun _ => rfl
      | cons c cs ih => intro u; rw [List.foldl_cons, ih]; simp
    unfold State.relimit
    dsimp only
    split
    · simp
    · rw [State.rerouteStep_cfg, hl, State.capCounts_cfg]
  · rfl

theorem takeParams_desksLawful (h : s.desksLawful) {w : Parameter} {x y : Nat} {p : Params}
    (hw : s.cfg.params.write w x y = some p) : (s.takeParams w p).desksLawful := by
  have hc := takeParams_cfg s w p
  have hl : (s.takeParams w p).cfg.params.failLimit = p.failLimit := by rw [hc]; rfl
  have ho : ∀ c, (s.takeParams w p).ownedAreas c = s.ownedAreas c := fun c => by unfold State.ownedAreas; rw [hc]; rfl
  have he : (s.takeParams w p).cfg.enabled = s.cfg.enabled := by rw [hc]; rfl
  rcases write_failLimit hw with ⟨rfl, h4, h16⟩ | ⟨hn, hq⟩
  · refine ⟨by rw [hl]; exact ⟨h4, h16⟩, fun c => ?_⟩
    rw [hl, ho, he, deskAt_takeParams, if_pos rfl]
    exact (h.desk c).limited h4 _
  · refine ⟨by rw [hl, hq]; exact h.limit, fun c => ?_⟩
    rw [hl, ho, he, hq, deskAt_takeParams, if_neg hn]
    exact h.desk c

theorem loaded_failLimit (st : Store) : 4 ≤ st.contents.params.failLimit ∧ st.contents.params.failLimit ≤ 16 := by
  unfold Store.contents
  cases st.chosen with
  | none => decide
  | some k =>
    have h : k.image.loaded.params.failLimit = orDefault validFailLimit k.image.params.failLimit 8 := rfl
    dsimp only
    rw [h]
    unfold orDefault
    split
    · next hv => exact (validFailLimit_iff _).1 hv
    · decide

theorem started_deskAt (s : State) (st : Store) (c : Console) : (s.started st).deskAt c =
    { link := if st.contents.enabled[c] then .down else .off, count := 0, session := .none, lastEnd := none,
      hornFault := false, handover := Handover.start } := by
  unfold State.deskAt State.started
  simp only [Fin.getElem_fin, Vector.getElem_map, Vector.getElem_replicate]
  rfl

theorem started_desksLawful (s : State) (st : Store) : (s.started st).desksLawful := by
  refine ⟨loaded_failLimit st, fun c => ?_⟩
  rw [started_deskAt]
  refine ⟨Nat.zero_le _, fun w hw => ?_, ?_, fun e => (by cases e), fun _ => rfl, fun e => (by cases e)⟩
  · dsimp only at hw
    split at hw <;> cases hw
  · show _ ↔ st.contents.enabled[c] = false
    cases st.contents.enabled[c] <;> simp

theorem setEnabled_desksLawful (h : s.desksLawful) (c : Console) (b : Bool) (hne : s.cfg.enabled[c] ≠ b)
    (hb : b = true ∨ s.consoles[c].session.inCharge = none) : (s.setEnabled c b).desksLawful := by
  have he : ∀ d : Console, (s.setEnabled c b).cfg.enabled[d] = if d = c then b else s.cfg.enabled[d] := by
    intro d
    simp only [State.setEnabled, State.storeWrite_cfg, State.reroute_cfg, Fin.getElem_fin, set_get]
  have hp : (s.setEnabled c b).cfg.params = s.cfg.params := by simp [State.setEnabled]
  have ho : ∀ d, (s.setEnabled c b).ownedAreas d = s.ownedAreas d := fun d => by
    unfold State.ownedAreas; simp [State.setEnabled]
  refine ⟨by rw [hp]; exact h.limit, fun d => ?_⟩
  rw [hp, ho, he, deskAt_setEnabled]
  split
  · next e =>
    subst e
    have hd := h.desk d
    cases b with
    | true =>
      have hoff : (s.deskAt d).link = .off := hd.off.2 (by simpa using hne)
      have hx : (s.deskAt d).session.attachedOperator = none := by
        by_contra hs
        have := hd.attached (Option.isSome_iff_ne_none.2 hs)
        rw [hoff] at this
        cases this
      exact .off_desk (Nat.zero_le _) (fun w hw => by cases hw) (by simp) rfl hx (hd.inactive hx)
    | false =>
      have hx := attached_of_inCharge_none (hb.resolve_left (by simp))
      exact .off_desk (Nat.zero_le _) (fun w hw => by cases hw) (by simp) rfl hx.1 (hd.inactive hx.1)
  · exact h.desk d

theorem desksLawful_keep : OpsKeep State.desksLawful where
  skel e h := (desksLawful_iff _).2
    ⟨linkLaw_skel e ((desksLawful_iff _).1 h).1, handoverLaw_skel e ((desksLawful_iff _).1 h).2⟩
  raise p k h := desksLawful_events.raisePoint h p k
  clear p h := desksLawful_events.clearPoint h p
  point _ _ _ _ h _ := desksLawful_same h (sameDesks_refl _) rfl rfl rfl
  lineConfig _ _ h := desksLawful_same h (sameDesks_refl _) rfl rfl rfl
  acknowledge o h _ _ := desksLawful_events.acknowledge h _ _ o
  silence c h := desksLawful_events.live _ h
  removal h _ := desksLawful_events.removeAndFill h _ _
  removals _ _ h := desksLawful_events.removeAll _ h
  shelve _ _ h _ _ := desksLawful_events.live _ h
  endShelf h _ _ := desksLawful_events.endShelf h _ _
  remind h _ _ := desksLawful_events.live _ h
  escalate h _ _ := desksLawful_events.live _ h
  levels {s} a k l r h := by
    have ho : ∀ c, (s.setArea a fun _ => (s.cfg.areas[a]).withLevels k l r).ownedAreas c = s.ownedAreas c := by
      intro c
      unfold State.ownedAreas
      congr 1
      funext b
      simp only [State.setArea, Fin.getElem_fin, upd_get]
      split
      · next e => subst e; rfl
      · rfl
    exact ⟨h.limit, fun c => by rw [ho]; exact h.desk c⟩
  move _ _ _ _ _ h hr := moveArea_desksLawful h (moveRefusal_free hr).1
  roster _ _ _ _ _ _ _ h _ _ _ := desksLawful_same h (sameDesks_refl _) rfl rfl rfl
  status _ h := desksLawful_same h (sameDesks_refl _) rfl rfl rfl
  retire _ h _ := desksLawful_same h (sameDesks_refl _) rfl rfl rfl
  abort c x h := desksLawful_at h (by simp) c (fun d => deskAt_abortHandover _ c d x) ((h.desk c).aborted x)
  sessionEnd c x h hp := endSession_desksLawful h c x hp
  leave c x h ho := endSession_desksLawful h c x (inactive_of_owns_none h ho)
  graceEnd {s} c x h hg := by
    refine endSession_desksLawful h c x ((h.desk c).inactive ?_)
    by_contra hs
    exact hg (graceEnd_of_detached (Option.isSome_iff_ne_none.2 hs))
  suspend o h := suspend_desksLawful h o
  seconds c h := desksLawful_same h (fun d => deskAt_secondsEnd _ c d) (by simp) (by simp) (by simp)
  failed c n h := desksLawful_at h (by simp) c (fun d => deskAt_failWindow _ c d n) ((h.desk c).failed h.limit.1 _ _)
  bringUp c h hl := desksLawful_at h (by simp) c (fun d => deskAt_bringUp _ c d) ((h.desk c).broughtUp hl _)
  success {s} c w h hn := by
    refine desksLawful_at h rfl c (fun d => deskAt_setConsole _ c d _) ((h.desk c).counts (w := w) rfl ?_ fun v hv => ?_)
    · exact (Nat.sub_le _ _).trans (h.desk c).bound
    · have hc : ¬s.consoles[c].count ≤ 1 := fun hle => hn ⟨hle, by
        unfold State.linkUp; rw [show s.consoles[c].link = _ from hv]; rfl⟩
      show 0 < s.consoles[c].count - 1
      omega
  horn {s} c b h := by
    refine desksLawful_at h (by simp) c (fun d => deskAt_hornReport _ c d b) ?_
    obtain ⟨h1, h2, h3, h4, h5, h6⟩ := h.desk c
    exact ⟨h1, h2, h3, h4, h5, h6⟩
  signIn {s} c o _ h hu hn _ _ := by
    refine desksLawful_of h (by simp) (by simp) (by simp) fun d => ?_
    rw [deskAt_signIn]
    split
    · next e =>
      subst e
      have hx := attached_of_inCharge_none hn
      have hm : (s.deskAt d).moved o = s.deskAt d := moved_of_none fun n he => by
        have : s.consoles[d].session.inCharge = some o := by rw [show s.consoles[d].session = _ from he]; rfl
        rw [hn] at this
        cases this
      rw [hm]
      exact (h.desk d).withSession hu ((h.desk d).inactive hx.1)
    · exact (h.desk d).moved o
  comeIn {s} c o p n l _ h hu hno hp _ _ := by
    refine desksLawful_of h (by simp) (by simp) (by simp) fun d => ?_
    rw [deskAt_comeIn]
    split
    · next e =>
      subst e
      have hd := (h.desk d).handed (by rw [show (s.deskAt d).handover.phase = _ from hp]; rfl)
      have hm : (s.deskAt d).moved o = s.deskAt d := moved_of_none fun n he => by
        have := hd.2.1
        rw [he, show (s.deskAt d).handover.phase = _ from hp] at this
        cases this
      rw [hm, hp]
      refine (h.desk d).withPhase _ fun _ => ⟨hd.1, ?_, hd.2.2⟩
      rw [hd.2.1, show (s.deskAt d).handover.phase = _ from hp]
      rfl
    · exact (h.desk d).moved o
  restart {s} c h hl := by
    refine desksLawful_at h (by simp) c (fun d => deskAt_restartPort _ c d) ?_
    have hoff := (h.desk c).off.not.1 hl
    refine .off_desk (Nat.zero_le _) (fun w hw => by cases hw) ?_ rfl (Desk.lawful.detached_attached _ _) ?_
    · simp only [Desk.detached]
      simpa using hoff
    · show Phase.active (Desk.aborted _ _).handover.phase = false
      rw [Desk.aborted_phase]
      rfl
  enable c b h hne hb := setEnabled_desksLawful h c b hne hb
  enterNote _ _ _ _ _ h _ _ := by
    refine desksLawful_same (desksLawful_events.appendItem (desksLawful_same h (sameDesks_refl _) rfl rfl rfl) _ _)
      (sameDesks_refl _) rfl rfl rfl
  clearNote _ h := by
    refine desksLawful_same (desksLawful_events.dropItem (desksLawful_same h (sameDesks_refl _) rfl rfl rfl) _)
      (sameDesks_refl _) rfl rfl rfl
  offer {s} c o h ha _ hr := by
    refine desksLawful_at h (by simp) c (fun d => deskAt_offer _ c d o) ((h.desk c).withPhase (.offered o _ _)
      fun _ => ⟨?_, ha, ?_⟩)
    · exact (h.desk c).attached (by rw [show (s.deskAt c).session.attachedOperator = _ from ha]; rfl)
    · have := firstRefusal_none.1 hr (!(s.ownedAreas c).isEmpty, .nothingToDo) (by simp)
      simpa using this
  seen {s} c x h := by
    refine desksLawful_at h (by simp) c (fun d => deskAt_markSeen _ c d x) ?_
    exact setPhases_lawful (h.desk c)
  accept {s} c o i n l h hp := by
    refine desksLawful_at h (by simp) c (fun d => deskAt_acceptDesk _ c d o i) ?_
    have hd := (h.desk c).handed (by rw [show (s.deskAt c).handover.phase = _ from hp]; rfl)
    exact ((h.desk c).withPhase .none (fun e => by cases e)).withSession hd.1 rfl
  params w _ _ p h hw := takeParams_desksLawful h hw
  storeWrite h := desksLawful_same h (sameDesks_refl _) rfl rfl rfl
  later h := desksLawful_same h (sameDesks_refl _) rfl rfl rfl
  unpowered _ h := desksLawful_same h (sameDesks_refl _) rfl rfl rfl
  cold b _ := started_desksLawful _ _

end DesksLawful

/-! ### One place an operator (R122) -/

/-- A desk at which no one is in charge or incoming who was not so before. -/
structure Desk.within (d e : Desk) : Prop where
  inCharge : e.session.inCharge = d.session.inCharge ∨ e.session.inCharge = none
  incoming : e.handover.phase.incoming = d.handover.phase.incoming ∨ e.handover.phase.incoming = none

namespace Desk.within

variable {d e f : Desk}

theorem refl (d : Desk) : d.within d := ⟨.inl rfl, .inl rfl⟩

theorem trans (h : d.within e) (k : e.within f) : d.within f := by
  constructor
  · rcases k.inCharge with k | k
    · rcases h.inCharge with h | h
      · exact .inl (k.trans h)
      · exact .inr (k.trans h)
    · exact .inr k
  · rcases k.incoming with k | k
    · rcases h.incoming with h | h
      · exact .inl (k.trans h)
      · exact .inr (k.trans h)
    · exact .inr k

theorem aborted (d : Desk) (x : HandoverOutcome) : d.within (d.aborted x) :=
  ⟨.inl rfl, .inr (by rw [Desk.aborted_phase]; rfl)⟩

theorem ended (d : Desk) (x : EndCause) : d.within (d.ended x) := ⟨.inr rfl, .inl rfl⟩

theorem detached (d : Desk) (n : Nat) : d.within (d.detached n) := by
  refine ⟨.inl ?_, .inl rfl⟩
  unfold Desk.detached
  cases d.session <;> rfl

theorem lost (d : Desk) (n : Nat) : d.within (d.lost n) := by
  unfold Desk.lost
  split
  · next w _ =>
    have h : d.within { d with link := .lost w } := ⟨.inl rfl, .inl rfl⟩
    exact (h.trans (aborted _ _)).trans (detached _ n)
  · exact refl d

theorem failed (d : Desk) (limit : Nat) (w : Window) (n : Nat) : d.within (d.failed limit w n) := by
  unfold Desk.failed
  dsimp only
  have h : d.within { d with count := min (d.count + 2) (limit + 1), link := d.link.withWindow w } := ⟨.inl rfl, .inl rfl⟩
  split
  · exact h.trans (lost _ n)
  · exact h

theorem limited (d : Desk) (limit n : Nat) : d.within (d.limited limit n) := by
  unfold Desk.limited
  dsimp only
  have h : d.within { d with count := min d.count (limit + 1) } := ⟨.inl rfl, .inl rfl⟩
  split
  · exact h.trans (lost _ n)
  · exact h

theorem moved (d : Desk) (o : Operator) : d.within (d.moved o) := by
  unfold Desk.moved
  split
  · split
    · exact ended d _
    · exact refl d
  · exact refl d

theorem restarted (d : Desk) (n : Nat) :
    d.within (Desk.detached { d.aborted .restart with link := .down, count := 0, hornFault := false } n) := by
  have h : d.within { d.aborted .restart with link := .down, count := 0, hornFault := false } :=
    ⟨.inl rfl, (aborted d .restart).incoming⟩
  exact h.trans (detached _ n)

theorem withItems (d : Desk) (l : List Item) :
    d.within { d with handover := { d.handover with phase := d.handover.phase.withItems l } } :=
  ⟨.inl rfl, .inl (by cases d.handover.phase <;> rfl)⟩

end Desk.within

section PlaceLaw

variable {s t : State}

theorem engaged_within {c : Console} {o : Operator} (h : (s.deskAt c).within (t.deskAt c)) (he : t.engaged c o) :
    s.engaged c o := by
  rcases he with he | he
  · rcases h.inCharge with h | h
    · exact .inl (h.symm.trans he)
    · exact absurd (h.symm.trans he) (by simp)
  · rcases h.incoming with h | h
    · exact .inr (h.symm.trans he)
    · exact absurd (h.symm.trans he) (by simp)

/-- No operator comes anywhere, and those who are somewhere stay ACTIVE. -/
theorem placeLaw_within (h : s.placeLaw) (hd : ∀ c : Console, (s.deskAt c).within (t.deskAt c))
    (hr : ∀ (o : Operator) (c : Console) (r : OperatorRecord), t.engaged c o → s.cfg.roster[o] = some r →
      r.status = .active → ∃ q, t.cfg.roster[o] = some q ∧ q.status = .active) : t.placeLaw := by
  refine ⟨fun o c d hc he => h.once o c d (engaged_within (hd c) hc) (engaged_within (hd d) he), fun o c => ?_,
    fun o c he => ?_⟩
  · rintro ⟨h1, h2⟩
    refine h.apart o c ⟨?_, ?_⟩
    · exact ((hd c).inCharge.resolve_right fun e => by simp [show (t.deskAt c).session.inCharge = _ from h1] at e).symm.trans h1
    · exact ((hd c).incoming.resolve_right fun e => by
        simp [show (t.deskAt c).handover.phase.incoming = _ from h2] at e).symm.trans h2
  · obtain ⟨r, h1, h2⟩ := h.active o c (engaged_within (hd c) he)
    exact hr o c r he h1 h2

theorem placeLaw_shrinks (h : s.placeLaw) (hd : ∀ c : Console, (s.deskAt c).within (t.deskAt c))
    (hr : t.cfg.roster = s.cfg.roster) : t.placeLaw :=
  placeLaw_within h hd fun o c r _ h1 h2 => ⟨r, by rw [hr]; exact h1, h2⟩

theorem placeLaw_same (h : s.placeLaw) (hd : s.sameDesks t) (hr : t.cfg.roster = s.cfg.roster) : t.placeLaw :=
  placeLaw_shrinks h (fun c => by rw [hd c]; exact .refl _) hr

theorem placeLaw_at (h : s.placeLaw) (hc : t.cfg = s.cfg) (c : Console) {e : Desk}
    (hd : ∀ d, t.deskAt d = if d = c then e else s.deskAt d) (he : (s.deskAt c).within e) : t.placeLaw :=
  placeLaw_shrinks h (fun d => by
    rw [hd d]
    split
    · next e => subst e; exact he
    · exact .refl _) (by rw [hc])

theorem placeLaw_events : EventKeep State.placeLaw where
  live _ h := placeLaw_same h (sameDesks_refl _) rfl
  waiting _ h := placeLaw_same h (sameDesks_refl _) rfl
  weight c w h := placeLaw_same h (sameDesks_of (sameAt_upd (c := c) (f := fun k => k.addWeight w) rfl rfl) rfl) rfl
  items f hf h := by
    refine placeLaw_shrinks h (fun c => ?_) rfl
    rw [deskAt_mapPhases]
    obtain ⟨l, hl⟩ := hf c (State.deskAt _ c).handover.phase
    rw [hl]
    exact .withItems _ l
  marks _ h := placeLaw_same h (sameDesks_refl _) rfl

theorem endSession_within (s : State) (c : Console) (x : EndCause) (d : Console) :
    (s.deskAt d).within ((s.endSession c x).deskAt d) := by
  rw [deskAt_endSession]
  split
  · next e => rw [e.1]; exact .ended _ x
  · exact .refl _

/-- The checks of a badge: its holder is ACTIVE, attached nowhere else, and incoming nowhere (R149, R168). -/
theorem badgeRefusal_none {c : Console} {o : Operator} {r : OperatorRecord} (h : s.badgeRefusal c o r = none) :
    r.status = .active ∧ (∀ d : Console, d ≠ c → s.attachedAt d ≠ some o) ∧
      (∀ d : Console, s.handovers[d].phase.incoming ≠ some o) ∧ s.qualifies o c = true := by
  have hp := firstRefusal_none.1 h
  have h1 := hp (r.status == .active, .suspended) (by simp)
  have h2 : s.freeToCome c o = true := hp (s.freeToCome c o, .alreadySignedIn) (by simp)
  have h3 := hp (s.qualifies o c, .notQualified) (by simp)
  unfold State.freeToCome at h2
  rw [List.all_eq_true] at h2
  refine ⟨by simpa using h1, fun d hd => ?_, fun d => ?_, h3⟩
  · have := h2 d (List.mem_finRange d)
    simp only [Bool.and_eq_true, Bool.or_eq_true, beq_iff_eq, bne_iff_ne] at this
    exact this.1.resolve_left hd
  · have := h2 d (List.mem_finRange d)
    simp only [Bool.and_eq_true, bne_iff_ne] at this
    exact this.2

/-- After his sessions on grace have moved, an operator is in charge only where he is attached. -/
theorem moved_inCharge {d : Desk} {o : Operator} (h : (d.moved o).session.inCharge = some o) :
    d.session.attachedOperator = some o := by
  unfold Desk.moved at h
  split at h
  · next p n hs =>
    split at h
    · cases h
    · next hne => rw [hs] at h; exact absurd (Option.some.inj h) hne
  · next hs =>
    cases hx : d.session with
    | attached q => rw [hx] at h; exact h
    | detached q n => exact absurd hx (hs q n)
    | none => rw [hx] at h; cases h

/-- One operator, who is nowhere else, comes to a desk: the others are where they were, or nowhere. -/
theorem placeLaw_comes (h : s.placeLaw) {c : Console} {o : Operator} {r : OperatorRecord}
    (hr : t.cfg.roster = s.cfg.roster) (ho : s.cfg.roster[o] = some r) (ha : r.status = .active)
    (here : ∀ d, t.engaged d o → d = c) (others : ∀ d q, q ≠ o → t.engaged d q → s.engaged d q)
    (apart : ∀ (d : Console) (q : Operator), t.consoles[d].session.inCharge = some q → t.handovers[d].phase.incoming = some q → False) :
    t.placeLaw := by
  refine ⟨fun q d e hd he => ?_, fun q d hd => apart d q hd.1 hd.2, fun q d hd => ?_⟩
  · by_cases hq : q = o
    · subst hq; rw [here d hd, here e he]
    · exact h.once q d e (others d q hq hd) (others e q hq he)
  · by_cases hq : q = o
    · subst hq; exact ⟨r, by rw [hr]; exact ho, ha⟩
    · obtain ⟨x, hx, hs⟩ := h.active q d (others d q hq hd)
      exact ⟨x, by rw [hr]; exact hx, hs⟩

theorem engaged_iff (s : State) (c : Console) (o : Operator) : s.engaged c o ↔
    (s.deskAt c).session.inCharge = some o ∨ (s.deskAt c).handover.phase.incoming = some o := Iff.rfl

theorem moved_handover (d : Desk) (o : Operator) : (d.moved o).handover = d.handover := by
  unfold Desk.moved
  split
  · split <;> rfl
  · rfl

theorem signIn_placeLaw (h : s.placeLaw) {c : Console} {o : Operator} {r : OperatorRecord} (hn : s.consoles[c].session.inCharge = none)
    (ho : s.cfg.roster[o] = some r) (hb : s.badgeRefusal c o r = none) : (s.signIn c o).placeLaw := by
  obtain ⟨h1, h2, h3, -⟩ := badgeRefusal_none hb
  have hd := fun d => deskAt_signIn s c d o
  have inc : ∀ d, ((s.signIn c o).deskAt d).handover = (s.deskAt d).handover := by
    intro d
    rw [hd]
    split
    · next e => subst e; exact moved_handover _ o
    · exact moved_handover _ o
  refine placeLaw_comes (c := c) (t := s.signIn c o) h (by simp) ho h1 (fun d he => ?_) (fun d q hq he => ?_) (fun d q hx hi => ?_)
  · by_contra hne
    rw [engaged_iff, inc, hd, if_neg hne] at he
    rcases he with he | he
    · exact h2 d hne (moved_inCharge he)
    · exact h3 d he
  · rw [engaged_iff, inc, hd] at he
    rcases he with he | he
    · split at he
      · exact absurd (Option.some.inj he).symm hq
      · exact engaged_within (t := s.moveSessions o) (by rw [deskAt_moveSessions]; exact .moved _ o)
          (.inl (by rw [← deskAt_moveSessions] at he; exact he))
    · exact .inr he
  · have hi : (s.deskAt d).handover.phase.incoming = some q := by rw [← inc]; exact hi
    have hx : ((s.signIn c o).deskAt d).session.inCharge = some q := hx
    rw [hd] at hx
    split at hx
    · cases hx; exact h3 d hi
    · refine h.apart q d ⟨?_, hi⟩
      exact ((Desk.within.moved (s.deskAt d) o).inCharge.resolve_right fun e => by simp [hx] at e).symm.trans hx

theorem comeIn_placeLaw (h : s.placeLaw) {c : Console} {o p : Operator} {n : Nat} {l : List Item} {r : OperatorRecord}
    (hno : s.consoles[c].session.inCharge ≠ some o) (hp : s.handovers[c].phase = .offered p n l)
    (ho : s.cfg.roster[o] = some r) (hb : s.badgeRefusal c o r = none) : (s.comeIn c o).placeLaw := by
  obtain ⟨h1, h2, h3, -⟩ := badgeRefusal_none hb
  have hd := fun d => deskAt_comeIn s c d o
  have ses : ∀ d, ((s.comeIn c o).deskAt d).session = ((s.deskAt d).moved o).session := by
    intro d
    rw [hd]
    split
    · next e => subst e; rfl
    · rfl
  have inc : ∀ d, ((s.comeIn c o).deskAt d).handover.phase.incoming =
      if d = c then some o else (s.deskAt d).handover.phase.incoming := by
    intro d
    rw [hd]
    split
    · rw [hp]; rfl
    · rw [moved_handover]
  have was : ∀ d q, ((s.comeIn c o).deskAt d).session.inCharge = some q → (s.deskAt d).session.inCharge = some q := by
    intro d q hx
    rw [ses] at hx
    exact ((Desk.within.moved (s.deskAt d) o).inCharge.resolve_right fun e => by simp [hx] at e).symm.trans hx
  have nowhere : ∀ d, ((s.comeIn c o).deskAt d).session.inCharge ≠ some o := by
    intro d hx
    by_cases hc : d = c
    · subst hc; exact hno (was d o hx)
    · rw [ses] at hx; exact h2 d hc (moved_inCharge hx)
  refine placeLaw_comes (c := c) (t := s.comeIn c o) h (by simp) ho h1 (fun d he => ?_) (fun d q hq he => ?_) (fun d q hx hi => ?_)
  · by_contra hne
    rw [engaged_iff, inc, if_neg hne] at he
    exact he.elim (nowhere d) (h3 d)
  · rw [engaged_iff, inc] at he
    rcases he with he | he
    · exact .inl (was d q he)
    · split at he
      · exact absurd (Option.some.inj he).symm hq
      · exact .inr he
  · have hi : ((s.comeIn c o).deskAt d).handover.phase.incoming = some q := hi
    rw [inc] at hi
    split at hi
    · cases hi; exact nowhere d hx
    · exact h.apart q d ⟨was d q hx, hi⟩

theorem acceptDesk_placeLaw (h : s.placeLaw) {c : Console} {o i : Operator} {n : Nat} {l : List Item}
    (hp : s.handovers[c].phase = .review o i n l) : (s.acceptDesk c o i).placeLaw := by
  have hd := fun d => deskAt_acceptDesk s c d o i
  have hi : s.engaged c i := .inr (by rw [hp]; rfl)
  obtain ⟨r, hr, ha⟩ := h.active i c hi
  have back : ∀ d q, (s.acceptDesk c o i).engaged d q → s.engaged d q := by
    intro d q he
    rw [engaged_iff, hd] at he
    split at he
    · next e =>
      subst e
      rcases he with he | he
      · cases he; exact hi
      · cases he
    · exact he
  refine placeLaw_comes (c := c) (t := s.acceptDesk c o i) h (by simp) hr ha (fun d he => h.once i d c (back d i he) hi)
    (fun d q _ he => back d q he) (fun d q hx hy => ?_)
  have hx : ((s.acceptDesk c o i).deskAt d).session.inCharge = some q := hx
  have hy : ((s.acceptDesk c o i).deskAt d).handover.phase.incoming = some q := hy
  rw [hd] at hx hy
  split at hx
  · next e => rw [if_pos e] at hy; cases hy
  · next e => rw [if_neg e] at hy; exact h.apart q d ⟨hx, hy⟩

theorem suspend_placeLaw (h : s.placeLaw) (o : Operator) : (s.suspend o).placeLaw := by
  have hd := fun d => deskAt_suspend s d o
  have hw : ∀ d, (s.deskAt d).within ((s.suspend o).deskAt d) := by
    intro d
    rw [hd]
    dsimp only
    have hk : (s.deskAt d).within (if d ∈ s.handoversOf o then (s.deskAt d).aborted .suspended else s.deskAt d) := by
      split
      · exact .aborted _ _
      · exact .refl _
    split
    · exact hk.trans (.ended _ _)
    · exact hk
  refine placeLaw_within h hw fun q d r he h1 h2 => ?_
  have hne : q ≠ o := by
    rintro rfl
    rcases he with he | he
    · have hm : d ∈ s.consolesOf q := by
        unfold State.consolesOf
        rw [mem_numbersWhere]
        exact beq_iff_eq.2 (((hw d).inCharge.resolve_right fun e => by
          simp [show ((s.suspend q).deskAt d).session.inCharge = _ from he] at e).symm.trans he)
      have he : ((s.suspend q).deskAt d).session.inCharge = some q := he
      rw [hd] at he
      dsimp only at he
      rw [if_pos hm] at he
      cases he
    · have hi : s.handovers[d].phase.incoming = some q := ((hw d).incoming.resolve_right fun e => by
          simp [show ((s.suspend q).deskAt d).handover.phase.incoming = _ from he] at e).symm.trans he
      have hm : d ∈ s.handoversOf q := by
        unfold State.handoversOf
        rw [mem_numbersWhere, hi]
        simp
      have he : ((s.suspend q).deskAt d).handover.phase.incoming = some q := he
      rw [hd] at he
      dsimp only at he
      rw [if_pos hm] at he
      have hn : ((s.deskAt d).aborted .suspended).handover.phase.incoming = none := by
        rw [Desk.aborted_phase]; rfl
      split at he
      · exact absurd (hn.symm.trans he) (by simp)
      · exact absurd (hn.symm.trans he) (by simp)
  refine ⟨r, ?_, h2⟩
  rw [suspend_cfg]
  simp only [State.setStatus, State.setRoster, Fin.getElem_fin, set_get, if_neg hne]
  exact h1

theorem placeOf_none {o : Operator} (h : s.placeOf o = .none) (c : Console) : ¬s.engaged c o := by
  unfold State.placeOf at h
  split at h
  · cases h
  · next h1 =>
    split at h
    · cases h
    · next h2 =>
      have h1 := (lowestWhere_none _).1 h1 c
      have h2 := (lowestWhere_none _).1 h2 c
      rintro (he | he)
      · rw [he] at h1; simp at h1
      · rw [he] at h2; simp at h2

theorem rosterSlot_status {named : Option Operator} {slot : Operator} (h : s.rosterSlot named = some slot)
    {r : OperatorRecord} (hr : s.cfg.roster[slot] = some r) : s.rosterTarget named = some r := by
  unfold State.rosterSlot at h
  cases named with
  | some o => cases h; exact hr
  | none =>
    have := lowestWhere_some h
    rw [hr] at this
    cases this

theorem placeLaw_keep : OpsKeep fun s => s.desksLawful ∧ s.placeLaw := by
  have hD := desksLawful_keep
  refine
    { skel := fun e h => ⟨hD.skel e h.1, placeLaw_skel e h.2⟩
      raise := fun p k h u hu => ⟨hD.raise p k h.1 u hu, placeLaw_events.raisePoint h.2 p k u hu⟩
      clear := fun p h u hu => ⟨hD.clear p h.1 u hu, placeLaw_events.clearPoint h.2 p u hu⟩
      point := fun c o p n h hr => ⟨hD.point c o p n h.1 hr, placeLaw_same h.2 (sameDesks_refl _) rfl⟩
      lineConfig := fun l n h => ⟨hD.lineConfig l n h.1, placeLaw_same h.2 (sameDesks_refl _) rfl⟩
      acknowledge := fun o h hr hu => ⟨hD.acknowledge o h.1 hr hu, placeLaw_events.acknowledge h.2 _ _ o⟩
      silence := fun c h => ⟨hD.silence c h.1, placeLaw_events.live _ h.2⟩
      removal := fun h hr => ⟨hD.removal h.1 hr, placeLaw_events.removeAndFill h.2 _ _⟩
      removals := fun c o h => ⟨hD.removals c o h.1, placeLaw_events.removeAll _ h.2⟩
      shelve := fun o n h hr hs => ⟨hD.shelve o n h.1 hr hs, placeLaw_events.live _ h.2⟩
      endShelf := fun h hr hs => ⟨hD.endShelf h.1 hr hs, placeLaw_events.endShelf h.2 _ _⟩
      remind := fun h hr he => ⟨hD.remind h.1 hr he, placeLaw_events.live _ h.2⟩
      escalate := fun h hr he => ⟨hD.escalate h.1 hr he, placeLaw_events.live _ h.2⟩
      levels := fun a k l r h => ⟨hD.levels a k l r h.1, placeLaw_same h.2 (sameDesks_refl _) rfl⟩
      move := fun c o a x y h hr => ⟨hD.move c o a x y h.1 hr,
        placeLaw_same h.2 (fun d => deskAt_moveArea _ d a x y) (by rw [moveArea_cfg]; rfl)⟩
      roster := ?roster
      status := ?status
      retire := ?retire
      abort := fun c x h => ⟨hD.abort c x h.1,
        placeLaw_at h.2 (by simp) c (fun d => deskAt_abortHandover _ c d x) (.aborted _ x)⟩
      sessionEnd := fun c x h hp => ⟨hD.sessionEnd c x h.1 hp, placeLaw_shrinks h.2 (endSession_within _ c x) (by simp)⟩
      leave := fun c x h hp => ⟨hD.leave c x h.1 hp, placeLaw_shrinks h.2 (endSession_within _ c x) (by simp)⟩
      graceEnd := fun c x h hp => ⟨hD.graceEnd c x h.1 hp, placeLaw_shrinks h.2 (endSession_within _ c x) (by simp)⟩
      suspend := fun o h => ⟨hD.suspend o h.1, suspend_placeLaw h.2 o⟩
      seconds := fun c h => ⟨hD.seconds c h.1, placeLaw_same h.2 (fun d => deskAt_secondsEnd _ c d) (by simp)⟩
      failed := fun c n h => ⟨hD.failed c n h.1,
        placeLaw_at h.2 (by simp) c (fun d => deskAt_failWindow _ c d n) (.failed _ _ _ _)⟩
      bringUp := fun c h hl => ⟨hD.bringUp c h.1 hl, placeLaw_at h.2 (by simp) c (fun d => deskAt_bringUp _ c d)
        ⟨.inl (by dsimp only; cases (State.deskAt _ c).session <;> rfl), .inl rfl⟩⟩
      success := fun c w h hn => ⟨hD.success c w h.1 hn,
        placeLaw_at h.2 rfl c (fun d => deskAt_setConsole _ c d _) ⟨.inl rfl, .inl rfl⟩⟩
      horn := fun c b h => ⟨hD.horn c b h.1, placeLaw_at h.2 (by simp) c (fun d => deskAt_hornReport _ c d b)
        ⟨.inl rfl, .inl rfl⟩⟩
      signIn := fun c o r h hu hn hr hb => ⟨hD.signIn c o r h.1 hu hn hr hb, signIn_placeLaw h.2 hn hr hb⟩
      comeIn := fun c o p n l r h hu hno hp hr hb =>
        ⟨hD.comeIn c o p n l r h.1 hu hno hp hr hb, comeIn_placeLaw h.2 hno hp hr hb⟩
      restart := fun c h hl => ⟨hD.restart c h.1 hl, placeLaw_at h.2 (by simp) c (fun d => deskAt_restartPort _ c d)
        (.restarted _ _)⟩
      enable := fun c b h hne hb => ⟨hD.enable c b h.1 hne hb, placeLaw_shrinks h.2 (fun d => by
        rw [deskAt_setEnabled]
        split
        · next e => subst e; cases b <;> exact ⟨.inl rfl, .inl rfl⟩
        · exact .refl _) (by simp [State.setEnabled])⟩
      enterNote := fun n o a k x h hf hx => ⟨hD.enterNote n o a k x h.1 hf hx, placeLaw_same
        (placeLaw_events.appendItem (placeLaw_same (t := State.setNote _ n _) h.2 (sameDesks_refl _) rfl) a (.note n))
        (sameDesks_refl _) rfl⟩
      clearNote := fun n h => ⟨hD.clearNote n h.1, placeLaw_same
        (placeLaw_events.dropItem (placeLaw_same (t := State.setNote _ n none) h.2 (sameDesks_refl _) rfl) (.note n))
        (sameDesks_refl _) rfl⟩
      offer := fun c o h ha hi hr => ⟨hD.offer c o h.1 ha hi hr,
        placeLaw_at h.2 (by simp) c (fun d => deskAt_offer _ c d o) ⟨.inl rfl, .inr rfl⟩⟩
      seen := fun c x h => ⟨hD.seen c x h.1,
        placeLaw_at h.2 (by simp) c (fun d => deskAt_markSeen _ c d x) (.withItems (State.deskAt _ c) _)⟩
      accept := fun c o i n l h hp => ⟨hD.accept c o i n l h.1 hp, acceptDesk_placeLaw h.2 hp⟩
      params := fun w x y p h hw => ⟨hD.params w x y p h.1 hw, placeLaw_shrinks h.2 (fun d => by
        rw [deskAt_takeParams]
        split
        · exact .limited _ _ _
        · exact .refl _) (by rw [takeParams_cfg]; rfl)⟩
      storeWrite := fun h => ⟨hD.storeWrite h.1, placeLaw_same h.2 (sameDesks_refl _) rfl⟩
      later := fun h => ⟨hD.later h.1, placeLaw_same h.2 (sameDesks_refl _) rfl⟩
      unpowered := fun b h => ⟨hD.unpowered b h.1, placeLaw_same h.2 (sameDesks_refl _) rfl⟩
      cold := ?cold }
  case roster =>
    intro s c o named b g e slot h hb hr hs
    refine ⟨hD.roster c o named b g e slot h.1 hb hr hs, placeLaw_within h.2 (fun d => .refl _) fun q d r he h1 h2 => ?_⟩
    simp only [State.setRoster, Fin.getElem_fin, set_get]
    split
    · next e =>
      subst e
      have ht := rosterSlot_status hs h1
      exact ⟨_, rfl, by rw [ht]; exact h2⟩
    · exact ⟨r, h1, h2⟩
  case status =>
    intro s o h
    refine ⟨hD.status o h.1, placeLaw_within h.2 (fun d => .refl _) fun q d r he h1 h2 => ?_⟩
    simp only [State.setStatus, State.setRoster, Fin.getElem_fin, set_get]
    split
    · next e => subst e; exact ⟨{ r with status := .active }, by rw [show s.cfg.roster[q.val] = some r from h1]; rfl, rfl⟩
    · exact ⟨r, h1, h2⟩
  case retire =>
    intro s o h hp
    refine ⟨hD.retire o h.1 hp, placeLaw_within h.2 (fun d => .refl _) fun q d r he h1 h2 => ?_⟩
    have hq : q ≠ o := by
      rintro rfl
      exact placeOf_none hp d he
    refine ⟨r, ?_, h2⟩
    show ((s.setRoster o none).cfg.roster)[q] = some r
    simp only [State.setRoster, Fin.getElem_fin, set_get, if_neg hq]
    exact h1
  case cold =>
    intro s b h
    have hn : ∀ c o, ¬(s.started (s.store.cutOff b)).engaged c o := by
      intro c o he
      rw [engaged_iff, started_deskAt] at he
      rcases he with he | he <;> cases he
    refine ⟨started_desksLawful _ _, fun o c _ he => absurd he (hn c o), fun o c he => hn c o (.inl he.1),
      fun o c he => absurd he (hn c o)⟩

end PlaceLaw


end Sys2Proof.Machine
end

section
/-! The law of the routes (R11, R12): the routing function looks at links, sessions, owners and fallbacks alone; an
operation that changes one of them re-evaluates it. -/

namespace Sys2Proof.Machine

/-- Every live record carries its area's present route. -/
def State.carriesRoutes (s : State) : Prop := s.all fun r => r.route = s.routes[r.area]

section Carried

variable {s t : State}

theorem carriesRoutes_congr (h : s.carriesRoutes) (hl : t.live = s.live) (hr : t.routes = s.routes) : t.carriesRoutes := by
  unfold State.carriesRoutes at *
  rw [hr]
  exact all_of_live hl h

theorem carriesRoutes_slots : SeatKeep State.carriesRoutes where
  congr h e := carriesRoutes_congr h e.live e.routes
  slot h hr hb := all_setSlot_some h (hb.carried (all_at h hr))
  records {s f} h hf := by
    unfold State.carriesRoutes
    rw [State.mapRecords_routes]
    exact all_mapRecords h fun r _ hr => (hf r).carried hr
  removals {s} l h _ := by
    have hc := removed_keeps (P := fun u => u.carriesRoutes ∧ u.routes = s.routes)
      (fun u i r hu => ⟨carriesRoutes_congr (s := u.setSlot i none) (all_setSlot_none hu.1) (by simp [State.remove]) (by simp),
        by rw [State.remove_routes]; exact hu.2⟩) l ⟨h, rfl⟩
    unfold State.carriesRoutes State.removeAll
    rw [State.fill_routes]
    refine all_fill hc.1 fun e _ u hu => ?_
    show u.routes[_] = _
    rw [hu.routes]
    rfl
  seat {s i p} k h _ _ _ := by
    refine carriesRoutes_congr (s := s.setSlot i (some (s.annunciated (s.freshRecord p k)))) (all_setSlot_some h rfl)
      (by simp [State.admitRecord, State.annunciate]) (by simp)
  queue _ h _ _ _ := h
  entry h _ := h
  drop _ h := h

/-- A re-evaluation leaves every record with its area's route. -/
theorem reroute_carriesRoutes (h : s.carriesRoutes) : s.reroute.carriesRoutes := by
  unfold State.carriesRoutes
  rw [all_iff]
  intro j r hr
  simp only [State.reroute, Fin.getElem_fin, Vector.getElem_ofFn, Option.map_eq_some_iff] at hr
  obtain ⟨q, hq, rfl⟩ := hr
  simp only [State.reroute, Fin.getElem_fin, Vector.getElem_ofFn, Fin.eta]
  split
  · obtain ⟨-, -, h3, -, h5⟩ := moved_same s q (s.routeOf q.area)
    rw [h5, h3]
  · next hn =>
    rw [all_at h hq]
    simp only [State.routeChanges, bne_iff_ne, ne_eq, not_not] at hn
    exact hn.symm

end Carried

/-! ### What the routing function looks at -/

/-- Nothing that the routing function looks at differs, and the present routes are the same. -/
structure State.SameStaff (s t : State) : Prop where
  routes : t.routes = s.routes
  areas : ∀ a : Area, t.cfg.areas[a].owner = s.cfg.areas[a].owner ∧ t.cfg.areas[a].fallback = s.cfg.areas[a].fallback
  up : ∀ c : Console, t.linkUp c = s.linkUp c
  seated : ∀ c : Console, (t.attachedAt c).isSome = (s.attachedAt c).isSome

section SameStaff

variable {s t u : State}

theorem routeOf_of_staffing (ha : ∀ a : Area, t.cfg.areas[a].owner = s.cfg.areas[a].owner ∧
    t.cfg.areas[a].fallback = s.cfg.areas[a].fallback) (hu : ∀ c : Console, t.linkUp c = s.linkUp c)
    (hs : ∀ c : Console, (t.attachedAt c).isSome = (s.attachedAt c).isSome) (a : Area) : t.routeOf a = s.routeOf a := by
  have ho : ∀ x, t.staffedOption x = s.staffedOption x := by
    intro x
    cases x with
    | none => rfl
    | some c => simp only [State.staffedOption, State.staffed, hu, hs]
  unfold State.routeOf
  rw [(ha a).1, (ha a).2, ho, ho, hu]

theorem State.SameStaff.refl (s : State) : s.SameStaff s := ⟨rfl, fun _ => ⟨rfl, rfl⟩, fun _ => rfl, fun _ => rfl⟩

theorem sameStaff_of_desks (hr : t.routes = s.routes) (ha : t.cfg.areas = s.cfg.areas)
    (hd : ∀ c : Console, (t.deskAt c).link.isUp = (s.deskAt c).link.isUp ∧
      (t.deskAt c).session.attachedOperator.isSome = (s.deskAt c).session.attachedOperator.isSome) : s.SameStaff t :=
  ⟨hr, fun a => by rw [ha]; exact ⟨rfl, rfl⟩, fun c => (hd c).1, fun c => (hd c).2⟩

theorem sameStaff_same (hr : t.routes = s.routes) (ha : t.cfg.areas = s.cfg.areas) (hd : s.sameDesks t) : s.SameStaff t :=
  sameStaff_of_desks hr ha fun c => by rw [hd c]; exact ⟨rfl, rfl⟩

theorem sameStaff_events (s : State) : EventKeep s.SameStaff where
  live _ h := ⟨h.routes, h.areas, h.up, h.seated⟩
  waiting _ h := ⟨h.routes, h.areas, h.up, h.seated⟩
  weight {u} c w h := by
    have hk : u.sameDesks { u with consoles := upd u.consoles c fun k => k.addWeight w } :=
      sameDesks_of (sameAt_upd (c := c) (f := fun k => k.addWeight w) rfl rfl) rfl
    refine ⟨h.routes, h.areas, fun d => ?_, fun d => ?_⟩
    · exact (congrArg (fun k : Desk => k.link.isUp) (hk d)).trans (h.up d)
    · exact (congrArg (fun k : Desk => k.session.attachedOperator.isSome) (hk d)).trans (h.seated d)
  items _ _ h := ⟨h.routes, h.areas, h.up, h.seated⟩
  marks _ h := ⟨h.routes, h.areas, h.up, h.seated⟩

/-- The law after an operation that changes no route. -/
theorem routeLaw_same (h : s.routeLaw) (hc : t.carriesRoutes) (e : s.SameStaff t) : t.routeLaw :=
  ⟨fun a => by rw [e.routes, routeOf_of_staffing e.areas e.up e.seated]; exact h.present a, hc⟩

/-- The law after a re-evaluation, with what follows it in its event. -/
theorem routeLaw_rerouted (h : s.carriesRoutes) (hl : t.live = s.reroute.live) (hr : t.routes = s.reroute.routes)
    (ho : ∀ a : Area, t.routeOf a = s.routeOf a) : t.routeLaw := by
  refine ⟨fun a => ?_, carriesRoutes_congr (reroute_carriesRoutes h) hl hr⟩
  rw [hr, ho]
  simp [State.reroute]

theorem routeOf_same (ha : t.cfg.areas = s.cfg.areas) (hd : s.sameDesks t) (a : Area) : t.routeOf a = s.routeOf a :=
  routeOf_of_staffing (fun a => by rw [ha]; exact ⟨rfl, rfl⟩) (fun c => congrArg (fun k : Desk => k.link.isUp) (hd c))
    (fun c => congrArg (fun k : Desk => k.session.attachedOperator.isSome) (hd c)) a

theorem routeLaw_markAll (h : s.routeLaw) (l : List Ref) : (s.markAll l).routeLaw := routeLaw_skel (skel_markAll s l) h

theorem routeLaw_storeWrite (h : s.routeLaw) : s.storeWrite.routeLaw :=
  routeLaw_same h h.carried ⟨rfl, fun _ => ⟨rfl, rfl⟩, fun _ => rfl, fun _ => rfl⟩

theorem reroute_routeLaw (h : s.carriesRoutes) : s.reroute.routeLaw :=
  routeLaw_rerouted h rfl rfl fun a => routeOf_same (by simp) (fun c => deskAt_reroute s c) a

/-- A re-evaluation as a step of its event. -/
theorem rerouteStep_routeLaw (h : s.carriesRoutes) : s.rerouteStep.routeLaw := by
  unfold State.rerouteStep
  exact routeLaw_markAll (reroute_routeLaw h) _

end SameStaff

/-! ### The handovers at their desks -/

/-- A handover stands only under the ATTACHED operator who offered it, at a console that owns an area. -/
def Desk.handsWell (owns : Prop) (d : Desk) : Prop :=
  d.handover.phase.active = true → d.session.attachedOperator = d.handover.phase.outgoing ∧ owns

def State.handsWell (s : State) : Prop := ∀ c : Console, (s.deskAt c).handsWell (s.ownedAreas c ≠ [])

theorem handsWell_of_handoverLaw {s : State} (h : s.handoverLaw) : s.handsWell :=
  fun c ha => ⟨(h c ha).2.1, (h c ha).2.2⟩

namespace Desk.handsWell

variable {owns : Prop} {d : Desk}

theorem of_inactive (h : d.handover.phase.active = false) : d.handsWell owns := fun e => by rw [h] at e; cases e

/-- A desk with the same session and handover. -/
theorem same {e : Desk} (h : d.handsWell owns) (hs : e.session = d.session) (hh : e.handover = d.handover) : e.handsWell owns := by
  unfold Desk.handsWell at *
  rw [hs, hh]
  exact h

theorem attached (h : d.handsWell owns) (ha : d.handover.phase.active = true) : d.session.attachedOperator.isSome = true := by
  rw [(h ha).1]
  exact outgoing_isSome ha

theorem inactive (h : d.handsWell owns) (hx : d.session.attachedOperator = none) : d.handover.phase.active = false := by
  by_contra hn
  have := h.attached (Bool.of_not_eq_false hn)
  rw [hx] at this
  cases this

theorem aborted (d : Desk) (x : HandoverOutcome) : (d.aborted x).handsWell owns :=
  of_inactive (by rw [Desk.aborted_phase]; rfl)

theorem ended (d : Desk) (x : EndCause) (hp : d.handover.phase.active = false) : (d.ended x).handsWell owns := of_inactive hp

theorem lost (h : d.handsWell owns) (n : Nat) : (d.lost n).handsWell owns := by
  unfold Desk.lost
  split
  · exact of_inactive (by
      show (Desk.aborted _ _).handover.phase.active = false
      rw [Desk.aborted_phase]; rfl)
  · exact h

theorem failed (h : d.handsWell owns) (limit : Nat) (w : Window) (n : Nat) : (d.failed limit w n).handsWell owns := by
  have he : Desk.handsWell owns { d with count := min (d.count + 2) (limit + 1), link := d.link.withWindow w } := h.same rfl rfl
  unfold Desk.failed
  dsimp only
  split
  · exact he.lost n
  · exact he

theorem limited (h : d.handsWell owns) (limit n : Nat) : (d.limited limit n).handsWell owns := by
  have he : Desk.handsWell owns { d with count := min d.count (limit + 1) } := h.same rfl rfl
  unfold Desk.limited
  dsimp only
  split
  · exact he.lost n
  · exact he

theorem reattached (h : d.handsWell owns) {e : Desk} (hs : e.session = d.session.reattach) (hh : e.handover = d.handover) :
    e.handsWell owns := by
  intro ha
  rw [hh] at ha
  rw [hs, hh]
  refine ⟨?_, (h ha).2⟩
  rw [← (h ha).1]
  have := h.attached ha
  cases hx : d.session with
  | attached o => rfl
  | detached o n => rw [hx] at this; cases this
  | none => rfl

theorem moved (h : d.handsWell owns) (o : Operator) : (d.moved o).handsWell owns := by
  unfold Desk.moved
  split
  · next p n hs =>
    split
    · exact ended d _ (h.inactive (by rw [hs]; rfl))
    · exact h
  · exact h

theorem withItems (h : d.handsWell owns) (l : List Item) :
    Desk.handsWell owns { d with handover := { d.handover with phase := d.handover.phase.withItems l } } := by
  have h1 : (d.handover.phase.withItems l).active = d.handover.phase.active := by cases d.handover.phase <;> rfl
  have h2 : (d.handover.phase.withItems l).outgoing = d.handover.phase.outgoing := by cases d.handover.phase <;> rfl
  intro ha
  dsimp only at *
  rw [h1] at ha
  rw [h2]
  exact h ha

end Desk.handsWell

section HandsWell

variable {s t : State}

theorem ownedAreas_congr (ha : t.cfg.areas = s.cfg.areas) (c : Console) : t.ownedAreas c = s.ownedAreas c := by
  unfold State.ownedAreas
  rw [ha]

/-- An operation that leaves the areas, desk by desk. -/
theorem handsWell_desks (h : s.handsWell) (ha : t.cfg.areas = s.cfg.areas)
    (hd : ∀ c : Console, (s.deskAt c).handsWell (s.ownedAreas c ≠ []) → (t.deskAt c).handsWell (s.ownedAreas c ≠ [])) :
    t.handsWell := fun c => by rw [ownedAreas_congr ha]; exact hd c (h c)

theorem handsWell_same (h : s.handsWell) (ha : t.cfg.areas = s.cfg.areas) (hd : s.sameDesks t) : t.handsWell :=
  handsWell_desks h ha fun c hc => by rw [hd c]; exact hc

theorem handsWell_at (h : s.handsWell) (hc : t.cfg = s.cfg) (c : Console) {e : Desk}
    (hd : ∀ d, t.deskAt d = if d = c then e else s.deskAt d) (he : e.handsWell (s.ownedAreas c ≠ [])) : t.handsWell :=
  handsWell_desks h (by rw [hc]) fun d k => by
    rw [hd d]
    split
    · next e => subst e; exact he
    · exact k

theorem handsWell_events : EventKeep State.handsWell where
  live _ h := h
  waiting _ h := h
  weight c w h := handsWell_same h rfl (sameDesks_of (sameAt_upd (c := c) (f := fun k => k.addWeight w) rfl rfl) rfl)
  items _ hf h := by
    refine handsWell_desks h rfl fun c hc => ?_
    rw [deskAt_mapPhases]
    obtain ⟨l, hl⟩ := hf c (State.deskAt _ c).handover.phase
    rw [hl]
    exact hc.withItems l
  marks _ h := h

end HandsWell

/-! ### Both laws under the operations that move sessions and links -/

section RouteLaw

variable {s t : State}

/-- A re-evaluation of a state whose records stand on the routes from before the event. -/
theorem routeLaw_after_reroute {u : State} (h : s.routeLaw) (hl : u.live = s.live) (hr : u.routes = s.routes) :
    u.rerouteStep.routeLaw := rerouteStep_routeLaw (carriesRoutes_congr h.carried hl hr)

theorem endSession_routeLaw (h : s.routeLaw) (c : Console) (x : EndCause) : (s.endSession c x).routeLaw := by
  unfold State.endSession
  split
  · exact h
  · exact routeLaw_markAll (routeLaw_after_reroute h (by simp) (by simp)) _

theorem abortHandover_sameStaff (s : State) (c : Console) (x : HandoverOutcome) : s.SameStaff (s.abortHandover c x) :=
  sameStaff_of_desks (by simp) (by simp) fun d => by
    rw [deskAt_abortHandover]
    split
    · next e => subst e; exact ⟨rfl, rfl⟩
    · exact ⟨rfl, rfl⟩

theorem dropSuspended_live (s : State) (l : List Console) : (s.dropSuspended l).live = s.live := rfl

theorem dropSuspended_routes (s : State) (l : List Console) : (s.dropSuspended l).routes = s.routes := rfl

theorem suspend_routeLaw (h : s.routeLaw) (o : Operator) : (s.suspend o).routeLaw := by
  have keep : ∀ (l : List Console) (u : State), u.routeLaw → (l.foldl (fun t c => t.abortHandover c .suspended) u).routeLaw := by
    intro l
    induction l with
    | nil => exact fun _ hu => hu
    | cons c cs ih =>
      exact fun u hu => ih _ (routeLaw_same hu (carriesRoutes_congr hu.carried (by simp) (by simp)) (abortHandover_sameStaff u c _))
  have h1 := keep (s.handoversOf o) (s.setStatus o .suspended) (routeLaw_same h h.carried (sameStaff_same rfl rfl (sameDesks_refl s)))
  unfold State.suspend State.endSuspended
  dsimp only
  split
  · exact routeLaw_storeWrite (routeLaw_markAll h1 _)
  · exact routeLaw_storeWrite (routeLaw_markAll (routeLaw_markAll (routeLaw_after_reroute h1
      (dropSuspended_live _ _) (dropSuspended_routes _ _)) _) _)

theorem isUp_withWindow (l : Link) (w : Window) : (l.withWindow w).isUp = l.isUp := by cases l <;> rfl

theorem failWindow_routeLaw (h : s.routeLaw) (c : Console) (n : Nat) : (s.failWindow c n).routeLaw := by
  unfold State.failWindow
  dsimp only
  split
  · exact routeLaw_after_reroute h (by simp) (by simp)
  · refine routeLaw_same h h.carried (sameStaff_of_desks rfl rfl fun d => ?_)
    rw [deskAt_markAll, deskAt_setConsole]
    split
    · next e => subst e; exact ⟨isUp_withWindow _ _, rfl⟩
    · exact ⟨rfl, rfl⟩

theorem relimit_routeLaw (h : s.routeLaw) : s.relimit.routeLaw := by
  unfold State.relimit
  dsimp only
  split
  · refine routeLaw_same h (carriesRoutes_congr h.carried (by simp) (by simp)) (sameStaff_of_desks (by simp) (by simp) fun d => ?_)
    rw [deskAt_capCounts]
    exact ⟨rfl, rfl⟩
  · have lose : ∀ (l : List Console) (u : State), (l.foldl State.loseLink u).live = u.live ∧
        (l.foldl State.loseLink u).routes = u.routes := by
      intro l
      induction l with
      | nil => exact fun _ => ⟨rfl, rfl⟩
      | cons c cs ih =>
        intro u
        rw [List.foldl_cons, (ih _).1, (ih _).2]
        exact ⟨by simp, by simp⟩
    exact routeLaw_after_reroute h (by rw [(lose _ _).1]; simp) (by rw [(lose _ _).2]; simp)

theorem takeParams_routeLaw (h : s.routeLaw) (w : Parameter) (p : Params) : (s.takeParams w p).routeLaw := by
  have h0 : (s.setParams p).routeLaw := routeLaw_same h h.carried (sameStaff_same rfl rfl (sameDesks_refl s))
  unfold State.takeParams
  dsimp only
  split
  · exact routeLaw_same h0 (carriesRoutes_slots.records h0.carried fun r => .ite (fun _ => .advance _ _ r) fun _ => .refl r)
      (sameStaff_same (by simp) (by simp) (sameDesks_of_consoles (by simp) (by simp)))
  · exact relimit_routeLaw h0
  · exact h0

theorem signIn_routeLaw (h : s.routeLaw) (c : Console) (o : Operator) : (s.signIn c o).routeLaw := by
  unfold State.signIn
  exact routeLaw_markAll (routeLaw_after_reroute h (by simp) (by simp)) _

theorem setPhase_sameStaff (s : State) (c : Console) (p : Phase) : s.SameStaff (s.setPhase c p) :=
  sameStaff_of_desks rfl rfl fun d => by
    rw [deskAt_setPhase]
    split
    · next e => subst e; exact ⟨rfl, rfl⟩
    · exact ⟨rfl, rfl⟩

theorem setPhase_routeLaw (h : s.routeLaw) (c : Console) (p : Phase) (l : List Ref) :
    ((s.setPhase c p).markAll l).routeLaw :=
  routeLaw_markAll (routeLaw_same (t := s.setPhase c p) h h.carried (setPhase_sameStaff s c p)) l

theorem comeIn_routeLaw (h : s.routeLaw) (c : Console) (o : Operator) : (s.comeIn c o).routeLaw := by
  unfold State.comeIn
  dsimp only
  split
  · exact setPhase_routeLaw h c _ _
  · exact setPhase_routeLaw (routeLaw_after_reroute h (by simp) (by simp)) c _ _

theorem restartPort_routeLaw (h : s.routeLaw) (c : Console) : (s.restartPort c).routeLaw := by
  unfold State.restartPort
  exact routeLaw_markAll (routeLaw_after_reroute h (by simp) (by simp)) _

theorem setEnabled_routeLaw (h : s.routeLaw) (c : Console) (b : Bool) : (s.setEnabled c b).routeLaw := by
  unfold State.setEnabled
  dsimp only
  have hr := reroute_routeLaw (carriesRoutes_congr (t := { s with
    cfg := { s.cfg with enabled := s.cfg.enabled.set c.val b c.isLt }
    consoles := upd s.consoles c fun k => if b then { k with link := .down, count := 0 } else k.cleared .off
    portRx := upd s.portRx c fun r => if b then r else { r with mode := .hunting } }) h.carried rfl rfl)
  exact routeLaw_storeWrite hr

theorem bringUp_routeLaw (h : s.routeLaw) (c : Console) : (s.bringUp c).routeLaw :=
  reroute_routeLaw (carriesRoutes_congr h.carried rfl rfl)

theorem moveArea_routeLaw (h : s.routeLaw) (a : Area) (x y : Option Console) : (s.moveArea a x y).routeLaw := by
  have hr : (s.setArea a fun k => { k with owner := x, fallback := y }).rerouteStep.routeLaw := routeLaw_after_reroute h rfl rfl
  unfold State.moveArea
  dsimp only
  refine routeLaw_storeWrite (routeLaw_markAll ?_ _)
  split
  · exact hr
  · exact routeLaw_skel (skel_requalify _ _) hr

theorem levels_owner (s : State) (a : Area) (k l r : Level) (b : Area) :
    ((s.setArea a fun _ => (s.cfg.areas[a]).withLevels k l r).cfg.areas[b]).owner = s.cfg.areas[b].owner ∧
      ((s.setArea a fun _ => (s.cfg.areas[a]).withLevels k l r).cfg.areas[b]).fallback = s.cfg.areas[b].fallback := by
  simp only [State.setArea, Fin.getElem_fin, upd_get]
  split
  · next e => subst e; exact ⟨rfl, rfl⟩
  · exact ⟨rfl, rfl⟩

theorem faultHorn_routeLaw (h : s.routeLaw) (c : Console) (b : Bool) : (s.hornReport c b).routeLaw := by
  have hs : s.SameStaff (s.hornReport c b) := sameStaff_of_desks (by simp) (by simp) fun d => by
    rw [deskAt_hornReport]
    split
    · next e => subst e; exact ⟨rfl, rfl⟩
    · exact ⟨rfl, rfl⟩
  refine routeLaw_same h ?_ hs
  unfold State.hornReport
  split
  · have hc := carriesRoutes_slots.records h.carried
      (f := fun r => if s.unheardAt c r then { r with silencedAtSupervisor := false } else r)
      fun r => .ite (fun _ => .heard r) fun _ => .refl r
    exact carriesRoutes_congr hc (by simp [State.faultHorn]) (by simp [State.faultHorn])
  · exact h.carried

theorem secondsEnd_routeLaw (h : s.routeLaw) (c : Console) : (s.secondsEnd c).routeLaw := by
  refine routeLaw_same h ?_ (sameStaff_same (by simp) (by simp) fun d => deskAt_secondsEnd s c d)
  unfold State.carriesRoutes
  rw [State.secondsEnd_routes]
  exact secondsEnd_all c h.carried fun r hr => hr

theorem started_routeLaw (s : State) (st : Store) : (s.started st).routeLaw := by
  have hu : ∀ c, (s.started st).linkUp c = false := by
    intro c
    show ((s.started st).deskAt c).link.isUp = false
    rw [started_deskAt]
    dsimp only
    split <;> rfl
  refine ⟨fun a => ?_, fun r hr => by rw [started_records] at hr; exact absurd hr List.not_mem_nil⟩
  have hn : ∀ x, (s.started st).staffedOption x = false := by
    intro x
    cases x with
    | none => rfl
    | some c => simp only [State.staffedOption, State.staffed, hu, Bool.false_and]
  unfold State.routeOf
  rw [hn, hn, hu]
  simp [State.started]

/-- The handover at a desk is the ATTACHED operator's, so that an accept leaves the desk staffed. -/
theorem acceptDesk_routeLaw (h : s.routeLaw) (hh : s.handsWell) {c : Console} {o i : Operator} {n : Nat} {l : List Item}
    (hp : s.handovers[c].phase = .review o i n l) : (s.acceptDesk c o i).routeLaw := by
  refine routeLaw_same h (carriesRoutes_congr h.carried (by simp) (by simp)) (sameStaff_of_desks (by simp) (by simp) fun d => ?_)
  rw [deskAt_acceptDesk]
  split
  · next e =>
    subst e
    have := (hh d).attached (by rw [show (s.deskAt d).handover.phase = _ from hp]; rfl)
    exact ⟨rfl, this.symm⟩
  · exact ⟨rfl, rfl⟩

theorem suspend_handsWell (h : s.handsWell) (o : Operator) : (s.suspend o).handsWell := by
  refine handsWell_desks h (by rw [suspend_cfg]; rfl) fun d hd => ?_
  rw [deskAt_suspend]
  have hk : Desk.handsWell (s.ownedAreas d ≠ [])
      (if d ∈ s.handoversOf o then (s.deskAt d).aborted .suspended else s.deskAt d) := by
    split
    · exact .aborted _ _
    · exact hd
  dsimp only
  split
  · next hm =>
    refine .ended _ _ ?_
    split
    · rw [Desk.aborted_phase]; rfl
    · next hn =>
      by_contra ha
      have ha := Bool.of_not_eq_false ha
      refine hn ?_
      have hc : (s.deskAt d).session.inCharge = some o := by
        unfold State.consolesOf at hm
        rw [mem_numbersWhere] at hm
        exact beq_iff_eq.1 hm
      have hs := hd.attached ha
      have ho : (s.deskAt d).session.attachedOperator = some o := by
        cases hx : (s.deskAt d).session with
        | attached q => rw [hx] at hc; exact hc
        | detached q n => rw [hx] at hs; cases hs
        | none => rw [hx] at hs; cases hs
      unfold State.handoversOf
      rw [mem_numbersWhere, show s.handovers[d].phase.outgoing = some o from (hd ha).1.symm.trans ho]
      simp
  · exact hk

theorem endSession_handsWell (h : s.handsWell) (c : Console) (x : EndCause) (hp : s.handovers[c].phase.active = false) :
    (s.endSession c x).handsWell := by
  refine handsWell_desks h (by simp) fun d hd => ?_
  rw [deskAt_endSession]
  split
  · next e => rw [e.1]; exact .ended _ _ hp
  · exact hd

theorem moveArea_handsWell (h : s.handsWell) {a : Area} {x y : Option Console}
    (hf : s.handoverFree s.cfg.areas[a].owner = true) : (s.moveArea a x y).handsWell := by
  intro c ha
  rw [deskAt_moveArea] at ha ⊢
  obtain ⟨h1, h2⟩ := h c ha
  refine ⟨h1, ?_⟩
  obtain ⟨b, hb⟩ := List.exists_mem_of_ne_nil _ h2
  refine List.ne_nil_of_mem (a := b) ?_
  rw [mem_ownedAreas] at hb ⊢
  rw [moveArea_areas]
  split
  · next e =>
    subst e
    rw [hb] at hf
    have hn : s.handovers[c].phase.active = false := by simpa [State.handoverFree] using hf
    exact absurd (hn.symm.trans ha) Bool.false_ne_true
  · exact hb

/-- An operation on records and entries keeps both laws. -/
theorem routes_events {P : State → Prop} (h : s.routeLaw ∧ s.handsWell) (hP : P t → t.carriesRoutes) (hp : P t)
    (he : s.SameStaff t) (hh : t.handsWell) : t.routeLaw ∧ t.handsWell := ⟨routeLaw_same h.1 (hP hp) he, hh⟩

theorem routeLaw_keep : OpsKeep fun s => s.routeLaw ∧ s.handsWell := by
  have hS := carriesRoutes_slots
  have hE := sameStaff_events
  have hH := handsWell_events
  refine
    { skel := fun e h => ⟨routeLaw_skel e h.1, fun c => by
        obtain ⟨-, -, h3, h4⟩ := deskAt_skel e c
        rw [skel_ownedAreas e]
        exact (h.2 c).same h3 h4⟩
      raise := fun p k h u hu => ⟨routeLaw_same h.1 (hS.raisePoint h.1.carried p k u hu)
        ((hE _).raisePoint (.refl _) p k u hu), hH.raisePoint h.2 p k u hu⟩
      clear := fun p h u hu => ⟨routeLaw_same h.1 (hS.clearPoint h.1.carried p u hu)
        ((hE _).clearPoint (.refl _) p u hu), hH.clearPoint h.2 p u hu⟩
      point := fun _ _ _ _ h _ => ⟨routeLaw_same h.1 h.1.carried (sameStaff_same rfl rfl (sameDesks_refl _)), h.2⟩
      lineConfig := fun _ _ h => ⟨routeLaw_same h.1 h.1.carried (sameStaff_same rfl rfl (sameDesks_refl _)), h.2⟩
      acknowledge := fun o h hr hu => ⟨routeLaw_same h.1 (hS.acknowledge h.1.carried o hr hu)
        ((hE _).acknowledge (.refl _) _ _ o), hH.acknowledge h.2 _ _ o⟩
      silence := fun c h => ⟨routeLaw_same h.1 (hS.records h.1.carried (.silenced c)) ((hE _).mapRecords (.refl _) _),
        hH.mapRecords h.2 _⟩
      removal := fun h hr => ⟨routeLaw_same h.1 (hS.removal h.1.carried hr) ((hE _).removeAndFill (.refl _) _ _),
        hH.removeAndFill h.2 _ _⟩
      removals := fun c o h => ⟨routeLaw_same h.1 (hS.removals _ h.1.carried (resettable_live _ c o)) ((hE _).removeAll _ (.refl _)),
        hH.removeAll _ h.2⟩
      shelve := fun o n h hr hs => ⟨routeLaw_same h.1 (hS.slot h.1.carried hr (.shelve hs o n))
        ((hE _).setSlot (.refl _) _ _), h.2⟩
      endShelf := fun h hr _ => ⟨routeLaw_same h.1 (hS.endShelf h.1.carried hr) ((hE _).endShelf (.refl _) _ _),
        hH.endShelf h.2 _ _⟩
      remind := fun h hr he => ⟨routeLaw_same h.1 (hS.slot h.1.carried hr (.remind he)) ((hE _).setSlot (.refl _) _ _), h.2⟩
      escalate := fun h hr he =>
        ⟨routeLaw_same h.1 (hS.slot h.1.carried hr (.escalate he)) ((hE _).setSlot (.refl _) _ _), h.2⟩
      levels := fun a k l r h => ⟨routeLaw_same h.1 h.1.carried ⟨rfl, levels_owner _ a k l r, fun _ => rfl, fun _ => rfl⟩,
        fun c ha => ⟨(h.2 c ha).1, fun e => (h.2 c ha).2 (by
          rw [List.eq_nil_iff_forall_not_mem] at e ⊢
          intro b
          have := e b
          rw [mem_ownedAreas, (levels_owner _ a k l r b).1] at this
          rw [mem_ownedAreas]
          exact this)⟩⟩
      move := fun _ _ a x y h hr => ⟨moveArea_routeLaw h.1 a x y, moveArea_handsWell h.2 (moveRefusal_free hr).1⟩
      roster := fun _ _ _ _ _ _ _ h _ _ _ => ⟨routeLaw_same h.1 h.1.carried (sameStaff_same rfl rfl (sameDesks_refl _)), h.2⟩
      status := fun _ h => ⟨routeLaw_same h.1 h.1.carried (sameStaff_same rfl rfl (sameDesks_refl _)), h.2⟩
      retire := fun _ h _ => ⟨routeLaw_same h.1 h.1.carried (sameStaff_same rfl rfl (sameDesks_refl _)), h.2⟩
      abort := fun c x h => ⟨routeLaw_same h.1 (carriesRoutes_congr h.1.carried (by simp) (by simp))
        (abortHandover_sameStaff _ c x), handsWell_at h.2 (by simp) c (fun d => deskAt_abortHandover _ c d x) (.aborted _ x)⟩
      sessionEnd := fun c x h hp => ⟨endSession_routeLaw h.1 c x, endSession_handsWell h.2 c x hp⟩
      leave := fun c x h ho => ⟨endSession_routeLaw h.1 c x, endSession_handsWell h.2 c x (by
        by_contra hn
        exact (h.2 c (Bool.of_not_eq_false hn)).2 ho)⟩
      graceEnd := fun c x h hg => ⟨endSession_routeLaw h.1 c x, endSession_handsWell h.2 c x ((h.2 c).inactive (by
        by_contra hs
        exact hg (graceEnd_of_detached (Option.isSome_iff_ne_none.2 hs))))⟩
      suspend := fun o h => ⟨suspend_routeLaw h.1 o, suspend_handsWell h.2 o⟩
      seconds := fun c h => ⟨secondsEnd_routeLaw h.1 c, handsWell_same h.2 (by simp) fun d => deskAt_secondsEnd _ c d⟩
      failed := fun c n h => ⟨failWindow_routeLaw h.1 c n,
        handsWell_at h.2 (by simp) c (fun d => deskAt_failWindow _ c d n) ((h.2 c).failed _ _ _)⟩
      bringUp := fun c h _ => ⟨bringUp_routeLaw h.1 c,
        handsWell_at h.2 (by simp) c (fun d => deskAt_bringUp _ c d) ((h.2 c).reattached rfl rfl)⟩
      success := fun c w h _ => ⟨routeLaw_same h.1 h.1.carried (sameStaff_of_desks rfl rfl fun d => by
          rw [deskAt_setConsole]
          split
          · next e => subst e; exact ⟨isUp_withWindow _ _, rfl⟩
          · exact ⟨rfl, rfl⟩),
        handsWell_at h.2 rfl c (fun d => deskAt_setConsole _ c d _) ((h.2 c).same rfl rfl)⟩
      horn := fun c b h => ⟨faultHorn_routeLaw h.1 c b,
        handsWell_at h.2 (by simp) c (fun d => deskAt_hornReport _ c d b) ((h.2 c).same rfl rfl)⟩
      signIn := ?signIn
      comeIn := ?comeIn
      restart := fun c h _ => ⟨restartPort_routeLaw h.1 c,
        handsWell_at h.2 (by simp) c (fun d => deskAt_restartPort _ c d) (.of_inactive (by
          show Phase.active (Desk.aborted _ _).handover.phase = false
          rw [Desk.aborted_phase]
          rfl))⟩
      enable := fun c b h _ _ => ⟨setEnabled_routeLaw h.1 c b, handsWell_desks h.2 (by simp [State.setEnabled]) fun d hd => by
        rw [deskAt_setEnabled]
        split
        · next e => subst e; cases b <;> exact hd.same rfl rfl
        · exact hd⟩
      enterNote := fun n o a k x h _ _ => ⟨routeLaw_same h.1 (carriesRoutes_congr h.1.carried (by simp) (by simp))
        (sameStaff_of_desks (by simp) (by simp [State.putNote]) fun d => by simp only [State.deskAt, State.putNote_consoles, and_self]),
        handsWell_same (hH.appendItem (s := State.setNote _ n _) h.2 a (.note n)) rfl (sameDesks_refl _)⟩
      clearNote := fun n h => ⟨routeLaw_same h.1 (carriesRoutes_congr h.1.carried (by simp) (by simp))
        (sameStaff_of_desks (by simp) (by simp [State.emptyNote]) fun d => by simp only [State.deskAt, State.emptyNote_consoles, and_self]),
        handsWell_same (hH.dropItem (s := State.setNote _ n none) h.2 (.note n)) rfl (sameDesks_refl _)⟩
      offer := ?offer
      seen := fun c x h => ⟨setPhase_routeLaw h.1 c _ _, handsWell_at h.2 (by simp) c (fun d => deskAt_markSeen _ c d x) ((h.2 c).withItems _)⟩
      accept := fun c o i n l h hp => ⟨acceptDesk_routeLaw h.1 h.2 hp,
        handsWell_at h.2 (by simp) c (fun d => deskAt_acceptDesk _ c d o i) (.of_inactive rfl)⟩
      params := fun w x y p h hw => ⟨takeParams_routeLaw h.1 w p, handsWell_desks h.2 (by rw [takeParams_cfg]; rfl) fun d hd => by
        rw [deskAt_takeParams]
        split
        · exact hd.limited _ _
        · exact hd⟩
      storeWrite := fun h => ⟨routeLaw_storeWrite h.1, h.2⟩
      later := fun h => ⟨routeLaw_same h.1 h.1.carried ⟨rfl, fun _ => ⟨rfl, rfl⟩, fun _ => rfl, fun _ => rfl⟩, h.2⟩
      unpowered := fun b h => ⟨routeLaw_same h.1 h.1.carried ⟨rfl, fun _ => ⟨rfl, rfl⟩, fun _ => rfl, fun _ => rfl⟩, h.2⟩
      cold := fun b h => ⟨started_routeLaw _ _, fun c => .of_inactive (by rw [started_deskAt]; rfl)⟩ }
  case signIn =>
    intro s c o r h hu hn hr hb
    refine ⟨signIn_routeLaw h.1 c o, handsWell_desks h.2 (by simp) fun d hd => ?_⟩
    rw [deskAt_signIn]
    split
    · next e =>
      subst e
      refine .of_inactive ?_
      show ((s.deskAt d).moved o).handover.phase.active = false
      rw [moved_handover]
      exact hd.inactive (attached_of_inCharge_none hn).1
    · exact hd.moved o
  case comeIn =>
    intro s c o p n l r h hu hno hp hr hb
    refine ⟨comeIn_routeLaw h.1 c o, handsWell_desks h.2 (by simp) fun d hd => ?_⟩
    rw [deskAt_comeIn]
    split
    · next e =>
      subst e
      have hq := hd (by rw [show (s.deskAt d).handover.phase = _ from hp]; rfl)
      have hm : (s.deskAt d).moved o = s.deskAt d := moved_of_none fun n he => by
        have := hq.1
        rw [he, show (s.deskAt d).handover.phase = _ from hp] at this
        cases this
      rw [hm, hp]
      refine fun _ => ⟨?_, hq.2⟩
      rw [show (s.deskAt d).handover.phase = _ from hp] at hq
      exact hq.1
    · exact hd.moved o
  case offer =>
    intro s c o h ha _ hr
    refine ⟨setPhase_routeLaw h.1 c _ _, handsWell_at h.2 (by simp) c (fun d => deskAt_offer _ c d o) fun _ => ⟨ha, ?_⟩⟩
    have := firstRefusal_none.1 hr (!(s.ownedAreas c).isEmpty, .nothingToDo) (by simp)
    simpa using this

end RouteLaw

/-- Settles O14. Every operation that moves a link, a session, an owner or a fallback re-evaluates the routes but an accept,
which hands over an ATTACHED session. -/
theorem stepsKeepTheRoutes : Obligations.StepsKeepTheRoutes :=
  fun _ _ hr hh h => (step_keeps routeLaw_keep ⟨hr, handsWell_of_handoverLaw hh⟩ h).1

end Sys2Proof.Machine
end

section
/-! The law of the item lists (R163, R167, R172): what a list names is a live record or a note of an area of its console.
An operation shortens the lists or leaves them, and keeps what they name; an admission, a note and an offer add to them
what has just come. -/

namespace Sys2Proof.Machine

/-- What the list of a console may name. -/
def State.listed (s : State) (c : Console) : ItemRef → Prop
  | .alarm p => ∃ r ∈ s.records, r.point = p ∧ s.cfg.areas[r.area].owner = some c
  | .note n => ∃ r, s.cfg.notes[n] = some r ∧ s.cfg.areas[r.area].owner = some c

/-- The law of the item lists but for their length, which follows. -/
structure State.listsLawful (s : State) : Prop where
  distinct : ∀ c : Console, (s.itemRefs c).Nodup
  listed : ∀ c : Console, ∀ x ∈ s.itemRefs c, s.listed c x

section Lists

variable {s t : State}

theorem records_length_le (s : State) : s.records.length ≤ 64 := by
  unfold State.records
  exact (List.length_filterMap_le ..).trans (by simp)

theorem itemRefs_length_le (h : s.listsLawful) (c : Console) : (s.itemRefs c).length ≤ 96 := by
  have hsub : s.itemRefs c ⊆ s.records.map (fun r => ItemRef.alarm r.point) ++ (List.finRange 32).map ItemRef.note := by
    intro x hx
    have hl := h.listed c x hx
    cases x with
    | alarm p =>
      obtain ⟨r, hr, rfl, -⟩ := hl
      exact List.mem_append_left _ (List.mem_map_of_mem hr)
    | note n => exact List.mem_append_right _ (List.mem_map_of_mem (List.mem_finRange n))
  have hle := ((h.distinct c).subperm hsub).length_le
  have hr := records_length_le s
  simp only [List.length_append, List.length_map, List.length_finRange] at hle
  omega

theorem itemLaw_iff (s : State) : s.itemLaw ↔ s.listsLawful := by
  constructor
  · intro h
    refine ⟨h.distinct, fun c x hx => ?_⟩
    cases x with
    | alarm p => exact h.alarms c p hx
    | note n => exact h.notes c n hx
  · intro h
    refine ⟨h.distinct, fun c => ?_, fun c p hp => h.listed c _ hp, fun c n hn => h.listed c _ hn⟩
    have := itemRefs_length_le h c
    unfold State.itemRefs at this
    rwa [List.length_map] at this

/-! ### What the lists may name stays -/

/-- What a list looks at of a record. -/
def Record.home (r : Record) : Point × Area := (r.point, r.area)

/-- The slots hold records of the same points and areas, the owners stand, and the notes stand in their areas. -/
structure State.sameListing (s t : State) : Prop where
  homes : ∀ i : Slot, (t.live[i]).map Record.home = (s.live[i]).map Record.home
  owners : ∀ a : Area, t.cfg.areas[a].owner = s.cfg.areas[a].owner
  notes : ∀ n : Note, (t.cfg.notes[n]).map NoteRecord.area = (s.cfg.notes[n]).map NoteRecord.area

theorem listed_alarm_iff (s : State) (c : Console) (p : Point) : s.listed c (.alarm p) ↔
    ∃ (i : Slot) (a : Area), (s.live[i]).map Record.home = some (p, a) ∧ s.cfg.areas[a].owner = some c := by
  simp only [State.listed, mem_records]
  constructor
  · rintro ⟨r, ⟨i, hi⟩, rfl, ho⟩
    exact ⟨i, r.area, by rw [hi]; rfl, ho⟩
  · rintro ⟨i, a, hi, ho⟩
    obtain ⟨r, hr, hh⟩ := Option.map_eq_some_iff.1 hi
    cases hh
    exact ⟨r, ⟨i, hr⟩, rfl, ho⟩

theorem listed_note_iff (s : State) (c : Console) (n : Note) : s.listed c (.note n) ↔
    ∃ a : Area, (s.cfg.notes[n]).map NoteRecord.area = some a ∧ s.cfg.areas[a].owner = some c := by
  simp only [State.listed]
  constructor
  · rintro ⟨r, hr, ho⟩
    exact ⟨r.area, by rw [hr]; rfl, ho⟩
  · rintro ⟨a, hi, ho⟩
    obtain ⟨r, hr, rfl⟩ := Option.map_eq_some_iff.1 hi
    exact ⟨r, hr, ho⟩

theorem State.sameListing.listed (h : s.sameListing t) (c : Console) (x : ItemRef) (hx : s.listed c x) : t.listed c x := by
  cases x with
  | alarm p =>
    rw [listed_alarm_iff] at hx ⊢
    obtain ⟨i, a, hi, ho⟩ := hx
    exact ⟨i, a, (h.homes i).trans hi, (h.owners a).trans ho⟩
  | note n =>
    rw [listed_note_iff] at hx ⊢
    obtain ⟨a, hi, ho⟩ := hx
    exact ⟨a, (h.notes n).trans hi, (h.owners a).trans ho⟩

theorem sameListing_refl (s : State) : s.sameListing s := ⟨fun _ => rfl, fun _ => rfl, fun _ => rfl⟩

theorem sameListing_of_cfg (hl : t.live = s.live) (hc : t.cfg = s.cfg) : s.sameListing t :=
  ⟨fun i => by rw [hl], fun a => by rw [hc], fun n => by rw [hc]⟩

/-- Lists that lose references at most, and keep what they name. -/
theorem listsLawful_of (h : s.listsLawful) (hs : ∀ c, (t.itemRefs c).Sublist (s.itemRefs c))
    (hk : ∀ c, ∀ x ∈ t.itemRefs c, s.listed c x → t.listed c x) : t.listsLawful :=
  ⟨fun c => (h.distinct c).sublist (hs c), fun c x hx => hk c x hx (h.listed c x ((hs c).subset hx))⟩

theorem itemRefs_of_handovers (hh : t.handovers = s.handovers) (c : Console) :
    (t.itemRefs c).Sublist (s.itemRefs c) := by
  rw [State.itemRefs, hh]
  exact List.Sublist.refl _

theorem listsLawful_congr (h : s.listsLawful) (hl : t.live = s.live) (hc : t.cfg = s.cfg)
    (hh : t.handovers = s.handovers) : t.listsLawful :=
  listsLawful_of h (itemRefs_of_handovers hh)
    fun c x _ => (sameListing_of_cfg hl hc).listed c x

theorem listsLawful_same (h : s.listsLawful) (hs : ∀ c, (t.itemRefs c).Sublist (s.itemRefs c))
    (hk : s.sameListing t) : t.listsLawful :=
  listsLawful_of h hs fun c x _ => hk.listed c x

/-! ### The lists under the operations on records -/

theorem itemRefs_mapPhases (s : State) (f : Console → Phase → Phase) (c : Console) :
    (s.mapPhases f).itemRefs c = (f c s.handovers[c].phase).items.map Item.ref := by
  simp only [State.itemRefs, State.mapPhases, Fin.getElem_fin, Vector.getElem_ofFn]

theorem items_withItems (p : Phase) (l : List Item) : (p.withItems l).items = if p.active then l else [] := by
  cases p <;> rfl

theorem items_of_inactive {p : Phase} (h : p.active = false) : p.items = [] := by
  cases p
  · rfl
  · cases h
  · cases h

theorem itemRefs_appendItem (s : State) (a : Area) (x : ItemRef) (c : Console) : (s.appendItem a x).itemRefs c =
    if s.cfg.areas[a].owner = some c ∧ s.handovers[c].phase.active = true then s.itemRefs c ++ [x] else s.itemRefs c := by
  rw [State.appendItem, itemRefs_mapPhases]
  by_cases ho : s.cfg.areas[a].owner = some c
  · rw [if_pos (by rw [ho]; exact beq_self_eq_true _), Phase.append, items_withItems]
    cases hp : s.handovers[c].phase.active with
    | true =>
      rw [if_pos rfl, if_pos ⟨ho, rfl⟩]
      simp [State.itemRefs]
    | false =>
      rw [if_neg (by decide), if_neg (by simp), State.itemRefs, items_of_inactive hp, List.map_nil]
  · rw [if_neg (by simpa using ho), if_neg fun h => ho h.1]
    rfl

theorem itemRefs_dropItem (s : State) (x : ItemRef) (c : Console) :
    (s.dropItem x).itemRefs c = (s.itemRefs c).filter fun y => y != x := by
  show (s.mapPhases fun _ p => p.drop x).itemRefs c = _
  rw [itemRefs_mapPhases, Phase.drop, items_withItems]
  unfold State.itemRefs
  cases hp : s.handovers[c].phase.active with
  | true => rw [if_pos rfl, List.filter_map]; rfl
  | false => rw [if_neg (by decide), items_of_inactive hp]; rfl

/-- What has come joins the list of its area's owner. -/
theorem listsLawful_appendItem (h : s.listsLawful) {a : Area} {x : ItemRef} (hx : ∀ c, x ∉ s.itemRefs c)
    (hl : ∀ c, s.cfg.areas[a].owner = some c → s.listed c x) : (s.appendItem a x).listsLawful := by
  have hk : s.sameListing (s.appendItem a x) := sameListing_of_cfg (by simp) (by simp)
  refine ⟨fun c => ?_, fun c y hy => hk.listed c y ?_⟩
  · rw [itemRefs_appendItem]
    split
    · refine List.nodup_append.2 ⟨h.distinct c, List.nodup_singleton x, fun y hy z hz => ?_⟩
      cases List.mem_singleton.1 hz
      rintro rfl
      exact hx c hy
    · exact h.distinct c
  · rw [itemRefs_appendItem] at hy
    split at hy
    · next hc =>
      rcases List.mem_append.1 hy with hy | hy
      · exact h.listed c y hy
      · cases List.mem_singleton.1 hy
        exact hl c hc.1
    · exact h.listed c y hy

/-- Before a removal: the record in the slot, if one is there yet, is the one named. -/
def State.names (s : State) (i : Slot) (r : Record) : Prop := ∀ q, s.live[i] = some q → q.point = r.point

theorem listsLawful_remove (h : s.listsLawful) {i : Slot} {r : Record} (hr : s.names i r) :
    (s.remove i r).listsLawful := by
  have hrefs : ∀ c, (s.remove i r).itemRefs c = (s.itemRefs c).filter fun y => y != .alarm r.point := fun c => by
    unfold State.remove
    rw [itemRefs_dropItem]
    rfl
  refine listsLawful_of h (fun c => by rw [hrefs]; exact List.filter_sublist) fun c x hx hl => ?_
  have hne : x ≠ .alarm r.point := by
    rw [hrefs] at hx
    simpa using (List.mem_filter.1 hx).2
  cases x with
  | note n =>
    obtain ⟨q, hq, ho⟩ := hl
    exact ⟨q, by rw [State.remove_cfg]; exact hq, by rw [State.remove_cfg]; exact ho⟩
  | alarm p =>
    rw [listed_alarm_iff] at hl ⊢
    obtain ⟨j, a, hj, ho⟩ := hl
    refine ⟨j, a, ?_, by rw [State.remove_cfg]; exact ho⟩
    have hlive : (s.remove i r).live = s.live.set i.val none i.isLt := by simp [State.remove]
    rw [hlive]
    simp only [Fin.getElem_fin, set_get]
    rw [if_neg]
    · exact hj
    · rintro rfl
      obtain ⟨q, hq, hh⟩ := Option.map_eq_some_iff.1 hj
      cases hh
      exact hne (congrArg ItemRef.alarm (hr q hq))

theorem names_remove {i j : Slot} {r q : Record} (h : s.names j q) : (s.remove i r).names j q := by
  intro x hx
  have hlive : (s.remove i r).live = s.live.set i.val none i.isLt := by simp [State.remove]
  rw [hlive] at hx
  simp only [Fin.getElem_fin, set_get] at hx
  split at hx
  · cases hx
  · exact h x hx

theorem listsLawful_removed (l : List (Slot × Record)) (h : s.listsLawful) (hl : ∀ x ∈ l, s.names x.1 x.2) :
    (l.foldl (fun t x => t.remove x.1 x.2) s).listsLawful := by
  induction l generalizing s with
  | nil => exact h
  | cons x xs ih =>
    exact ih (listsLawful_remove h (hl x (List.mem_cons_self ..)))
      fun y hy => names_remove (hl y (List.mem_cons_of_mem _ hy))

/-- A record of a point that is not live is admitted to an empty slot. -/
theorem listsLawful_admitRecord (h : s.listsLawful) {i : Slot} {r : Record} (hn : s.all fun q => q.point ≠ r.point)
    (hi : s.live[i] = none) : (s.admitRecord i r).listsLawful := by
  have hslot : ∀ j : Slot, (s.annunciate i r).live[j] = if j = i then some (s.annunciated r) else s.live[j] := fun j => by
    simp only [State.annunciate, Fin.getElem_fin, set_get]
  have hann : (s.annunciate i r).listsLawful := by
    refine listsLawful_of h (fun c => List.Sublist.refl _) fun c x hx hl => ?_
    cases x with
    | note n => exact hl
    | alarm p =>
      rw [listed_alarm_iff] at hl ⊢
      obtain ⟨j, a, hj, ho⟩ := hl
      refine ⟨j, a, ?_, ho⟩
      rw [hslot, if_neg, hj]
      rintro rfl
      rw [hi] at hj
      cases hj
  refine listsLawful_appendItem hann (fun c hc => ?_) fun c ho => ?_
  · obtain ⟨q, hq, he, -⟩ := h.listed c (.alarm r.point) hc
    exact hn q hq he
  · exact (listed_alarm_iff ..).2 ⟨i, r.area, by rw [hslot, if_pos rfl]; rfl, ho⟩

theorem lowestEmpty_live {i : Slot} (h : s.lowestEmpty = some i) : s.live[i] = none := by
  have := lowestWhere_some h
  cases hl : s.live[i] with
  | none => rfl
  | some r => simp [hl] at this

theorem listsLawful_fillFrom (l : List Entry) (s : State) (hn : (l.map Entry.point).Nodup)
    (ha : ∀ e ∈ l, s.all fun r => r.point ≠ e.point) (h : s.listsLawful) : (State.fillFrom l s).listsLawful := by
  induction l generalizing s with
  | nil => exact h
  | cons e es ih =>
    unfold State.fillFrom
    split
    · next i hi =>
      refine ih _ (List.nodup_cons.1 hn).2 (fun x hx => ?_) ?_
      · refine all_of_live (s := s.setSlot i (some (s.annunciated (s.recordOfEntry e)))) (admitEntry_live s i e es) ?_
        refine all_setSlot_some (ha x (List.mem_cons_of_mem _ hx)) fun he : e.point = x.point => ?_
        exact (List.nodup_cons.1 hn).1 (he ▸ List.mem_map_of_mem hx)
      · have hs : State.listsLawful { s with waiting := es } := ⟨h.distinct, h.listed⟩
        exact listsLawful_same (listsLawful_admitRecord hs (r := s.recordOfEntry e)
          (ha e (List.mem_cons_self ..)) (lowestEmpty_live hi)) (fun c => List.Sublist.refl _) (sameListing_of_cfg rfl rfl)
    · exact h

theorem foldl_remove_waiting (l : List (Slot × Record)) (s : State) :
    (l.foldl (fun t x => t.remove x.1 x.2) s).waiting = s.waiting :=
  removed_keeps (P := fun u => u.waiting = s.waiting) (fun u i r hu => by simpa using hu) l rfl

/-! ### The events of single records -/

theorem sameListing_setSlot {i : Slot} {r q : Record} (hr : s.live[i] = some r) (hh : q.home = r.home) :
    s.sameListing (s.setSlot i (some q)) := by
  refine ⟨fun j => ?_, fun _ => rfl, fun _ => rfl⟩
  simp only [State.setSlot_live, Fin.getElem_fin, set_get]
  split
  · next e => subst e; rw [show s.live[j.val] = some r from hr]; exact congrArg some hh
  · rfl

theorem sameListing_mapRecords {f : Record → Record} (hf : ∀ r, (f r).home = r.home) : s.sameListing (s.mapRecords f) := by
  refine ⟨fun j => ?_, fun _ => rfl, fun _ => rfl⟩
  simp only [State.mapRecords, Fin.getElem_fin, Vector.getElem_ofFn, Option.map_map]
  congr 1
  funext r
  exact hf r

theorem listsLawful_mapRecords (h : s.listsLawful) {f : Record → Record} (hf : ∀ r, (f r).home = r.home) :
    (s.mapRecords f).listsLawful :=
  listsLawful_same h (itemRefs_of_handovers (State.mapRecords_handovers s f)) (sameListing_mapRecords hf)

theorem State.Becomes.home {r q : Record} (h : s.Becomes r q) : q.home = r.home := by
  unfold Record.home
  rw [h.point, h.area]

theorem listsLawful_removeAll (l : List (Slot × Record)) (ht : s.tableLaw) (h : s.listsLawful)
    (hl : ∀ x ∈ l, s.live[x.1] = some x.2) : (s.removeAll l).listsLawful := by
  have hc := removed_keeps (P := State.tableCore) (fun _ i r hu => tableCore_remove hu i r) l ((tableLaw_iff _).1 ht).1
  refine listsLawful_fillFrom _ _ hc.queued hc.apart (listsLawful_removed l h fun x hx q hq => ?_)
  cases (hl x hx).symm.trans hq
  rfl

theorem itemLaw_slots : SeatKeep fun s => s.tableLaw ∧ s.listsLawful := by
  have hT := tableLaw_keep_slots
  refine
    { congr := fun h e => ⟨hT.congr h.1 e, listsLawful_same h.2 (fun c => by rw [e.refs]) (sameListing_of_cfg e.live e.cfg)⟩
      slot := fun h hr hb => ⟨hT.slot h.1 hr hb, listsLawful_same h.2 (itemRefs_of_handovers rfl) (sameListing_setSlot hr hb.home)⟩
      records := fun h hf => ⟨hT.records h.1 hf,
        listsLawful_mapRecords h.2 fun r => (hf r).home⟩
      removals := fun l h hl => ⟨hT.removals l h.1 hl, listsLawful_removeAll l h.1 h.2 hl⟩
      seat := fun {s i p} k h hf he hi => ⟨hT.seat k h.1 hf he hi,
        listsLawful_admitRecord h.2 (i := i) (r := s.freshRecord p k) (records_of_find_none hf) (lowestEmpty_live hi)⟩
      queue := fun k h hf he hn => ⟨hT.queue k h.1 hf he hn, listsLawful_congr h.2 rfl rfl rfl⟩
      entry := fun h hf => ⟨hT.entry h.1 hf, listsLawful_congr h.2 rfl rfl rfl⟩
      drop := fun p h => ⟨hT.drop p h.1, listsLawful_congr h.2 rfl rfl rfl⟩ }

/-! ### The operations on consoles, areas, operators and parameters -/

theorem moved_home (s : State) (r : Record) (x : Option Console) : (s.moved r x).home = r.home := by
  obtain ⟨hp, -, ha, -, -⟩ := moved_same s r x
  unfold Record.home
  rw [hp, ha]

theorem sameHomes_keep (s : State) : DeskKeep fun t => ∀ i : Slot, (t.live[i]).map Record.home = (s.live[i]).map Record.home where
  congr h e i := by rw [e.live]; exact h i
  reroute {t} h i := by
    rw [← h i]
    simp only [State.reroute, Fin.getElem_fin, Vector.getElem_ofFn, Option.map_map]
    congr 1
    funext r
    dsimp only [Function.comp_apply]
    split
    · exact moved_home t r _
    · rfl
  records {t f} h hf i := by
    rw [← h i]
    exact (sameListing_mapRecords fun r => (hf r).home).homes i

/-- A handover stands as it was, or is over. -/
def Desk.listed (d e : Desk) : Prop :=
  (e.handover.phase.items.map Item.ref).Sublist (d.handover.phase.items.map Item.ref)

namespace Desk.listed

variable {d e f : Desk}

theorem refl (d : Desk) : d.listed d := List.Sublist.refl _

theorem trans (h : d.listed e) (k : e.listed f) : d.listed f := List.Sublist.trans k h

theorem aborted (d : Desk) (x : HandoverOutcome) : d.listed (d.aborted x) := by
  unfold Desk.listed
  rw [Desk.aborted_phase]
  exact List.nil_sublist _

theorem lost (d : Desk) (n : Nat) : d.listed (d.lost n) := by
  unfold Desk.lost
  split
  · next w _ => exact aborted { d with link := .lost w } _
  · exact refl d

theorem failed (d : Desk) (limit : Nat) (w : Window) (n : Nat) : d.listed (d.failed limit w n) := by
  unfold Desk.failed
  dsimp only
  split
  · exact lost { d with count := min (d.count + 2) (limit + 1), link := d.link.withWindow w } n
  · exact refl d

theorem limited (d : Desk) (limit n : Nat) : d.listed (d.limited limit n) := by
  unfold Desk.limited
  dsimp only
  split
  · exact lost { d with count := min d.count (limit + 1) } n
  · exact refl d

theorem moved (d : Desk) (o : Operator) : d.listed (d.moved o) := by
  unfold Desk.listed
  rw [moved_handover]

end Desk.listed

theorem itemRefs_desk (s : State) (c : Console) : s.itemRefs c = (s.deskAt c).handover.phase.items.map Item.ref := rfl

theorem listsLawful_desks (h : s.listsLawful) (hd : ∀ c : Console, (s.deskAt c).listed (t.deskAt c))
    (hk : s.sameListing t) : t.listsLawful := listsLawful_same h hd hk

/-- One desk changes. -/
theorem listsLawful_at (h : s.listsLawful) (c : Console) {e : Desk}
    (hd : ∀ d, t.deskAt d = if d = c then e else s.deskAt d) (he : (s.deskAt c).listed e) (hk : s.sameListing t) :
    t.listsLawful :=
  listsLawful_desks h (fun d => by
    rw [hd d]
    split
    · next e => subst e; exact he
    · exact .refl _) hk

/-- The configuration's areas and notes stand, and so does every record's home. -/
theorem sameListing_kept (hh : ∀ i : Slot, (t.live[i]).map Record.home = (s.live[i]).map Record.home)
    (ha : t.cfg.areas = s.cfg.areas) (hn : t.cfg.notes = s.cfg.notes) : s.sameListing t :=
  ⟨hh, fun a => by rw [ha], fun n => by rw [hn]⟩

/-- An area moves, at whose owners no handover stands (R6). -/
theorem moveArea_listsLawful (h : s.listsLawful) {a : Area} {x y : Option Console}
    (hf : s.handoverFree s.cfg.areas[a].owner = true) : (s.moveArea a x y).listsLawful := by
  have hrefs : ∀ c, (s.moveArea a x y).itemRefs c = s.itemRefs c := fun c => by
    rw [itemRefs_desk, deskAt_moveArea]; rfl
  have hhomes := (sameHomes_keep s).moveArea (s := s) (fun _ => rfl) a x y
  refine listsLawful_of h (fun c => by rw [hrefs]) fun c z hz hl => ?_
  rw [hrefs] at hz
  have howner : ∀ b : Area, s.cfg.areas[b].owner = some c → (s.moveArea a x y).cfg.areas[b].owner = some c := by
    intro b hb
    rw [moveArea_areas, if_neg]
    · exact hb
    · rintro rfl
      rw [hb] at hf
      have hp : s.handovers[c].phase.active = false := by simpa [State.handoverFree] using hf
      rw [State.itemRefs, items_of_inactive hp] at hz
      cases hz
  cases z with
  | alarm p =>
    rw [listed_alarm_iff] at hl ⊢
    obtain ⟨i, b, hi, ho⟩ := hl
    exact ⟨i, b, (hhomes i).trans hi, howner b ho⟩
  | note n =>
    obtain ⟨r, hr, ho⟩ := hl
    exact ⟨r, by rw [moveArea_cfg]; exact hr, howner r.area ho⟩

/-- What an offer lists. -/
theorem mem_sortRecords (l : List Record) : (sortRecords l).Perm l := by
  have insert_perm : ∀ (r : Record) (l : List Record), (insertRecord r l).Perm (r :: l) := by
    intro r l
    induction l with
    | nil => exact .refl _
    | cons x xs ih =>
      unfold insertRecord
      split
      · exact .refl _
      · exact (ih.cons x).trans (.swap r x xs)
  induction l with
  | nil => exact .refl _
  | cons x xs ih => exact (insert_perm x _).trans (ih.cons x)

theorem offerItems_refs (s : State) (c : Console) : (s.offerItems c).map Item.ref =
    ((s.offeredRecords c).map Record.point).map ItemRef.alarm ++ (s.offeredNotes c).map ItemRef.note := by
  simp [State.offerItems, Item.fresh, Function.comp_def]

theorem offer_listsLawful (ht : s.tableLaw) (h : s.listsLawful) (c : Console) (o : Operator) :
    (s.offer c o).listsLawful := by
  have hk : s.sameListing (s.offer c o) := sameListing_of_cfg (by simp) (by simp)
  have hrefs : ∀ d, (s.offer c o).itemRefs d = if d = c then (s.offerItems c).map Item.ref else s.itemRefs d := fun d => by
    rw [itemRefs_desk, deskAt_offer]
    split <;> rfl
  refine ⟨fun d => ?_, fun d x hx => hk.listed d x ?_⟩
  · rw [hrefs]
    split
    · rw [offerItems_refs]
      refine List.nodup_append.2 ⟨?_, ?_, ?_⟩
      · refine List.Nodup.map (fun _ _ e => by cases e; rfl) ?_
        exact (((mem_sortRecords _).map Record.point).nodup_iff).2 (ht.once.sublist (List.filter_sublist.map _))
      · refine List.Nodup.map (fun _ _ e => by cases e; rfl) ?_
        unfold State.offeredNotes numbersWhere
        exact (List.nodup_finRange 32).filter _
      · intro x hx y hy
        obtain ⟨p, -, rfl⟩ := List.mem_map.1 hx
        obtain ⟨n, -, rfl⟩ := List.mem_map.1 hy
        exact fun e => by cases e
    · exact h.distinct d
  · rw [hrefs] at hx
    split at hx
    · next e =>
      subst e
      rw [offerItems_refs] at hx
      rcases List.mem_append.1 hx with hx | hx
      · obtain ⟨p, hp, rfl⟩ := List.mem_map.1 hx
        obtain ⟨r, hr, rfl⟩ := List.mem_map.1 hp
        obtain ⟨hr, ho⟩ := List.mem_filter.1 ((mem_sortRecords _).mem_iff.1 hr)
        exact ⟨r, hr, rfl, by simpa using ho⟩
      · obtain ⟨n, hn, rfl⟩ := List.mem_map.1 hx
        have hn := (mem_numbersWhere _ _).1 hn
        split at hn
        · next r hr => exact ⟨r, hr, by simpa using hn⟩
        · cases hn
    · exact h.listed d x hx

theorem putNote_listsLawful (h : s.listsLawful) {n : Note} (hn : s.lowestFreeNote = some n) (r : NoteRecord) :
    (s.putNote n r).listsLawful := by
  have hfree : s.cfg.notes[n] = none := by
    have := lowestWhere_some hn
    simpa using this
  have hset : ∀ m : Note, ((s.setNote n (some r)).cfg.notes)[m] = if m = n then some r else s.cfg.notes[m] := fun m => by
    simp only [State.setNote, Fin.getElem_fin, set_get]
  have h1 : State.listsLawful (s.setNote n (some r)) := by
    refine listsLawful_of h (fun _ => List.Sublist.refl _) fun c x _ hl => ?_
    cases x with
    | alarm p => exact hl
    | note m =>
      obtain ⟨q, hq, ho⟩ := hl
      refine ⟨q, ?_, ho⟩
      rw [hset, if_neg]
      · exact hq
      · rintro rfl
        rw [hfree] at hq
        cases hq
  have h2 : ((s.setNote n (some r)).appendItem r.area (.note n)).listsLawful := by
    refine listsLawful_appendItem h1 (fun c hc => ?_) fun c ho => ⟨r, by rw [hset, if_pos rfl], ho⟩
    obtain ⟨q, hq, -⟩ := h.listed c (.note n) hc
    rw [hfree] at hq
    cases hq
  exact listsLawful_congr h2 rfl rfl rfl

theorem emptyNote_listsLawful (h : s.listsLawful) (n : Note) : (s.emptyNote n).listsLawful := by
  have hrefs : ∀ c, (s.emptyNote n).itemRefs c = (s.itemRefs c).filter fun y => y != .note n :=
    itemRefs_dropItem ((s.setNote n none).markAll [.note n]) (.note n)
  have hset : ∀ m : Note, ((s.emptyNote n).cfg.notes)[m] = if m = n then none else s.cfg.notes[m] := fun m => by
    rw [show (s.emptyNote n).cfg = (s.setNote n none).cfg from rfl]
    simp only [State.setNote, Fin.getElem_fin, set_get]
  refine listsLawful_of h (fun c => by rw [hrefs]; exact List.filter_sublist) fun c x hx hl => ?_
  cases x with
  | alarm p => exact hl
  | note m =>
    obtain ⟨q, hq, ho⟩ := hl
    refine ⟨q, ?_, ho⟩
    rw [hset, if_neg]
    · exact hq
    · rintro rfl
      rw [hrefs] at hx
      simp at hx

theorem dropAuthor_notes (s : State) (q : Operator) (n : Note) :
    ((s.dropAuthor q).cfg.notes[n]).map NoteRecord.area = (s.cfg.notes[n]).map NoteRecord.area := by
  show ((s.orphaned q)[n]).map NoteRecord.area = _
  simp only [State.orphaned, Fin.getElem_fin, Vector.getElem_ofFn]
  split
  · rw [Option.map_map]; rfl
  · rfl

theorem markSeen_refs (s : State) (c d : Console) (x : ItemRef) : (s.markSeen c x).itemRefs d = s.itemRefs d := by
  rw [itemRefs_desk, itemRefs_desk, deskAt_markSeen]
  split
  · next e =>
    subst e
    simp only [Phase.setSeen, items_withItems]
    split
    · rw [List.map_map]
      exact List.map_congr_left fun it _ => by dsimp only [Function.comp_apply]; split <;> rfl
    · next hp =>
      have hp : s.handovers[d].phase.active = false := by simpa using hp
      rw [show (s.deskAt d).handover.phase.items = [] from items_of_inactive hp]
  · rfl

theorem endSession_listsLawful (h : s.listsLawful) (c : Console) (x : EndCause) : (s.endSession c x).listsLawful := by
  refine listsLawful_desks h (fun d => ?_)
    (sameListing_kept ((sameHomes_keep s).endSession (fun _ => rfl) c x) (by simp) (by simp))
  rw [deskAt_endSession]
  split
  · next e => rw [e.1]; exact .refl _
  · exact .refl _

theorem suspend_listsLawful (h : s.listsLawful) (o : Operator) : (s.suspend o).listsLawful := by
  refine listsLawful_desks h (fun d => ?_)
    (sameListing_kept ((sameHomes_keep s).suspend (fun _ => rfl) o) (by rw [suspend_cfg]; rfl) (by rw [suspend_cfg]; rfl))
  rw [deskAt_suspend]
  have ended : ∀ k : Desk, (s.deskAt d).listed k → (s.deskAt d).listed (k.ended .suspended) := fun _ hk => hk
  have aborted : (s.deskAt d).listed (if d ∈ s.handoversOf o then (s.deskAt d).aborted .suspended else s.deskAt d) := by
    split
    · exact .aborted _ _
    · exact .refl _
  dsimp only
  split
  · exact ended _ aborted
  · exact aborted

theorem signIn_listsLawful (h : s.listsLawful) (c : Console) (o : Operator) : (s.signIn c o).listsLawful := by
  refine listsLawful_desks h (fun d => ?_)
    (sameListing_kept ((sameHomes_keep s).signIn (fun _ => rfl) c o) (by simp) (by simp))
  rw [deskAt_signIn]
  split
  · next e => rw [e]; exact .moved _ o
  · exact .moved _ o

theorem comeIn_listsLawful (h : s.listsLawful) (c : Console) (o : Operator) : (s.comeIn c o).listsLawful := by
  refine listsLawful_desks h (fun d => ?_)
    (sameListing_kept ((sameHomes_keep s).comeIn (fun _ => rfl) c o) (by simp) (by simp))
  rw [deskAt_comeIn]
  split
  · next e =>
    subst e
    unfold Desk.listed
    dsimp only [State.deskAt]
    cases s.handovers[d].phase <;> exact List.Sublist.refl _
  · exact .moved _ o

theorem acceptDesk_listsLawful (h : s.listsLawful) (c : Console) (o i : Operator) :
    (s.acceptDesk c o i).listsLawful :=
  listsLawful_at h c (fun d => deskAt_acceptDesk s c d o i) (List.nil_sublist _) (sameListing_of_cfg (by simp) (by simp))

theorem takeParams_listsLawful (h : s.listsLawful) (w : Parameter) (p : Params) : (s.takeParams w p).listsLawful := by
  refine listsLawful_desks h (fun d => ?_) (sameListing_kept ((sameHomes_keep s).takeParams (fun _ => rfl) w p)
    (by rw [takeParams_cfg]; rfl) (by rw [takeParams_cfg]; rfl))
  rw [deskAt_takeParams]
  split
  · exact .limited _ _ _
  · exact .refl _

theorem setEnabled_listsLawful (h : s.listsLawful) (c : Console) (b : Bool) : (s.setEnabled c b).listsLawful := by
  have hh : ∀ i : Slot, ((s.setEnabled c b).live[i]).map Record.home = (s.live[i]).map Record.home := by
    unfold State.setEnabled
    refine (sameHomes_keep s).storeWrite ((sameHomes_keep s).reroute ?_)
    exact fun _ => rfl
  refine listsLawful_desks h (fun d => ?_) (sameListing_kept hh (by simp [State.setEnabled]) (by simp [State.setEnabled]))
  rw [deskAt_setEnabled]
  split
  · next e => subst e; cases b <;> exact List.Sublist.refl _
  · exact .refl _

theorem secondsEnd_listsLawful (h : s.listsLawful) (c : Console) : (s.secondsEnd c).listsLawful := by
  have hh : ∀ i : Slot, ((s.secondsEnd c).live[i]).map Record.home = (s.live[i]).map Record.home := by
    intro i
    rcases secondsEnd_live s c with e | e
    · rw [e]
    · rw [e]
      unfold State.releaseHeld
      refine (sameListing_mapRecords fun r => ?_).homes i
      split <;> rfl
  exact listsLawful_desks h (fun d => by rw [deskAt_secondsEnd]; exact .refl _) (sameListing_kept hh (by simp) (by simp))

theorem withLevels_sameListing (s : State) (a : Area) (k l r : Level) :
    s.sameListing (s.setArea a fun _ => (s.cfg.areas[a]).withLevels k l r) := by
  refine ⟨fun _ => rfl, fun b => ?_, fun _ => rfl⟩
  simp only [State.setArea, Fin.getElem_fin, upd_get]
  split
  · next e => subst e; rfl
  · rfl

theorem started_listsLawful (s : State) (st : Store) : (s.started st).listsLawful := by
  have hn : ∀ c, (s.started st).itemRefs c = [] := fun c => by rw [itemRefs_desk, started_deskAt]; rfl
  refine ⟨fun c => by rw [hn]; exact List.nodup_nil, fun c x hx => ?_⟩
  rw [hn] at hx
  cases hx

/-- The law of the item lists, with that of the table, is kept by every operation. -/
theorem itemLaw_keep : OpsKeep fun s => s.tableLaw ∧ s.listsLawful := by
  have hT := tableLaw_keep.opsKeep tableLaw_keep_slots
  have hS := itemLaw_slots
  have hK := sameHomes_keep
  refine
    { skel := fun e h => ⟨hT.skel e h.1, (itemLaw_iff _).1 (itemLaw_skel e ((itemLaw_iff _).2 h.2))⟩
      raise := fun p k h => hS.raisePoint h p k
      clear := fun p h => hS.clearPoint h p
      point := fun c o p n h hr => ⟨hT.point c o p n h.1 hr,
        listsLawful_same h.2 (itemRefs_of_handovers rfl) ⟨fun _ => rfl, fun _ => rfl, fun _ => rfl⟩⟩
      lineConfig := fun l n h => ⟨hT.lineConfig l n h.1,
        listsLawful_same h.2 (itemRefs_of_handovers rfl) ⟨fun _ => rfl, fun _ => rfl, fun _ => rfl⟩⟩
      acknowledge := fun o h hr hu => hS.acknowledge h o hr hu
      silence := fun c h => hS.records h (.silenced c)
      removal := fun h hr => hS.removal h hr
      removals := fun c o h => hS.removals _ h (resettable_live _ c o)
      shelve := fun o n h hr hs => hS.slot h hr (.shelve hs o n)
      endShelf := fun h hr _ => hS.endShelf h hr
      remind := fun h hr he => hS.slot h hr (.remind he)
      escalate := fun h hr he => hS.slot h hr (.escalate he)
      levels := fun a k l r h => ⟨hT.levels a k l r h.1,
        listsLawful_same h.2 (itemRefs_of_handovers rfl) (withLevels_sameListing _ a k l r)⟩
      move := fun c o a x y h hr => ⟨hT.move c o a x y h.1 hr, moveArea_listsLawful h.2 (moveRefusal_free hr).1⟩
      roster := fun c o named b g e slot h hb hr hs => ⟨hT.roster c o named b g e slot h.1 hb hr hs,
        listsLawful_same h.2 (itemRefs_of_handovers rfl) ⟨fun _ => rfl, fun _ => rfl, fun _ => rfl⟩⟩
      status := fun o h => ⟨hT.status o h.1,
        listsLawful_same h.2 (itemRefs_of_handovers rfl) ⟨fun _ => rfl, fun _ => rfl, fun _ => rfl⟩⟩
      retire := fun o h hp => ⟨hT.retire o h.1 hp,
        listsLawful_same h.2 (itemRefs_of_handovers rfl) ⟨fun _ => rfl, fun _ => rfl, dropAuthor_notes _ o⟩⟩
      abort := fun c x h => ⟨hT.abort c x h.1, listsLawful_at h.2 c (fun d => deskAt_abortHandover _ c d x) (.aborted _ x)
        (sameListing_of_cfg (by simp) (by simp))⟩
      sessionEnd := fun c x h hp => ⟨hT.sessionEnd c x h.1 hp, endSession_listsLawful h.2 c x⟩
      leave := fun c x h hp => ⟨hT.leave c x h.1 hp, endSession_listsLawful h.2 c x⟩
      graceEnd := fun c x h hp => ⟨hT.graceEnd c x h.1 hp, endSession_listsLawful h.2 c x⟩
      suspend := fun o h => ⟨hT.suspend o h.1, suspend_listsLawful h.2 o⟩
      seconds := fun c h => ⟨hT.seconds c h.1, secondsEnd_listsLawful h.2 c⟩
      failed := fun c n h => ⟨hT.failed c n h.1, listsLawful_at h.2 c (fun d => deskAt_failWindow _ c d n) (.failed _ _ _ _)
        (sameListing_kept ((hK _).failWindow (fun _ => rfl) c n) (by simp) (by simp))⟩
      bringUp := fun c h hl => ⟨hT.bringUp c h.1 hl, listsLawful_at h.2 c (fun d => deskAt_bringUp _ c d) (.refl _)
        (sameListing_kept ((hK _).reroute ((hK _).setConsole (fun _ => rfl) c fun _ => rfl)) (by simp) (by simp))⟩
      success := fun c w h hn => ⟨hT.success c w h.1 hn,
        listsLawful_same h.2 (itemRefs_of_handovers rfl) ⟨fun _ => rfl, fun _ => rfl, fun _ => rfl⟩⟩
      horn := fun c b h => ⟨hT.horn c b h.1, listsLawful_at h.2 c (fun d => deskAt_hornReport _ c d b) (.refl _)
        (sameListing_kept ((hK _).hornReport (fun _ => rfl) c b) (by simp) (by simp))⟩
      signIn := fun c o r h hu hn hr hb => ⟨hT.signIn c o r h.1 hu hn hr hb, signIn_listsLawful h.2 c o⟩
      comeIn := fun c o p n l r h hu hno hp hr hb => ⟨hT.comeIn c o p n l r h.1 hu hno hp hr hb,
        comeIn_listsLawful h.2 c o⟩
      restart := fun c h hl => ⟨hT.restart c h.1 hl, listsLawful_at h.2 c (fun d => deskAt_restartPort _ c d)
        (.aborted _ .restart) (sameListing_kept ((hK _).restartPort (fun _ => rfl) c) (by simp) (by simp))⟩
      enable := fun c b h hne hb => ⟨hT.enable c b h.1 hne hb, setEnabled_listsLawful h.2 c b⟩
      enterNote := fun n o a k x h hf hx => ⟨hT.enterNote n o a k x h.1 hf hx, putNote_listsLawful h.2 hf _⟩
      clearNote := fun n h => ⟨hT.clearNote n h.1, emptyNote_listsLawful h.2 n⟩
      offer := fun c o h ha hi hr => ⟨hT.offer c o h.1 ha hi hr, offer_listsLawful h.1 h.2 c o⟩
      seen := fun c x h => ⟨hT.seen c x h.1, listsLawful_same h.2 (fun d => by rw [markSeen_refs])
        (sameListing_of_cfg (by simp) (by simp))⟩
      accept := fun c o i n l h hp => ⟨hT.accept c o i n l h.1 hp, acceptDesk_listsLawful h.2 c o i⟩
      params := fun w x y p h hw => ⟨hT.params w x y p h.1 hw, takeParams_listsLawful h.2 w p⟩
      storeWrite := fun h => ⟨hT.storeWrite h.1, listsLawful_congr h.2 rfl rfl rfl⟩
      later := fun h => ⟨hT.later h.1, listsLawful_congr h.2 rfl rfl rfl⟩
      unpowered := fun b h => ⟨hT.unpowered b h.1, listsLawful_congr h.2 rfl rfl rfl⟩
      cold := fun b h => ⟨hT.cold b h.1, started_listsLawful _ _⟩ }

end Lists

/-- Settles O16: links, sessions and handovers, each operator's one place, and the item lists. -/
theorem stepsKeepLinksAndHandovers : Obligations.StepsKeepLinksAndHandovers := by
  refine ⟨fun s t hl hh h => ?_, fun s t hl hh hp h => ?_, fun s t ht _ hi h => ?_⟩
  · exact (desksLawful_iff t).1 (step_keeps desksLawful_keep ((desksLawful_iff s).2 ⟨hl, hh⟩) h)
  · exact (step_keeps placeLaw_keep ⟨(desksLawful_iff s).2 ⟨hl, hh⟩, hp⟩ h).2
  · exact (itemLaw_iff t).2 (step_keeps itemLaw_keep ⟨ht, (itemLaw_iff s).1 hi⟩ h).2

end Sys2Proof.Machine
end

section
/-! The state after reset is what a cold start without a good copy leaves of it: so it has every law that a cold start
restores. -/

namespace Sys2Proof.Machine

section Reset

/-- A closed supervised loop, on the default configuration of a line. -/
theorem default_measured : LineConfig.default.measured 825 =
    { band := .closed, candidate := .normal, appeared := 0, qualified := .normal } := by decide

theorem reset_started : State.reset.started (State.reset.store.cutOff false) = State.reset := by
  have hlines : (Vector.ofFn fun l => (Settings.default.lines[l]).measured State.reset.loops[l]) = State.reset.lines := by
    ext i hi
    simp only [Settings.default, State.reset, Fin.getElem_fin, Vector.getElem_ofFn, Vector.getElem_replicate,
      default_measured]
  have hconsoles : Settings.default.enabled.map ConsoleRecord.start = State.reset.consoles := by
    ext i hi
    simp only [Settings.default, State.reset, Vector.getElem_map, Vector.getElem_replicate]
  have hports : State.reset.portRx.map (fun r => Receiver.start r.clock) = State.reset.portRx := by
    ext i hi
    simp only [State.reset, Vector.getElem_map, Vector.getElem_replicate, Receiver.start]
  have hstarted : State.reset.started (State.reset.store.cutOff false) = { State.reset with
      lines := Vector.ofFn fun l => (Settings.default.lines[l]).measured State.reset.loops[l]
      consoles := Settings.default.enabled.map ConsoleRecord.start
      portRx := State.reset.portRx.map fun r => Receiver.start r.clock } := rfl
  rw [hstarted, hlines, hconsoles, hports]

theorem default_params_lawful : Params.default.lawful :=
  ⟨by decide, by decide, by decide, by decide, by decide, by decide, by decide, by decide⟩

theorem default_lawful : Settings.default.lawful := by
  have hr : ∀ o : Operator, Settings.default.roster[o] = none := fun o => by
    simp only [Settings.default, Fin.getElem_fin, Vector.getElem_replicate]
  have hn : ∀ n : Note, Settings.default.notes[n] = none := fun n => by
    simp only [Settings.default, Fin.getElem_fin, Vector.getElem_replicate]
  have hp : ∀ p : Point, Settings.default.points[p] = PointConfig.default := fun p => by
    simp only [Settings.default, Fin.getElem_fin, Vector.getElem_replicate]
  have ha : ∀ a : Area, Settings.default.areas[a] = AreaConfig.default := fun a => by
    simp only [Settings.default, Fin.getElem_fin, Vector.getElem_replicate]
  refine ⟨fun a => .inl ?_, fun a => ?_, fun p _ => ?_, fun p => ?_, fun p q l h => ?_, fun o _ x _ h => ?_, fun o x h => ?_,
    fun o x h => ?_, fun n r h => ?_, default_params_lawful⟩
  · rw [ha]; rfl
  · rw [ha]; decide
  · rw [hp]; rfl
  · rw [hp]; decide
  · rw [hp] at h; cases h
  · rw [hr] at h; cases h
  · rw [hr] at h; cases h
  · rw [hr] at h; cases h
  · rw [hn] at h; cases h

theorem default_storable : Settings.default.storable := by
  refine ⟨fun n r h => ?_, fun g => ?_, by decide⟩
  · have hn : Settings.default.notes[n] = none := by
      simp only [Settings.default, Fin.getElem_fin, Vector.getElem_replicate]
    rw [hn] at h
    cases h
  · have hg : Settings.default.params.blankTime[g] = 30 := by
      simp only [Settings.default, Params.default, Fin.getElem_fin, Vector.getElem_replicate]
    rw [hg]
    decide

end Reset

/-- Settles O20: right after reset the laws hold that a cold start restores, and the defaults are lawful. -/
theorem resetKeepsTheLaws : Obligations.ResetKeepsTheLaws := by
  have table : ∀ {P : State → Prop}, TableKeep P → P State.reset := fun hP => reset_started ▸ hP.cold false
  have desks : State.reset.desksLawful := reset_started ▸ started_desksLawful State.reset _
  have noRecords : State.reset.records = [] := by rw [← reset_started]; exact started_records _ _
  have free : ∀ (c : Console) (o : Operator), ¬State.reset.engaged c o := by
    intro c o he
    rw [← reset_started, engaged_iff, started_deskAt] at he
    rcases he with he | he <;> cases he
  refine ⟨table recordLaw_keep, table tableLaw_keep, reset_started ▸ started_routeLaw _ _, table heldLaw_keep,
    reset_started ▸ started_soundLaw _ _, ((desksLawful_iff _).1 desks).1, ((desksLawful_iff _).1 desks).2, ?_, ?_, ?_, ?_,
    ⟨fun o c _ he => absurd he (free c o), fun o c he => free c o (.inl he.1), fun o c he => absurd he (free c o)⟩,
    (itemLaw_iff _).2 (reset_started ▸ started_listsLawful _ _)⟩
  · exact fun c => by simp [State.reset, ConsoleRecord.start]
  · refine ⟨default_lawful, default_storable, fun w k hk => ?_⟩
    cases w <;> cases hk
  · exact ⟨fun r hr => by rw [noRecords] at hr; exact absurd hr List.not_mem_nil, fun e he => absurd he List.not_mem_nil⟩
  · exact ⟨by decide, by decide⟩

end Sys2Proof.Machine
end

section
/-! The idle tick (log entry 6): which commands wait after it, and in what order. -/

namespace Sys2Proof.Machine

theorem reached_iff (now : Nat) (d : Option Nat) : reached now d = true ↔ ∃ e, d = some e ∧ e ≤ now := by
  cases d with
  | none => simp [reached]
  | some e => simp [reached]

section Deadlines

variable (s : State)

theorem qualification_reached (l : Line) :
    reached s.partTime (qualificationDeadline s.cfg.lines[l] s.lines[l]) = true ↔
      s.lines[l].candidate ≠ s.lines[l].qualified ∧
        s.lines[l].appeared + filterTicks s.cfg.lines[l].filter ≤ s.partTime := by
  have hf : (s.cfg.lines[l]).filter.ticks = filterTicks s.cfg.lines[l].filter := by cases (s.cfg.lines[l]).filter <;> rfl
  unfold qualificationDeadline
  rw [hf]
  split <;> simp_all [reached]

theorem shelf_over (r : Record) : r.shelfOver s.partTime = true ↔
    r.state = .shelved ∧ ∃ e, r.shelfEnd = some e ∧ e ≤ s.partTime := by
  simp only [Record.shelfOver, Bool.and_eq_true, beq_iff_eq, reached_iff]

theorem timesOf_eq (p : Params) (x : Priority) : p.timesOf x = timesAt p x := by cases x <;> rfl

theorem escalates_eq (r : Record) : r.escalates = true ↔ holdsDeadlines r := by
  rw [escalates_iff, unacknowledged_iff]

theorem reminder_reached (p : Params) (now : Nat) (r : Record) :
    reached now (reminderDeadline p r) = true ↔ reminderReached p now r := by
  have he := escalates_eq r
  rw [reached_iff, reminderDeadline, timesOf_eq]
  unfold reminderReached
  rw [← he]
  split
  · next h => simp only [Bool.and_eq_true, bne_iff_ne, beq_iff_eq] at h; simp [h]
  · next h => simp only [Bool.and_eq_true, bne_iff_ne, beq_iff_eq] at h; simp; tauto

theorem escalation_reached (p : Params) (now : Nat) (r : Record) :
    reached now (escalationDeadline p r) = true ↔ escalationReached p now r := by
  have he := escalates_eq r
  rw [reached_iff, escalationDeadline, timesOf_eq]
  unfold escalationReached
  rw [← he]
  split
  · next h => simp only [Bool.and_eq_true, bne_iff_ne] at h; simp [h]
  · next h => simp only [Bool.and_eq_true, bne_iff_ne] at h; simp; tauto

theorem window_over (l : Link) (now : Nat) : l.windowOver now = true ↔
    ∃ w, (l = .up w ∨ l = .lost w) ∧ w.finish ≤ now := by
  unfold Link.windowOver
  cases l <;> simp [Link.window]

theorem grace_reached (x : Session) (now : Nat) : reached now x.graceEnd = true ↔
    ∃ o g, x = .detached o g ∧ g ≤ now := by
  cases x <;> simp [Session.graceEnd, reached]

theorem offer_reached (p : Phase) (now : Nat) : reached now p.offerDeadline = true ↔
    ∃ o d l, p = .offered o d l ∧ d ≤ now := by
  cases p <;> simp [Phase.offerDeadline, reached]

theorem review_reached (p : Phase) (now : Nat) : reached now p.reviewDeadline = true ↔
    ∃ o i d l, p = .review o i d l ∧ d ≤ now := by
  cases p <;> simp [Phase.reviewDeadline, reached]

theorem mem_pointsOf (f : Record → Bool) (p : Point) : p ∈ s.pointsOf f ↔ ∃ r ∈ s.records, r.point = p ∧ f r = true := by
  simp only [State.pointsOf, List.mem_map, List.mem_filter]
  constructor
  · rintro ⟨r, ⟨hr, hf⟩, he⟩
    exact ⟨r, hr, he, hf⟩
  · rintro ⟨r, hr, he, hf⟩
    exact ⟨r, ⟨hr, hf⟩, he⟩

/-- The commands that wait after a tick are those whose deadlines it reached. -/
theorem mem_dueCommands (i : Instr) : i ∈ s.dueCommands ↔ s.due i := by
  have named : ∀ (p : Point) (Q : Record → Prop),
      (∃ r, (r ∈ s.records ∧ Q r) ∧ r.point = p) ↔ ∃ r ∈ s.records, r.point = p ∧ Q r := fun p Q =>
    ⟨fun ⟨r, ⟨h1, h2⟩, h3⟩ => ⟨r, h1, h3, h2⟩, fun ⟨r, h1, h3, h2⟩ => ⟨r, ⟨h1, h2⟩, h3⟩⟩
  unfold State.dueCommands
  simp only [List.mem_append, List.mem_map, mem_numbersWhere, mem_pointsOf]
  cases i with
  | qualificationDeadline l => simp only [State.due, qualification_reached]; simp
  | blankEnd g => simp [State.due, reached_iff]
  | shelfExpiry p => simp only [State.due, shelf_over]; simp [named]
  | reminderDeadline p => simp only [State.due, reminder_reached]; simp [named]
  | escalationDeadline p => simp only [State.due, escalation_reached]; simp [named]
  | secondsEnd c => simp [State.due]
  | windowEnd c => simp only [State.due, window_over]; simp
  | graceEnd c => simp only [State.due, grace_reached]; simp
  | offerDeadline c => simp only [State.due, offer_reached]; simp
  | reviewDeadline c => simp only [State.due, review_reached]; simp
  | _ => simp [State.due]

end Deadlines

/-! ### Each waits once -/

/-- The place of a deadline's kind in the order of the table. -/
def dueKind : Instr → Nat
  | .qualificationDeadline _ => 0
  | .blankEnd _ => 1
  | .shelfExpiry _ => 2
  | .reminderDeadline _ => 3
  | .escalationDeadline _ => 4
  | .secondsEnd _ => 5
  | .windowEnd _ => 6
  | .graceEnd _ => 7
  | .offerDeadline _ => 8
  | _ => 9

/-- A list without repeats, of the first kinds. -/
def KindsBelow (n : Nat) (l : List Instr) : Prop := l.Nodup ∧ ∀ x ∈ l, dueKind x < n

theorem KindsBelow.append {n : Nat} {l : List Instr} {α : Type} (h : KindsBelow n l) {k : List α} {f : α → Instr}
    (hk : k.Nodup) (hf : Function.Injective f) (hn : ∀ x, dueKind (f x) = n) : KindsBelow (n + 1) (l ++ k.map f) := by
  refine ⟨List.nodup_append.2 ⟨h.1, hk.map hf, fun x hx y hy => ?_⟩, fun x hx => ?_⟩
  · obtain ⟨z, -, rfl⟩ := List.mem_map.1 hy
    rintro rfl
    have := h.2 _ hx
    rw [hn] at this
    exact absurd this (lt_irrefl n)
  · rcases List.mem_append.1 hx with hx | hx
    · exact Nat.lt_succ_of_lt (h.2 x hx)
    · obtain ⟨z, -, rfl⟩ := List.mem_map.1 hx
      rw [hn]
      exact Nat.lt_succ_self n

theorem nodup_numbersWhere {n : Nat} (p : Fin n → Bool) : (numbersWhere p).Nodup := (List.nodup_finRange n).filter _

theorem dueCommands_nodup {s : State} (h : (s.records.map Record.point).Nodup) : s.dueCommands.Nodup := by
  have hp : ∀ f, (s.pointsOf f).Nodup := fun f => h.sublist (List.filter_sublist.map _)
  have h0 : KindsBelow 0 [] := ⟨List.nodup_nil, fun x hx => absurd hx List.not_mem_nil⟩
  have h1 := h0.append (nodup_numbersWhere fun l =>
    reached s.partTime (qualificationDeadline s.cfg.lines[l] s.lines[l])) (f := Instr.qualificationDeadline)
    (fun _ _ e => by cases e; rfl) fun _ => rfl
  have h2 := h1.append (nodup_numbersWhere fun g => reached s.partTime s.blankEnds[g]) (f := Instr.blankEnd)
    (fun _ _ e => by cases e; rfl) fun _ => rfl
  have h3 := h2.append (hp (·.shelfOver s.partTime)) (f := Instr.shelfExpiry) (fun _ _ e => by cases e; rfl) fun _ => rfl
  have h4 := h3.append (hp fun r => reached s.partTime (reminderDeadline s.cfg.params r)) (f := Instr.reminderDeadline)
    (fun _ _ e => by cases e; rfl) fun _ => rfl
  have h5 := h4.append (hp fun r => reached s.partTime (escalationDeadline s.cfg.params r))
    (f := Instr.escalationDeadline) (fun _ _ e => by cases e; rfl) fun _ => rfl
  have h6 := h5.append (nodup_numbersWhere fun c => s.partTime % 10 == 0 && s.consoles[c].secondTaken < s.partTime)
    (f := Instr.secondsEnd) (fun _ _ e => by cases e; rfl) fun _ => rfl
  have h7 := h6.append (nodup_numbersWhere fun c => s.consoles[c].link.windowOver s.partTime) (f := Instr.windowEnd)
    (fun _ _ e => by cases e; rfl) fun _ => rfl
  have h8 := h7.append (nodup_numbersWhere fun c => reached s.partTime s.consoles[c].session.graceEnd)
    (f := Instr.graceEnd) (fun _ _ e => by cases e; rfl) fun _ => rfl
  have h9 := h8.append (nodup_numbersWhere fun c => reached s.partTime s.handovers[c].phase.offerDeadline)
    (f := Instr.offerDeadline) (fun _ _ e => by cases e; rfl) fun _ => rfl
  exact (h9.append (nodup_numbersWhere fun c => reached s.partTime s.handovers[c].phase.reviewDeadline)
    (f := Instr.reviewDeadline) (fun _ _ e => by cases e; rfl) fun _ => rfl).1

/-! ### In a free order -/

theorem insertRanked_perm (x : Nat × Instr) (l : List (Nat × Instr)) : (insertRanked x l).Perm (x :: l) := by
  induction l with
  | nil => exact .refl _
  | cons y ys ih =>
    unfold insertRanked
    split
    · exact .refl _
    · exact (ih.cons y).trans (.swap x y ys)

theorem rankFrom_snd (draw k : Nat) (l : List Instr) : (rankFrom draw k l).map Prod.snd = l := by
  induction l generalizing k with
  | nil => rfl
  | cons i is ih => exact congrArg (i :: ·) (ih (k + 1))

theorem foldl_insertRanked_perm (l acc : List (Nat × Instr)) :
    (l.foldl (fun acc x => insertRanked x acc) acc).Perm (acc ++ l) := by
  induction l generalizing acc with
  | nil => simp
  | cons x xs ih =>
    refine (ih (insertRanked x acc)).trans (((insertRanked_perm x acc).append_right xs).trans ?_)
    exact (List.perm_middle (l₁ := acc) (a := x) (l₂ := xs)).symm

theorem freeOrder_perm (draw : Nat) (l : List Instr) : (freeOrder draw l).Perm l := by
  have h := (foldl_insertRanked_perm (rankFrom draw 0 l) []).map Prod.snd
  rw [List.nil_append, rankFrom_snd] at h
  exact h

/-- Settles O2: the three ticks, and for the middle one the list of due commands and that its order permutes it. -/
theorem idleStepTicks : Obligations.IdleStepTicks := by
  intro s hp
  have hstep : step s = .next s.tick := by unfold step; rw [hp]
  rw [hstep]
  refine ⟨fun hw ht => ?_, fun hw ht => ?_, fun hw => ?_⟩
  · have htick : s.tick = s.ticked := by
      unfold State.tick
      rw [if_neg (by simp [hw]), if_neg (by omega)]
    have hperm : s.ticked.pending.Perm (State.dueCommands { s with partTime := s.partTime + 1 }) := freeOrder_perm _ _
    refine ⟨s.ticked, by rw [htick], rfl, hperm, fun i => hperm.mem_iff.trans (mem_dueCommands _ i), fun hn => ?_, ?_⟩
    · exact hperm.nodup_iff.2 (dueCommands_nodup (s := { s with partTime := s.partTime + 1 }) hn)
    · intro p hp
      cases p <;> simp_all [State.same, sameAt, State.ticked]
  · have htick : s.tick = s.timeOver := by
      unfold State.tick
      rw [if_neg (by simp [hw]), if_pos ht]
    refine ⟨_, s.timeOver, by rw [htick], rfl, ?_⟩
    intro p hp
    cases p <;> simp_all [State.same, sameAt, State.timeOver]
  · unfold State.tick
    rw [if_pos (by simp [hw])]

end Sys2Proof.Machine
end

section
/-! Bodies of requests (R193): what the code of each defines, and that its fields read back. -/

namespace Sys2Proof.Machine

theorem decodeBody_plain (code q : Byte) (rest : List Byte) (h : code.toNat < 0x20) :
    decodeBody (code :: q :: rest) = decodePlain code.toNat q rest := by
  simp [decodeBody, h]

theorem decodeBody_acting (code q c s : Byte) (rest : List Byte) (h : 0x20 ≤ code.toNat) (hn : code.toNat ≠ 0x36) :
    decodeBody (code :: q :: c :: s :: rest) = decodeActing code.toNat q ⟨c, s⟩ rest := by
  simp [decodeBody, hn, Nat.not_lt.2 h]

/-- Twelve grants read back from their bytes. -/
theorem rosterWrite_decodes (q : Byte) (w : Acting) (x : Byte) (b : Badge) (g : Vector Byte 12) (e : Half) :
    decodeActing 0x28 q w (x :: (Bytes.ofBadge b ++ g.toList ++ Bytes.ofHalf e)) = some (.rosterWrite q w x b g e) := by
  obtain ⟨⟨l⟩, hl⟩ := g
  match l, hl with
  | [g0, g1, g2, g3, g4, g5, g6, g7, g8, g9, g10, g11], _ =>
    have hb := Bytes.badge_bytes b
    have he := Bytes.half_bytes e
    simp [decodeActing, Bytes.ofBadge, Bytes.ofHalf, hb, he]

/-- Settles O8: each request's code and length lead back to it, and numbers of several bytes are put together again. -/
theorem bodiesDecodeToTheirRequests : Obligations.BodiesDecodeToTheirRequests := by
  intro i body h hlen
  cases i with
  | rosterWrite q w x b g e =>
    cases h
    exact (decodeBody_acting 0x28 q w.console w.slot _ (by decide) (by decide)).trans (rosterWrite_decodes q w x b g e)
  | noteEnter q w a k text =>
    cases h
    have : text.length ≤ 249 := by simp at hlen; omega
    simp [decodeBody, this]
  | setDay q d =>
    cases h
    exact (decodeBody_plain 0x03 q _ (by decide)).trans (congrArg (some <| Instr.setDay q ·) (Bytes.half_bytes d))
  | shelve q w x m =>
    cases h
    exact (decodeBody_acting 0x32 q w.console w.slot _ (by decide) (by decide)).trans
      (congrArg (some <| Instr.shelve q w x ·) (Bytes.half_bytes m))
  | pointWrite q w x u l a p c v m =>
    cases h
    exact (decodeBody_acting 0x20 q w.console w.slot _ (by decide) (by decide)).trans
      (congrArg (some <| Instr.pointWrite q w x u l a p c v ·) (Bytes.half_bytes m))
  | paramWrite q w x m n =>
    cases h
    exact (decodeBody_acting 0x25 q w.console w.slot _ (by decide) (by decide)).trans
      (congrArg₂ (some <| Instr.paramWrite q w x · ·) (Bytes.half_bytes m) (Bytes.half_bytes n))
  | _ => cases h <;> rfl

end Sys2Proof.Machine
end

section
/-! The coded fields of requests (R194), and the requests with a field outside its range (R182). -/

namespace Sys2Proof.Machine

theorem decodeNumber_iff {n : Nat} {b : Byte} {i : Fin n} : decodeNumber n b = some i ↔ b.toNat = i.val := by
  unfold decodeNumber
  split
  · rw [Option.some.injEq, Fin.ext_iff]
  · next h => simp; have := i.isLt; omega

theorem decodeNumber_none {n : Nat} {b : Byte} : decodeNumber n b = none ↔ n ≤ b.toNat := by
  unfold decodeNumber
  split
  · simp; omega
  · simp; omega

theorem byte_eq_iff (b : Byte) (n : Nat) (h : n < 256) : b = BitVec.ofNat 8 n ↔ b.toNat = n := by
  rw [← BitVec.toNat_inj, BitVec.toNat_ofNat, Nat.mod_eq_of_lt h]

/-- A number below n, or 255 for none. -/
theorem decodeOrNone_iff {n : Nat} (hn : n ≤ 255) {b : Byte} {x : Option (Fin n)} :
    (if b = 0xFF#8 then some none else (decodeNumber n b).map some) = some x ↔
      b.toNat = (match x with
        | some c => c.val
        | none => 255) := by
  have hb := byte_eq_iff b 255 (by decide)
  split
  · next h =>
    have h := hb.1 h
    cases x with
    | none => simpa using h
    | some c => have := c.isLt; simp; omega
  · next h =>
    have h : b.toNat ≠ 255 := fun e => h (hb.2 e)
    cases x with
    | none => simpa using h
    | some c => simp [decodeNumber_iff]

theorem decodeOperator_iff {b : Byte} {o : Operator} : decodeOperator b = some o ↔ b.toNat = o.val + 1 := by
  unfold decodeOperator
  split
  · next h => rw [Option.some.injEq, Fin.ext_iff]; dsimp only; omega
  · next h => simp; have := o.isLt; omega

theorem decodeOperator_none {b : Byte} : decodeOperator b = none ↔ ¬(1 ≤ b.toNat ∧ b.toNat ≤ 48) := by
  unfold decodeOperator
  split <;> simp_all

theorem decodeOperatorOrNone_iff {b : Byte} {x : Option Operator} :
    decodeOperatorOrNone b = some x ↔ b.toNat = operatorCode x := by
  have hb := byte_eq_iff b 0 (by decide)
  unfold decodeOperatorOrNone
  split
  · next h =>
    have h := hb.1 h
    cases x <;> simp [operatorCode, h]
  · next h =>
    have h : b.toNat ≠ 0 := fun e => h (hb.2 e)
    cases x with
    | none => simpa [operatorCode] using h
    | some o => simp [operatorCode, decodeOperator_iff]

theorem decodePerson_iff {w : Acting} {c : Console} {o : Operator} : decodePerson w = some (c, o) ↔
    w.console.toNat = c.val ∧ w.slot.toNat = o.val + 1 := by
  rw [← decodeNumber_iff, ← decodeOperator_iff]
  unfold decodePerson
  cases decodeNumber 8 w.console <;> cases decodeOperator w.slot <;> simp

theorem decodeEngineer_iff {w : Acting} {c : Console} {o : Option Operator} : decodeEngineer w = some (c, o) ↔
    w.console.toNat = c.val ∧ w.slot.toNat = operatorCode o := by
  rw [← decodeNumber_iff, ← decodeOperatorOrNone_iff]
  unfold decodeEngineer
  cases decodeNumber 8 w.console <;> cases decodeOperatorOrNone w.slot <;> simp

theorem decodeFlag_iff {b : Byte} {x : Bool} : decodeFlag b = some x ↔ b.toNat = flagCode x := by
  unfold decodeFlag
  split <;> cases x <;> simp_all [flagCode]

theorem decodeNoteKind_iff {b : Byte} {x : NoteKind} : decodeNoteKind b = some x ↔ b.toNat = noteKindCode x := by
  unfold decodeNoteKind
  split <;> cases x <;> simp_all [noteKindCode]

theorem decodeSense_iff {b : Byte} {x : Sense} : decodeSense b = some x ↔ b.toNat = senseCode x := by
  unfold decodeSense
  split <;> cases x <;> simp_all [senseCode]

theorem decodeFilter_iff {b : Byte} {x : FilterTime} : decodeFilter b = some x ↔ b.toNat = filterCode x := by
  unfold decodeFilter
  split <;> cases x <;> simp_all [filterCode]

theorem decodePriority_iff {b : Byte} {x : Priority} : decodePriority b = some x ↔ b.toNat = priorityCode x := by
  unfold decodePriority
  split <;> cases x <;> simp_all [priorityCode]

theorem decodeClass_iff {b : Byte} {x : AlarmClass} : decodeClass b = some x ↔ b.toNat = classCode x := by
  unfold decodeClass
  split <;> cases x <;> simp_all [classCode]

theorem decodeItem_iff {b n : Byte} {x : ItemRef} :
    decodeItem b n = some x ↔ b.toNat = itemKindCode x ∧ n.toNat = itemNumber x := by
  unfold decodeItem
  split
  · next h => cases x <;> simp [h, itemKindCode, itemNumber, decodeNumber_iff]
  · next h => cases x <;> simp [h, itemKindCode, itemNumber, decodeNumber_iff]
  · next h0 h1 =>
    cases x with
    | alarm p => simp only [itemKindCode, reduceCtorEq, false_iff]; exact fun h => h0 h.1
    | note m => simp only [itemKindCode, reduceCtorEq, false_iff]; exact fun h => h1 h.1

theorem decodeUse_iff {b l : Byte} {x : PointUse} :
    decodeUse b l = some x ↔ b.toNat = useCode x ∧ ∀ k, x = .line k → l.toNat = k.val := by
  unfold decodeUse
  split
  · next h => cases x <;> simp [h, useCode]
  · next h => cases x <;> simp [h, useCode, decodeNumber_iff]
  · next h => cases x <;> simp [h, useCode]
  · next h0 h1 h2 => cases x <;> simp_all [useCode]

theorem decodeGrants_iff {g : Vector Byte 12} {x : Vector Level 12} :
    decodeGrants g = some x ↔ ∀ a : Area, g[a].toNat = x[a].val := by
  unfold decodeGrants
  split
  · next h =>
    have hle : ∀ a : Area, g[a].toNat ≤ 4 := fun a => by
      have := List.all_eq_true.1 h g[a] (by simp)
      simpa using this
    rw [Option.some.injEq]
    constructor
    · rintro rfl a
      have := hle a
      simp only [Fin.getElem_fin, Vector.getElem_ofFn] at this ⊢
      omega
    · intro e
      ext i hi
      have := e ⟨i, hi⟩
      have hl := (x[i]).isLt
      simp only [Fin.getElem_fin, Vector.getElem_ofFn] at this ⊢
      omega
  · next h =>
    simp only [reduceCtorEq, false_iff, not_forall]
    by_contra hc
    refine h (List.all_eq_true.2 fun y hy => ?_)
    obtain ⟨i, hi, rfl⟩ := List.getElem_of_mem hy
    have hi' : i < 12 := by simpa using hi
    have e : g[i].toNat = x[i].val := by
      by_contra he
      exact hc ⟨⟨i, hi'⟩, he⟩
    have hl := (x[i]).isLt
    simp only [Vector.getElem_toList, decide_eq_true_eq]
    omega

theorem decodeParameter_iff {b : Byte} {x : Parameter} : decodeParameter b = some x ↔ b.toNat = parameterCode x := by
  have hi : ∀ i : Fin 4, i = 0 ∨ i = 1 ∨ i = 2 ∨ i = 3 := by decide
  unfold decodeParameter
  cases x with
  | escalation i => rcases hi i with rfl | rfl | rfl | rfl <;> split <;> simp_all [parameterCode]
  | blankTime i => rcases hi i with rfl | rfl | rfl | rfl <;> split <;> simp_all [parameterCode]
  | _ => split <;> simp_all [parameterCode]

theorem decodeLineConfig_iff {x1 x2 x3 x4 : Byte} {x : LineConfig} : decodeLineConfig x1 x2 x3 x4 = some x ↔
    x1.toNat = senseCode x.sense ∧ x2.toNat = flagCode x.supervised ∧ x3.toNat = filterCode x.filter ∧
      x4.toNat = groupCode x.group := by
  have hg : ∀ g, decodeGroupOrNone x4 = some g ↔ x4.toNat = groupCode g := fun g =>
    (decodeOrNone_iff (by decide)).trans (by cases g <;> rfl)
  simp only [← decodeSense_iff, ← decodeFlag_iff, ← decodeFilter_iff, ← hg]
  unfold decodeLineConfig
  obtain ⟨y1, y2, y3, y4⟩ := x
  cases decodeSense x1 <;> cases decodeFlag x2 <;> cases decodeFilter x3 <;> cases decodeGroupOrNone x4 <;>
    simp

theorem decodePointConfig_iff {x1 x2 x3 x4 x5 x6 : Byte} {m : Half} {x : PointConfig} :
    decodePointConfig x1 x2 x3 x4 x5 x6 m = some x ↔
      x1.toNat = useCode x.use ∧ (∀ l, x.use = .line l → x2.toNat = l.val) ∧ x3.toNat = x.area.val ∧
        x4.toNat = priorityCode x.priority ∧ x5.toNat = classCode x.cls ∧ x6.toNat = flagCode x.shelvable ∧
        m.toNat = x.maxShelf := by
  rw [← and_assoc, ← decodeUse_iff]
  simp only [← decodeNumber_iff, ← decodePriority_iff, ← decodeClass_iff, ← decodeFlag_iff]
  unfold decodePointConfig
  obtain ⟨y1, y2, y3, y4, y5, y6⟩ := x
  cases decodeUse x1 x2 <;> cases decodeNumber 12 x3 <;> cases decodePriority x4 <;> cases decodeClass x5 <;>
    cases decodeFlag x6 <;> simp

theorem fields_decode : fieldsDecode :=
  ⟨fun _ _ _ => decodeNumber_iff, fun _ x => (decodeOrNone_iff (by decide)).trans (by cases x <;> rfl),
    fun _ _ => decodeOperator_iff, fun _ _ => decodeOperatorOrNone_iff, fun _ _ _ => decodePerson_iff,
    fun _ _ _ => decodeEngineer_iff, fun _ _ => decodeFlag_iff, fun _ _ => decodeNumber_iff,
    fun _ _ => decodeNoteKind_iff, fun _ _ _ => decodeItem_iff, fun _ _ => decodeGrants_iff, fun _ => rfl,
    fun _ _ => decodeParameter_iff, fun _ _ _ _ _ => decodeLineConfig_iff, fun _ _ _ _ _ _ _ _ => decodePointConfig_iff⟩

/-! ### The ranges of the fields that decode -/

section Ranges

variable {b n : Byte} {w : Acting}

theorem number_range {k : Nat} {x : Fin k} (h : decodeNumber k b = some x) : b.toNat < k := by
  have := decodeNumber_iff.1 h
  omega

theorem operator_range {o : Operator} (h : decodeOperator b = some o) : 1 ≤ b.toNat ∧ b.toNat ≤ 48 := by
  have := decodeOperator_iff.1 h
  omega

theorem operatorOrNone_range {x : Option Operator} (h : decodeOperatorOrNone b = some x) : b.toNat ≤ 48 := by
  have := decodeOperatorOrNone_iff.1 h
  cases x with
  | none => simp [operatorCode] at this; omega
  | some o => simp [operatorCode] at this; omega

theorem orNone_range {k : Nat} (hk : k ≤ 255) {x : Option (Fin k)}
    (h : (if b = 0xFF#8 then some none else (decodeNumber k b).map some) = some x) : b.toNat < k ∨ b.toNat = 255 := by
  have := (decodeOrNone_iff hk).1 h
  cases x with
  | none => exact .inr this
  | some c => dsimp only at this; omega

theorem person_range {x : Console × Operator} (h : decodePerson w = some x) : w.person = true := by
  obtain ⟨hc, ho⟩ := decodePerson_iff.1 h
  simp [Acting.person, hc, ho]

theorem engineer_range {x : Console × Option Operator} (h : decodeEngineer w = some x) : w.engineering = true := by
  obtain ⟨hc, ho⟩ := decodeEngineer_iff.1 h
  have : w.slot.toNat ≤ 48 := operatorOrNone_range (decodeOperatorOrNone_iff.2 ho)
  simp [Acting.engineering, hc, this]

theorem flag_range {x : Bool} (h : decodeFlag b = some x) : b.toNat ≤ 1 := by
  have := decodeFlag_iff.1 h
  cases x <;> simp [flagCode] at this <;> omega

theorem noteKind_range {x : NoteKind} (h : decodeNoteKind b = some x) : b.toNat ≤ 1 := by
  have := decodeNoteKind_iff.1 h
  cases x <;> simp [noteKindCode] at this <;> omega

theorem item_range {x : ItemRef} (h : decodeItem b n = some x) : b.toNat ≤ 1 ∧ (b.toNat = 0 ∨ n.toNat < 32) := by
  have := decodeItem_iff.1 h
  cases x <;> simp [itemKindCode, itemNumber] at this <;> omega

theorem parameter_range {x : Parameter} (h : decodeParameter b = some x) : b.toNat ≤ 14 := by
  have := decodeParameter_iff.1 h
  cases x <;> simp [parameterCode] at this <;> omega

theorem grants_range {g : Vector Byte 12} {x : Vector Level 12} (h : decodeGrants g = some x) :
    g.toList.all (·.toNat ≤ 4) = true := by
  unfold decodeGrants at h
  split at h
  · next hg => exact hg
  · cases h

end Ranges

/-! ### Requests with a field outside its range -/

/-- A request none of whose fields may decode is answered BAD_REQUEST. -/
theorem rejected {i : Instr} {code seq : Byte} {act : Option (State → Verdict)} {s : State}
    (h : exec i s = request code seq act s) (hw : i.wf = false) (hf : ∀ f, act = some f → i.wf = true) :
    exec i s = request code seq none s := by
  cases act with
  | none => exact h
  | some f => exact absurd (hf f rfl) (by simp [hw])

theorem rejected_named {i : Instr} {code seq : Byte} {w : Acting} {p : Byte} {s : State}
    {d : Console → Operator → Point → State → Verdict} (h : exec i s = onNamedPoint code seq w p d s)
    (hw : i.wf = false) (he : i.wf = w.person) : exec i s = request code seq none s := by
  refine rejected h hw fun f hf => ?_
  simp only [bind, Option.bind_eq_some_iff] at hf
  obtain ⟨x, hx, -⟩ := hf
  rw [he]
  exact person_range hx

theorem rejected_person {i : Instr} {code seq : Byte} {w : Acting} {s : State} {d : Console → Operator → State → Verdict}
    (h : exec i s = onPerson code seq w d s) (hw : i.wf = false) (he : i.wf = w.person) :
    exec i s = request code seq none s := by
  refine rejected h hw fun f hf => ?_
  obtain ⟨x, hx, -⟩ := Option.map_eq_some_iff.1 hf
  rw [he]
  exact person_range hx

theorem rejected_slot {i : Instr} {code seq : Byte} {w : Acting} {x : Byte} {s : State}
    {d : Console → Option Operator → Operator → State → Verdict} (h : exec i s = onRosterSlot code seq w x d s)
    (hw : i.wf = false) (he : w.engineering = true → 1 ≤ x.toNat ∧ x.toNat ≤ 48 → i.wf = true) :
    exec i s = request code seq none s := by
  refine rejected h hw fun f hf => ?_
  simp only [bind, Option.bind_eq_some_iff] at hf
  obtain ⟨y, hy, n, hn, -⟩ := hf
  exact he (engineer_range hy) (operator_range hn)

theorem rejected_read {α : Type} {i : Instr} {code seq : Byte} {field : Option α} {data : State → α → List Byte}
    {s : State} (h : exec i s = readOf code seq field data s) (hw : i.wf = false)
    (hf : ∀ x, field = some x → i.wf = true) : exec i s = request code seq none s := by
  refine rejected h hw fun f hx => ?_
  obtain ⟨x, hx, -⟩ := Option.map_eq_some_iff.1 hx
  exact hf x hx

/-- Every request with a field outside its range is taken as one that carries no request. -/
theorem notWf_rejected {i : Instr} {code seq : Byte} {rest : List Byte} (s : State)
    (he : encodeBody i = some (code :: seq :: rest)) (hw : i.wf = false) : exec i s = request code seq none s := by
  cases i with
  | ack q w p => cases he; exact rejected_named (p := p) (d := fun c o p v => v.ackNamed c o p) rfl hw rfl
  | resetHeld q w p => cases he; exact rejected_named (p := p) (d := fun c o p v => v.resetNamed c o p) rfl hw rfl
  | shelve q w p m => cases he; exact rejected_named (p := p) (d := fun c o p v => v.shelveNamed c o p m.toNat) rfl hw rfl
  | unshelve q w p => cases he; exact rejected_named (p := p) (d := fun c o p v => v.unshelveNamed c o p) rfl hw rfl
  | signOut q w => cases he; exact rejected_person (d := fun c o v => v.signOut c o) rfl hw rfl
  | handoverOffer q w => cases he; exact rejected_person (d := fun c o v => v.offerNamed c o) rfl hw rfl
  | handoverAccept q w => cases he; exact rejected_person (d := fun c o v => v.acceptNamed c o) rfl hw rfl
  | handoverWithdraw q w => cases he; exact rejected_person (d := fun c o v => v.withdraw c o) rfl hw rfl
  | rosterSuspend q w x =>
    cases he
    exact rejected_slot (x := x) (d := fun c o n v => v.suspendSlot c o n) rfl hw fun h1 h2 => by simp [Instr.wf, h1, h2]
  | rosterRestore q w x =>
    cases he
    exact rejected_slot (x := x) (d := fun c o n v => v.restoreSlot c o n) rfl hw fun h1 h2 => by simp [Instr.wf, h1, h2]
  | rosterRetire q w x =>
    cases he
    exact rejected_slot (x := x) (d := fun c o n v => v.retireSlot c o n) rfl hw fun h1 h2 => by simp [Instr.wf, h1, h2]
  | readLine q x =>
    cases he
    exact rejected_read (field := decodeNumber 32 x) (data := State.lineData) rfl hw fun _ h => by simp [Instr.wf, number_range h]
  | readArea q x =>
    cases he
    exact rejected_read (field := decodeNumber 12 x) (data := State.areaData) rfl hw fun _ h => by simp [Instr.wf, number_range h]
  | readRecord q x =>
    cases he
    exact rejected_read (field := decodeNumber 64 x) (data := fun s i => recordBlock i s.live[i]) rfl hw fun _ h => by simp [Instr.wf, number_range h]
  | readOperator q x =>
    cases he
    exact rejected_read (field := decodeOperator x) (data := State.operatorData) rfl hw fun _ h => by simp [Instr.wf, operator_range h]
  | readConsole q x =>
    cases he
    exact rejected_read (field := decodeNumber 8 x) (data := State.consoleData) rfl hw fun _ h => by simp [Instr.wf, number_range h]
  | readNote q x =>
    cases he
    exact rejected_read (field := decodeNumber 32 x) (data := State.noteData) rfl hw fun _ h => by simp [Instr.wf, number_range h]
  | readParam q x =>
    cases he
    exact rejected_read (field := decodeParameter x) (data := fun s p => s.cfg.params.data p) rfl hw fun _ h => by simp [Instr.wf, parameter_range h]
  | readHandover q c g =>
    cases he
    refine rejected_read rfl hw fun x h => ?_
    split at h
    · next hc hg => have := number_range hg; simp [Instr.wf, number_range hc]; omega
    · cases h
  | pointWrite q w p u l a pr c v m =>
    cases he
    refine rejected rfl hw fun f hf => ?_
    simp only [bind, Option.bind_eq_some_iff] at hf
    obtain ⟨x, hx, y, -, z, hz, -⟩ := hf
    obtain ⟨hu, hl, ha, hp, hc, hv, -⟩ := decodePointConfig_iff.1 hz
    have hu' : u.toNat ≤ 2 ∧ (u.toNat ≠ 1 ∨ l.toNat < 32) := by
      cases hz : z.use with
      | unused => simp [hu, hz, useCode]
      | link => simp [hu, hz, useCode]
      | line k => have := hl k hz; simp [hu, hz, useCode]; omega
    have hp' : 1 ≤ pr.toNat ∧ pr.toNat ≤ 4 := by rw [hp]; cases z.priority <;> decide
    have hc' : c.toNat ≤ 2 := by rw [hc]; cases z.cls <;> decide
    have hv' : v.toNat ≤ 1 := by rw [hv]; cases z.shelvable <;> decide
    simp [Instr.wf, engineer_range hx, hu', ha, hp', hc', hv']
  | lineWrite q w l a b c d =>
    cases he
    refine rejected rfl hw fun f hf => ?_
    simp only [bind, Option.bind_eq_some_iff] at hf
    obtain ⟨x, hx, y, hy, z, hz, -⟩ := hf
    obtain ⟨ha, hb, hc, hd⟩ := decodeLineConfig_iff.1 hz
    have ha' : a.toNat ≤ 1 := by rw [ha]; cases z.sense <;> decide
    have hb' : b.toNat ≤ 1 := by rw [hb]; cases z.supervised <;> decide
    have hc' : c.toNat ≤ 3 := by rw [hc]; cases z.filter <;> decide
    have hd' : d.toNat < 4 ∨ d.toNat = 255 := by
      rw [hd]
      cases z.group with
      | none => exact .inr rfl
      | some g => exact .inl g.isLt
    simp [Instr.wf, engineer_range hx, number_range hy, ha', hb', hc', hd']
  | blankGroup q w g =>
    cases he
    refine rejected rfl hw fun f hf => ?_
    simp only [bind, Option.bind_eq_some_iff] at hf
    obtain ⟨x, hx, y, hy, -⟩ := hf
    simp [Instr.wf, engineer_range hx, number_range hy]
  | areaWrite q w a k h r =>
    cases he
    refine rejected rfl hw fun f hf => ?_
    simp only [bind, Option.bind_eq_some_iff] at hf
    obtain ⟨x, hx, y, hy, k1, h1, k2, h2, k3, h3, -⟩ := hf
    simp [Instr.wf, engineer_range hx, number_range hy, Nat.lt_succ_iff.1 (number_range h1),
      Nat.lt_succ_iff.1 (number_range h2), Nat.lt_succ_iff.1 (number_range h3)]
  | moveArea q w a x y =>
    cases he
    refine rejected rfl hw fun f hf => ?_
    simp only [bind, Option.bind_eq_some_iff] at hf
    obtain ⟨v, hv, y, hy, k1, h1, k2, h2, -⟩ := hf
    simp [Instr.wf, engineer_range hv, number_range hy, orNone_range (by decide) h1, orNone_range (by decide) h2]
  | rosterWrite q w n b g e =>
    cases he
    refine rejected rfl hw fun f hf => ?_
    simp only [bind, Option.bind_eq_some_iff] at hf
    obtain ⟨v, hv, y, hy, k1, h1, k2, h2, -⟩ := hf
    have hb : b.toNat ≠ 0 := by
      unfold decodeBadge at h1
      split at h1
      · cases h1
      · next hb => exact fun e => hb (BitVec.eq_of_toNat_eq e)
    have hg := grants_range h2
    unfold Instr.wf
    simp only [engineer_range hv, operatorOrNone_range hy, hg, decide_true, Bool.and_true, Bool.true_and, bne_iff_ne]
    exact hb
  | forceSignOut q w x =>
    cases he
    refine rejected rfl hw fun f hf => ?_
    simp only [bind, Option.bind_eq_some_iff] at hf
    obtain ⟨v, hv, y, hy, -⟩ := hf
    simp [Instr.wf, person_range hv, number_range hy]
  | portRestart q w x =>
    cases he
    refine rejected rfl hw fun f hf => ?_
    simp only [bind, Option.bind_eq_some_iff] at hf
    obtain ⟨v, hv, y, hy, -⟩ := hf
    simp [Instr.wf, engineer_range hv, number_range hy]
  | portEnable q w x z =>
    cases he
    refine rejected rfl hw fun f hf => ?_
    simp only [bind, Option.bind_eq_some_iff] at hf
    obtain ⟨v, hv, y, hy, k, hk, -⟩ := hf
    simp [Instr.wf, engineer_range hv, number_range hy, flag_range hk]
  | noteEnter q w a k x =>
    cases he
    refine rejected rfl hw fun f hf => ?_
    simp only [bind, Option.bind_eq_some_iff] at hf
    obtain ⟨v, hv, y, hy, k, hk, z, hz, -⟩ := hf
    have hl : x.length ≤ 249 := by
      unfold decodeText at hz
      split at hz
      · next h => exact h
      · cases hz
    simp [Instr.wf, engineer_range hv, number_range hy, noteKind_range hk, hl]
  | noteClear q w n =>
    cases he
    refine rejected rfl hw fun f hf => ?_
    simp only [bind, Option.bind_eq_some_iff] at hf
    obtain ⟨v, hv, y, hy, -⟩ := hf
    simp [Instr.wf, engineer_range hv, number_range hy]
  | handoverSeen q w k n =>
    cases he
    refine rejected rfl hw fun f hf => ?_
    simp only [bind, Option.bind_eq_some_iff] at hf
    obtain ⟨v, hv, y, hy, -⟩ := hf
    simp [Instr.wf, person_range hv, item_range hy]
  | paramWrite q w x m n =>
    cases he
    refine rejected rfl hw fun f hf => ?_
    simp only [bind, Option.bind_eq_some_iff] at hf
    obtain ⟨v, hv, y, hy, -⟩ := hf
    simp [Instr.wf, engineer_range hv, parameter_range hy]
  | raise | clear | readPoint | setDay | readChanges | readStatus => cases hw
  | _ => cases he

/-- Settles O9: the fields' codes, and that a field outside them leaves no request to decide. -/
theorem badRequestsAreRefused : Obligations.BadRequestsAreRefused := by
  refine ⟨fields_decode, fun i code seq rest s he hw hl => ?_, fun body s hb hl => ?_⟩
  · refine ⟨_, (notWf_rejected s he hw).trans (request_answered hl rfl), onlyAnswered_of s code seq _⟩
  · have h : exec (.undefinedRequest body) s = request (echoed body).1 (echoed body).2 none s := by
      show execUndefinedRequest body s = _
      unfold execUndefinedRequest
      rw [hb]
    have he : echoed body = (body.headD 0, body.tail.headD 0) := by
      cases body with
      | nil => rfl
      | cons x xs => cases xs <;> rfl
    rw [he] at h
    exact ⟨_, h.trans (request_answered hl rfl), onlyAnswered_of s _ _ _⟩

end Sys2Proof.Machine
end

section
/-! The frame receivers (R180, R181) and the check of a frame. -/

namespace Sys2Proof.Machine

/-! ### The check of R180 -/

section Check

/-- One bit of the cyclic code on a register to which the byte's remaining bits have been added. -/
theorem crcShift_xor (r c : Half) : Frame.crcShift (r ^^^ c) = checkBit r c.msb ^^^ (c <<< 1) := by
  unfold Frame.crcShift checkBit
  rw [BitVec.msb_xor, BitVec.shiftLeft_xor_distrib]
  cases r.msb <;> cases c.msb <;> simp <;> ac_rfl

theorem shifted_msb (b : Byte) (k : Nat) (h : k < 8) : (b.setWidth 16 <<< (8 + k)).msb = b.getLsbD (7 - k) := by
  simp only [BitVec.msb_eq_getLsbD_last, BitVec.getLsbD_shiftLeft, BitVec.getLsbD_setWidth]
  have h1 : 16 - 1 - (8 + k) = 7 - k := by omega
  have h2 : ¬(16 - 1 < 8 + k) := by omega
  have h3 : 7 - k < 16 := by omega
  simp [h1, h2, h3]

/-- The register after the first bits of a byte, by both codes. -/
theorem crcShift_step (r : Half) (b : Byte) (k : Nat) (h : k < 8) :
    Frame.crcShift (r ^^^ (b.setWidth 16 <<< (8 + k))) =
      checkBit r (b.getLsbD (7 - k)) ^^^ (b.setWidth 16 <<< (8 + (k + 1))) := by
  rw [crcShift_xor, shifted_msb b k h, ← BitVec.shiftLeft_add, Nat.add_assoc]

theorem crcByte_eq (r : Half) (b : Byte) : Frame.crcByte r b = checkByte r b := by
  have hz : b.setWidth 16 <<< 16 = (0#16 : Half) := BitVec.shiftLeft_eq_zero (by decide)
  have h0 := crcShift_step r b 0 (by decide)
  have hs := fun x k hk => crcShift_step x b k hk
  unfold Frame.crcByte checkByte
  dsimp only [List.foldl]
  rw [show b.setWidth 16 <<< 8 = b.setWidth 16 <<< (8 + 0) from rfl, h0, hs _ 1 (by decide), hs _ 2 (by decide),
    hs _ 3 (by decide), hs _ 4 (by decide), hs _ 5 (by decide), hs _ 6 (by decide), hs _ 7 (by decide)]
  rw [show 8 + (7 + 1) = 16 from rfl, hz, BitVec.xor_zero]

theorem check_eq (l : List Byte) : Frame.check l = frameCheck l := by
  unfold Frame.check frameCheck
  congr 1
  funext r b
  exact crcByte_eq r b

theorem ofHalf_eq (h : Half) : Bytes.ofHalf h = [BitVec.ofNat 8 (h.toNat / 256), BitVec.ofNat 8 h.toNat] := by
  unfold Bytes.ofHalf
  refine congrArg₂ (fun x y => [x, y]) ?_ ?_ <;> apply BitVec.eq_of_toNat_eq <;>
    simp [BitVec.extractLsb'_toNat, Nat.shiftRight_eq_div_pow]

theorem good_iff (bytes : List Byte) : Frame.good bytes = true ↔ goodFrame bytes := by
  unfold goodFrame
  cases bytes with
  | nil => simp [Frame.good]
  | cons len rest =>
    simp only [Frame.good, Bool.and_eq_true, beq_iff_eq, check_eq, ofHalf_eq]
    constructor
    · rintro ⟨hl, hd⟩
      refine ⟨len, rest.take len.toNat, by rw [List.length_take]; omega, ?_⟩
      rw [← hd, List.cons_append, List.take_append_drop]
    · rintro ⟨l, body, hb, he⟩
      obtain ⟨rfl, rfl⟩ := List.cons.inj he
      simp [← hb]

end Check

/-! ### The receivers -/

section Receivers

variable (s : State) (rx : Rx)

theorem receiver_setReceiver (f : Receiver → Receiver) (q : Rx) :
    (s.setReceiver rx f).receiver q = if q = rx then f (s.receiver rx) else s.receiver q := by
  cases rx with
  | plant => cases q <;> simp [State.setReceiver, State.receiver]
  | port c =>
    cases q with
    | plant => simp [State.setReceiver, State.receiver]
    | port d =>
      simp only [State.setReceiver, State.receiver, Fin.getElem_fin, upd_get, Rx.port.injEq]

/-- A step that moves one receiver. -/
theorem moves_receiver {i : Instr} {s : State} {rx : Rx} {f : Receiver → Receiver} {x : Receiver}
    (h : exec i s = .next (s.setReceiver rx f)) (hx : f (s.receiver rx) = x) : ∃ t, exec i s = .next t ∧
      t.receiver rx = x ∧ (∀ q, q ≠ rx → t.receiver q = s.receiver q) ∧
      changesOnly s t [.plantReceiver, .portReceivers] :=
  ⟨_, h, by rw [receiver_setReceiver, if_pos rfl, hx], fun q hq => by rw [receiver_setReceiver, if_neg hq],
    changesOnly_setReceiver s rx f⟩

/-- A step that is a busy discard. -/
theorem busy_discards {i : Instr} {s : State} (h : exec i s = .next s.busyFrame) : ∃ t, exec i s = .next t ∧
    t.plantRx = { s.plantRx with mode := .ignoring } ∧
    t.busy = (if s.plantRx.mode = .ignoring then s.busy else min 65535 (s.busy + 1)) ∧
    changesOnly s t [.plantReceiver, .busyCount] := by
  refine ⟨_, h, ?_, ?_, changesOnly_busyFrame s⟩
  · unfold State.busyFrame
    split
    · next e => rw [← e]
    · rfl
  · unfold State.busyFrame
    split <;> rfl

/-- A request while another is in hand. -/
theorem request_busy {code seq : Byte} {act : Option (State → Verdict)} {s : State} (hp : s.powered = true)
    (hi : s.inHand.isSome = true) : request code seq act s = .next s.busyFrame := by
  have hr : s.linkReady = false := by
    unfold State.linkReady
    cases h : s.inHand with
    | none => rw [h] at hi; cases hi
    | some a => simp
  unfold request
  rw [if_neg (by simp [hr]), if_pos (by simp [hp, hi])]

/-- Every request while another is in hand is one busy discard. -/
theorem request_in_hand {i : Instr} {s : State} (hp : s.powered = true) (hi : s.inHand.isSome = true)
    (he : (encodeBody i).isSome = true) : exec i s = .next s.busyFrame := by
  have hr : s.linkReady = false := by
    unfold State.linkReady
    cases h : s.inHand with
    | none => rw [h] at hi; cases hi
    | some a => simp
  have hne : encodeBody i ≠ none := Option.isSome_iff_ne_none.1 he
  have hcold : ∀ m, i ≠ .coldStart m := by rintro m rfl; exact hne rfl
  have hloss : ∀ m, i ≠ .powerLoss m := by rintro m rfl; exact hne rfl
  cases exec_shape follows_ops i s hcold hloss with
  | request code seq act h fair => exact h.trans (request_busy hp hi)
  | panel _ _ _ _ _ plain => exact absurd plain hne
  | timed _ _ _ _ plain => exact absurd plain hne
  | band l x h => subst h; exact absurd rfl hne
  | heartbeat c x h => subst h; exact absurd rfl hne
  | changes seq h =>
    subst h
    show execReadChanges seq s = _
    unfold execReadChanges
    rw [if_neg (by simp [hr])]
    exact request_busy hp hi
  | quiet _ _ _ _ plain => exact absurd plain hne

theorem linkReady_iff : s.linkReady = true ↔ s.powered = true ∧ s.plantRx.mode ≠ .ignoring ∧ s.inHand = none := by
  simp [State.linkReady, and_assoc]

theorem hears_iff (c : Console) :
    s.hears c = true ↔ s.powered = true ∧ s.consoles[c].link ≠ .off ∧ s.portRx[c].mode ≠ .ignoring := by
  simp [State.hears, and_assoc]

theorem linkUp_iff (c : Console) : s.linkUp c = true ↔ ∃ w, s.consoles[c].link = .up w := by
  unfold State.linkUp
  cases s.consoles[c].link <;> simp [Link.isUp]

end Receivers

/-- Settles O10: each command of a receiver moves its own, a busy line discards, and the check is R180's. -/
theorem framesAreReceived : Obligations.FramesAreReceived := by
  refine ⟨⟨fun rx clock s hl hb hm => ?_, fun rx bytes s hl hb hg hm => ?_, fun rx start clock s hl hm ht => ?_,
    fun rx s hl hm => ?_, fun s hp => ?_⟩, fun i s hp hi hk => ?_, good_iff, ?_, linkReady_iff, fun s c =>
    ⟨hears_iff s c, linkUp_iff s c, fun o => attachedAt_eq_some_iff s c o⟩⟩
  · refine moves_receiver (f := fun r => r.begin clock) ?_ rfl
    show execFrameStart rx clock s = _
    unfold execFrameStart
    rw [if_pos (by simp [hl, hm]), if_neg (by simp [hb])]
  · refine moves_receiver (f := fun r => r.discard .hunting) ?_ rfl
    show execFrameDiscarded rx bytes s = _
    unfold execFrameDiscarded
    rw [if_pos (by simp [hl, hg, hm]), if_neg (by simp [hb])]
  · refine moves_receiver (f := fun r => { r.discard .ignoring with clock := clock }) ?_ rfl
    show execFrameTime rx clock s = _
    unfold execFrameTime
    rw [hm]
    exact if_pos (by simp [hl, ht])
  · refine moves_receiver (f := fun r => { r with mode := .hunting }) ?_ rfl
    show execIdleEndGap rx s = _
    unfold execIdleEndGap
    exact if_pos (by simp [hl, hm])
  · refine ⟨s.released, ?_, rfl, rfl, ?_⟩
    · show execAnswerSent s = _
      unfold execAnswerSent
      exact if_pos hp
    · intro p hn
      cases p <;> simp_all [State.same, sameAt, State.released]
  · rcases hk with he | rfl | ⟨body, rfl, hb⟩ | ⟨clock, rfl, hm⟩
    · exact busy_discards (request_in_hand hp hi he)
    · refine busy_discards ?_
      show execBusyDiscard s = _
      unfold execBusyDiscard
      exact if_pos (by simp [hp, hi])
    · refine busy_discards ?_
      show execUndefinedRequest body s = _
      unfold execUndefinedRequest
      rw [hb]
      exact request_busy hp hi
    · refine busy_discards ?_
      show execFrameStart .plant clock s = _
      unfold execFrameStart
      rw [if_pos (by simp [State.listens, hp, State.receiver, hm]), if_pos (show s.lineBusy .plant = true from hi)]
  · rw [← check_eq]
    decide +kernel

end Sys2Proof.Machine
end

section
/-! What sounds, and what energises the relay (R90, R92, R93, R96). -/

namespace Sys2Proof.Machine

/-- The highest priority that meets a test, or silence. -/
def highest (f : Priority → Bool) : Pattern :=
  if f .p1 then .sounding .p1
  else if f .p2 then .sounding .p2
  else if f .p3 then .sounding .p3
  else if f .p4 then .sounding .p4
  else .silent

/-- The first priority that meets the test, or none does. -/
theorem highest_cases (f : Priority → Bool) :
    (∃ p, highest f = .sounding p ∧ f p = true ∧ ∀ q, f q = true → p.rank ≤ q.rank) ∨
      highest f = .silent ∧ ∀ q, f q = false := by
  unfold highest
  split
  · next h1 => exact .inl ⟨_, rfl, h1, fun q _ => by cases q <;> decide⟩
  · next h1 =>
    split
    · next h2 =>
      refine .inl ⟨_, rfl, h2, fun q hq => ?_⟩
      cases q with
      | p1 => exact absurd hq h1
      | _ => decide
    · next h2 =>
      split
      · next h3 =>
        refine .inl ⟨_, rfl, h3, fun q hq => ?_⟩
        cases q with
        | p1 => exact absurd hq h1
        | p2 => exact absurd hq h2
        | _ => decide
      · next h3 =>
        split
        · next h4 =>
          refine .inl ⟨_, rfl, h4, fun q hq => ?_⟩
          cases q with
          | p1 => exact absurd hq h1
          | p2 => exact absurd hq h2
          | p3 => exact absurd hq h3
          | p4 => exact le_rfl
        · next h4 =>
          refine .inr ⟨rfl, fun q => ?_⟩
          cases q <;> exact Bool.eq_false_iff.2 (by assumption)

theorem rank_injective {p q : Priority} (h : p.rank = q.rank) : p = q := by
  cases p <;> cases q <;> first | rfl | exact absurd h (by decide)

section Horns

variable (s : State) (c : Console)

/-- Some record of a priority is in the sounding set of a console. -/
def State.soundsWith (q : Priority) : Bool := (s.records.filter (s.soundsAt c)).any (·.priority == q)

theorem soundsWith_iff (q : Priority) :
    s.soundsWith c q = true ↔ ∃ r ∈ s.records, s.soundsAt c r = true ∧ r.priority = q := by
  simp [State.soundsWith]

theorem patternOf_silent : s.patternOf c = .silent ↔ ∀ r ∈ s.records, s.soundsAt c r = false := by
  have none : (∀ r ∈ s.records, s.soundsAt c r = false) ↔ ∀ q, s.soundsWith c q = false := by
    constructor
    · intro h q
      refine Bool.eq_false_iff.2 fun hq => ?_
      obtain ⟨r, hr, hs, -⟩ := (soundsWith_iff s c q).1 hq
      rw [h r hr] at hs
      cases hs
    · intro h r hr
      refine Bool.eq_false_iff.2 fun hs => ?_
      exact Bool.eq_false_iff.1 (h r.priority) ((soundsWith_iff s c _).2 ⟨r, hr, hs, rfl⟩)
  rw [none]
  show highest (s.soundsWith c) = .silent ↔ _
  rcases highest_cases (s.soundsWith c) with ⟨p, h, hp, -⟩ | ⟨h, hn⟩
  · rw [h]
    exact ⟨fun e => (by cases e), fun e => by rw [e p] at hp; cases hp⟩
  · exact ⟨fun _ => hn, fun _ => h⟩

theorem patternOf_sounding (p : Priority) : s.patternOf c = .sounding p ↔
    (∃ r ∈ s.records, s.soundsAt c r = true ∧ r.priority = p) ∧
      ∀ r ∈ s.records, s.soundsAt c r = true → p.rank ≤ r.priority.rank := by
  have lowest : (∀ r ∈ s.records, s.soundsAt c r = true → p.rank ≤ r.priority.rank) ↔
      ∀ q, s.soundsWith c q = true → p.rank ≤ q.rank := by
    constructor
    · intro h q hq
      obtain ⟨r, hr, hs, rfl⟩ := (soundsWith_iff s c q).1 hq
      exact h r hr hs
    · exact fun h r hr hs => h _ ((soundsWith_iff s c _).2 ⟨r, hr, hs, rfl⟩)
  rw [lowest, ← soundsWith_iff]
  show highest (s.soundsWith c) = .sounding p ↔ _
  rcases highest_cases (s.soundsWith c) with ⟨q, h, hq, hl⟩ | ⟨h, hn⟩
  · rw [h]
    constructor
    · intro e; cases e; exact ⟨hq, hl⟩
    · rintro ⟨hp, hlp⟩
      rw [rank_injective ((hl p hp).antisymm (hlp q hq))]
  · rw [h]
    exact ⟨fun e => (by cases e), fun ⟨hp, _⟩ => by rw [hn p] at hp; cases hp⟩

end Horns

/-- Settles O23: the first priority of which some record sounds is the highest, and what sounds is R92's set. -/
theorem hornPatternIsTheHighest : Obligations.HornPatternIsTheHighest := by
  refine ⟨fun s c => ⟨patternOf_silent s c, patternOf_sounding s c⟩, fun s c r => ?_, fun s => ?_⟩
  · simp only [State.soundsAt, Record.soundsAtRoute, State.soundsAtSupervisor, Bool.or_eq_true, Bool.and_eq_true,
      beq_iff_eq, Bool.not_eq_true', coAnnunciated_iff, and_assoc]
  · have hup : (s.linkUp 0 = false) ↔ ∀ w, s.consoles[(0 : Console)].link ≠ .up w := by
      rw [← not_exists, ← linkUp_iff, Bool.not_eq_true]
    rw [← hup]
    simp only [State.relayWanted, List.any_eq_true, Bool.or_eq_true, Bool.and_eq_true, beq_iff_eq, Option.isNone_iff_eq_none,
      coAnnunciated_iff, Bool.not_eq_true']
    constructor
    · rintro ⟨r, hr, h | ⟨h, hl⟩⟩
      · exact .inl ⟨r, hr, h⟩
      · exact .inr ⟨⟨r, hr, h⟩, hl⟩
    · rintro (⟨r, hr, h⟩ | ⟨⟨r, hr, h⟩, hl⟩)
      · exact ⟨r, hr, .inl h⟩
      · exact ⟨r, hr, .inr ⟨h, hl⟩⟩

end Sys2Proof.Machine
end

section
/-! What a load makes of a stored image (R190), and that the result is lawful whatever the image holds. -/

namespace Sys2Proof.Machine

/-! ### The parameters (R83, R102, R136, R164) -/

theorem loaded_times (x d : EscalationTimes) : x.loaded d =
    if x.t1 ≠ 0 ∧ x.t2 ≠ 0 ∧ min x.t2 7200 ≤ min x.t1 7200 then d else { t1 := min x.t1 7200, t2 := min x.t2 7200 } := by
  unfold EscalationTimes.loaded EscalationTimes.valid
  dsimp only
  split
  · next h =>
    rw [if_neg]
    simp only [Bool.and_eq_true, Bool.or_eq_true, decide_eq_true_eq, beq_iff_eq] at h
    omega
  · next h =>
    rw [if_pos]
    simp only [Bool.and_eq_true, Bool.or_eq_true, decide_eq_true_eq, beq_iff_eq] at h
    omega

theorem default_times (i : Fin 4) : Params.default.escalation[i] = defaultTimes i := by
  revert i
  decide

theorem loaded_paramsFrom (p : Params) : paramsFrom p p.loaded := by
  refine ⟨fun i => ?_, rfl, rfl, ?_, ?_, ?_, ?_, ?_, ?_, rfl⟩
  · rw [← default_times]
    simp only [Params.loaded, Fin.getElem_fin, Vector.getElem_ofFn, loaded_times]
  · simp only [Params.loaded, orDefault, validWindow, Bool.and_eq_true, decide_eq_true_eq, beq_iff_eq, and_assoc]
    rfl
  · simp only [Params.loaded, orDefault, validLocked, Bool.or_eq_true, beq_iff_eq, or_assoc]
    rfl
  · simp only [Params.loaded, orDefault, validFailLimit, Bool.and_eq_true, decide_eq_true_eq]
    rfl
  · simp only [Params.loaded, orDefault, validGrace, Bool.and_eq_true, decide_eq_true_eq]
    rfl
  · simp only [Params.loaded, orDefault, validOffer, Bool.and_eq_true, decide_eq_true_eq]
    rfl
  · simp only [Params.loaded, orDefault, validReview, Bool.and_eq_true, decide_eq_true_eq]
    rfl

theorem paramsFrom_lawful {p q : Params} (h : paramsFrom p q) : q.lawful := by
  obtain ⟨ht, hon, hoff, hw, hl, hf, hg, ho, hr, -⟩ := h
  have hd : ∀ i, (defaultTimes i).t1 ≤ 7200 ∧ (defaultTimes i).t2 ≤ 7200 ∧
      ((defaultTimes i).t1 = 0 ∨ (defaultTimes i).t2 = 0 ∨ (defaultTimes i).t1 < (defaultTimes i).t2) := by decide
  refine ⟨fun i => ?_, ?_, ?_, ?_, ?_, ?_, ?_, ?_⟩
  · rw [ht]
    split
    · exact hd i
    · dsimp only; omega
  · rw [hoff, hon]; split <;> omega
  · rw [hw]; split <;> omega
  · rw [hl]; split <;> omega
  · rw [hf]; split <;> omega
  · rw [hg]; split <;> omega
  · rw [ho]; split <;> omega
  · rw [hr]; split <;> omega

/-! ### The roster (R117) -/

section Image

variable (m : Settings)

theorem badgeTaken_iff (r : Vector (Option OperatorRecord) 48) (o : Operator) (b : Badge) :
    badgeTaken r o b = true ↔ ∃ q : Operator, q < o ∧ ∃ x ∈ r[q], x.badge = b := by
  unfold badgeTaken
  simp only [List.any_eq_true, List.mem_finRange, true_and, Bool.and_eq_true, decide_eq_true_eq]
  refine exists_congr fun q => and_congr_right fun _ => ?_
  cases r[q] <;> simp

theorem loaded_rosterFrom : rosterFrom m m.loaded := by
  intro o
  have hl : m.loaded.roster[o] = loadOperator m.roster o := by
    simp only [Settings.loaded, Fin.getElem_fin, Vector.getElem_ofFn]
  rw [hl]
  unfold loadOperator
  cases hr : m.roster[o] with
  | none => rfl
  | some r =>
    dsimp only [Option.bind_some]
    simp only [Bool.or_eq_true, beq_iff_eq, badgeTaken_iff]

theorem rosterFrom_lawful {m k : Settings} (h : rosterFrom m k) :
    (∀ (o q : Operator) (x y : OperatorRecord), k.roster[o] = some x → k.roster[q] = some y → x.badge = y.badge → o = q) ∧
      (∀ (o : Operator) (x : OperatorRecord), k.roster[o] = some x → x.badge ≠ 0) ∧
      ∀ (o : Operator) (x : OperatorRecord), k.roster[o] = some x → x.expiry ≠ some 0 := by
  have key : ∀ (o : Operator) (x : OperatorRecord), k.roster[o] = some x → ∃ r, m.roster[o] = some r ∧
      x.badge = r.badge ∧ r.badge ≠ 0 ∧ (∀ q : Operator, q < o → ∀ y ∈ m.roster[q], y.badge ≠ r.badge) ∧
      x.expiry ≠ some 0 := by
    intro o x hx
    rw [h] at hx
    obtain ⟨r, hr, hx⟩ := Option.bind_eq_some_iff.1 hx
    split at hx
    · cases hx
    · next hn =>
      cases hx
      refine ⟨r, hr, rfl, fun e => hn (.inl e), fun q hq y hy e => hn (.inr ⟨q, hq, y, hy, e⟩), ?_⟩
      dsimp only
      split
      · simp
      · assumption
  refine ⟨fun o q x y hx hy he => ?_, fun o x hx => ?_, fun o x hx => ?_⟩
  · obtain ⟨r, hr, hb, -, hn, -⟩ := key o x hx
    obtain ⟨z, hz, hc, -, hm, -⟩ := key q y hy
    have hrz : r.badge = z.badge := hb.symm.trans (he.trans hc)
    rcases lt_trichotomy o q with hlt | heq | hgt
    · exact absurd hrz (hm o hlt r hr)
    · exact heq
    · exact absurd hrz.symm (hn q hgt z hz)
  · obtain ⟨r, -, hb, hn, -, -⟩ := key o x hx
    rw [hb]
    exact hn
  · obtain ⟨r, -, -, -, -, he⟩ := key o x hx
    exact he

/-! ### The areas (R1) and the points (R23) -/

theorem loaded_areasFrom : areasFrom m m.loaded := by
  intro a
  simp only [Settings.loaded, AreaConfig.loaded, Fin.getElem_fin, Vector.getElem_map]

theorem lineTaken_iff (v : Vector PointConfig 256) (p : Point) : lineTaken v p = true ↔
    (∃ l : Line, v[p].use = .line l) ∧ ∃ q : Point, q < p ∧ v[q].use = v[p].use := by
  unfold lineTaken
  cases hu : v[p].use with
  | unused => simp
  | link => simp
  | line l => simp [List.any_eq_true]

theorem loaded_pointsFrom : pointsFrom m m.loaded := by
  intro p
  have hl : m.loaded.points[p] = loadPoint m.points p := by
    simp only [Settings.loaded, Fin.getElem_fin, Vector.getElem_ofFn]
  have hs : (m.points[p].shelvable && m.points[p].priority != .p1) =
      if m.points[p].priority = .p1 then false else m.points[p].shelvable := by
    cases m.points[p].shelvable <;> cases m.points[p].priority <;> rfl
  have hm : max 1 (min 480 m.points[p].maxShelf) = if m.points[p].maxShelf = 0 then 1
      else if 480 < m.points[p].maxShelf then 480 else m.points[p].maxShelf := by
    split
    · omega
    · split <;> omega
  rw [hl]
  unfold loadPoint
  simp only [lineTaken_iff, hm]
  unfold PointConfig.corrected
  rw [hs]

theorem pointsFrom_lawful {m k : Settings} (h : pointsFrom m k) :
    (∀ p : Point, k.points[p].priority = .p1 → k.points[p].shelvable = false) ∧
      (∀ p : Point, 1 ≤ k.points[p].maxShelf ∧ k.points[p].maxShelf ≤ 480) ∧
      ∀ (p q : Point) (l : Line), k.points[p].use = .line l → k.points[q].use = .line l → p = q := by
  refine ⟨fun p hp => ?_, fun p => ?_, fun p q l hp hq => ?_⟩
  · rw [h] at hp ⊢
    exact if_pos hp
  · rw [h]
    dsimp only
    split
    · omega
    · split <;> omega
  · have key : ∀ r : Point, k.points[r].use = .line l → m.points[r].use = .line l ∧
        ∀ z : Point, z < r → m.points[z].use ≠ .line l := by
      intro r hr
      rw [h] at hr
      dsimp only at hr
      split at hr
      · cases hr
      · next hn => exact ⟨hr, fun z hz e => hn ⟨⟨l, hr⟩, z, hz, e.trans hr.symm⟩⟩
    obtain ⟨hp', hpn⟩ := key p hp
    obtain ⟨hq', hqn⟩ := key q hq
    rcases lt_trichotomy p q with hlt | heq | hgt
    · exact absurd hp' (hqn p hlt)
    · exact heq
    · exact absurd hq' (hpn q hgt)

/-! ### The notes (R158) -/

theorem noteCharacter_eq (b : Byte) : noteCharacter b = if 32 ≤ b.toNat ∧ b.toNat ≤ 126 then b else 63 := by
  simp only [noteCharacter, Bool.and_eq_true, decide_eq_true_eq]
  rfl

theorem noteCharacter_range (b : Byte) : 32 ≤ (noteCharacter b).toNat ∧ (noteCharacter b).toNat ≤ 126 := by
  rw [noteCharacter_eq]
  split
  · assumption
  · decide

theorem loaded_notesFrom : notesFrom m m.loaded := by
  intro n
  have hl : m.loaded.notes[n] = loadNote m.loaded.roster m.notes[n] := by
    simp only [Settings.loaded, Fin.getElem_fin, Vector.getElem_map]
  rw [hl]
  unfold loadNote
  cases hn : m.notes[n] with
  | none => rfl
  | some r =>
    have ha : loadAuthor m.loaded.roster r.author =
        if ∃ o ∈ r.author, m.loaded.roster[o] = none then none else r.author := by
      unfold loadAuthor
      cases r.author with
      | none => rfl
      | some o =>
        simp only [Option.mem_some_iff, exists_eq_left']
        cases m.loaded.roster[o] <;> simp
    have hc : noteCharacter = fun b => if 32 ≤ b.toNat ∧ b.toNat ≤ 126 then b else 63 := funext noteCharacter_eq
    dsimp only [Option.bind_some]
    simp only [List.isEmpty_iff, ha, hc]

theorem loaded_lines : m.loaded.lines = m.lines := by simp only [Settings.loaded]

theorem loaded_enabled : m.loaded.enabled = m.enabled := by simp only [Settings.loaded]

theorem loaded_params : m.loaded.params = m.params.loaded := rfl

/-- A load is what R190 says, block by block. -/
theorem loaded_loadedFrom : loadedFrom m m.loaded :=
  ⟨by rw [loaded_params]; exact loaded_paramsFrom m.params, loaded_enabled m, loaded_rosterFrom m, loaded_areasFrom m,
    loaded_pointsFrom m, loaded_lines m, loaded_notesFrom m⟩

theorem loadedFrom_lawful {m k : Settings} (h : loadedFrom m k) : k.lawful := by
  obtain ⟨hp, -, hr, ha, hpt, -, hn⟩ := h
  obtain ⟨b1, b2, b3⟩ := rosterFrom_lawful hr
  obtain ⟨p1, p2, p3⟩ := pointsFrom_lawful hpt
  refine ⟨fun a => ?_, fun a => ?_, p1, p2, p3, b1, b2, b3, fun n r hr => ?_, paramsFrom_lawful hp⟩
  · rw [ha]
    dsimp only
    split
    · cases ho : m.areas[a].owner with
      | none => exact .inl rfl
      | some c => exact .inr (by simp)
    · next hne => exact .inr hne
  · rw [ha]
    exact ⟨le_max_left _ _, le_max_left _ _, le_max_left _ _⟩
  · rw [hn] at hr
    obtain ⟨x, -, hx⟩ := Option.bind_eq_some_iff.1 hr
    split at hx
    · cases hx
    · next hne =>
      cases hx
      refine ⟨by simpa using hne, fun b hb => ?_⟩
      obtain ⟨y, -, rfl⟩ := List.mem_map.1 hb
      rw [← noteCharacter_eq]
      exact noteCharacter_range y

/-- What a load does not correct, it keeps. -/
theorem loadedFrom_storable {m k : Settings} (h : loadedFrom m k) (hm : m.storable) : k.storable := by
  obtain ⟨⟨-, hon, -, -, -, -, -, -, -, hb⟩, -, -, -, -, -, hn⟩ := h
  refine ⟨fun n r hr => ?_, fun g => ?_, ?_⟩
  · rw [hn] at hr
    obtain ⟨x, hx, hy⟩ := Option.bind_eq_some_iff.1 hr
    split at hy
    · cases hy
    · cases hy
      have := hm.noteLength n x hx
      simpa using this
  · rw [hb]
    exact hm.blank g
  · rw [hon]
    have := hm.floodOn
    omega

end Image

/-! ### The change set (R183) -/

/-- References that are new to a set, and without repeats, are appended in their order. -/
theorem addRefs_of_new (l refs : List Ref) (h : (l ++ refs).Nodup) : addRefs l refs = l ++ refs := by
  induction refs generalizing l with
  | nil => simp
  | cons r rs ih =>
    have hr : r ∉ l := fun hm => (List.nodup_append.1 h).2.2 r hm r (List.mem_cons_self ..) rfl
    have ha : addRef l r = l ++ [r] := by unfold addRef; simp [hr]
    rw [addRefs_cons, ha, ih _ (by simpa using h)]
    simp

theorem correctionRefs_eq (m : Settings) : m.correctionRefs = corrected m m.loaded := by
  unfold Settings.correctionRefs corrected numbersWhere
  simp only [ne_eq, decide_not, bne, beq_eq_decide]

theorem consoles_append_corrected_nodup (m k : Settings) : (Ref.consoles ++ corrected m k).Nodup := by
  have map : ∀ {n : Nat} (p : Fin n → Bool) {f : Fin n → Ref}, Function.Injective f → ((List.finRange n).filter p |>.map f).Nodup :=
    fun p _ hf => ((List.nodup_finRange _).filter p).map hf
  unfold corrected Ref.consoles
  simp only [List.nodup_append, List.mem_append, List.mem_map]
  refine ⟨(List.nodup_finRange 8).map fun _ _ e => by cases e; rfl, ⟨⟨⟨map _ fun _ _ e => by cases e; rfl,
    map _ fun _ _ e => by cases e; rfl, ?_⟩, map _ fun _ _ e => by cases e; rfl, ?_⟩, map _ fun _ _ e => by cases e; rfl, ?_⟩, ?_⟩
  all_goals rintro x hx y hy rfl
  all_goals aesop

theorem loadRefs_of_chosen {st : Store} {c : StoredCopy} (h : st.chosen = some c) :
    st.loadRefs = consoleReferences ++ corrected c.image c.image.loaded := by
  unfold Store.loadRefs
  rw [h]
  dsimp only
  rw [correctionRefs_eq, addRefs_of_new _ _ (consoles_append_corrected_nodup _ _)]
  rfl

theorem default_defaultsLoaded : defaultsLoaded Settings.default := by
  refine ⟨fun p => ?_, fun l => ?_, fun a => ?_, fun o => ?_, fun n => ?_, fun c => ?_, default_times, rfl, rfl, rfl, rfl,
    rfl, rfl, rfl, rfl, fun g => ?_⟩
  all_goals simp only [Settings.default, Params.default, PointConfig.default, LineConfig.default, AreaConfig.default,
    Fin.getElem_fin, Vector.getElem_replicate]

theorem contents_lawful (st : Store) : st.contents.lawful := by
  unfold Store.contents
  cases st.chosen with
  | none => exact default_lawful
  | some c => exact loadedFrom_lawful (loaded_loadedFrom c.image)

theorem chosen_copy {st : Store} {c : StoredCopy} (h : st.chosen = some c) : ∃ w, st.copy w = some c := by
  unfold Store.chosen newerCopy at h
  split at h
  · next ha hb =>
    split at h
    · exact ⟨.a, ha.trans h⟩
    · exact ⟨.b, hb.trans h⟩
  · next ha hb => exact ⟨.a, ha.trans h⟩
  · next hb => exact ⟨.b, h⟩

theorem contents_storable {st : Store} (h : st.storable) : st.contents.storable := by
  unfold Store.contents
  cases hc : st.chosen with
  | none => exact default_storable
  | some c =>
    obtain ⟨w, hw⟩ := chosen_copy hc
    exact loadedFrom_storable (loaded_loadedFrom c.image) (h w c hw)

theorem cutOff_storable {st : Store} (h : st.storable) (cut : Bool) : (st.cutOff cut).storable := by
  obtain ⟨ha, hb, -⟩ := cutOff_spec st cut
  intro w k hk
  cases w with
  | a =>
    rw [show (st.cutOff cut).copy .a = _ from ha] at hk
    split at hk
    · cases hk
    · exact h .a k hk
  | b =>
    rw [show (st.cutOff cut).copy .b = _ from hb] at hk
    split at hk
    · cases hk
    · exact h .b k hk

/-- A cold start leaves the stored contents lawful, given of the copies what no load corrects. -/
theorem started_settingsLaw (s : State) {st : Store} (h : st.storable) : (s.started st).settingsLaw :=
  ⟨contents_lawful st, contents_storable h, fun w k hk => h w k (by cases w <;> exact hk)⟩

/-- Settles O24: what is loaded, corrected and started afresh, and that it is lawful. -/
theorem coldStartLoadsTheStore : Obligations.ColdStartLoadsTheStore := by
  refine ⟨fun cut s => ?_, fun cut s t h => ?_⟩
  · obtain ⟨ha, hb, -, -, -, -⟩ := cutOff_spec s.store cut
    refine ⟨s.started (s.store.cutOff cut), rfl, rfl, rfl, rfl, rfl, rfl, rfl, rfl, rfl, rfl, fun i => ?_, fun a => ?_,
      fun g => ?_, fun c => ⟨?_, ?_⟩, fun l => ?_, rfl, fun c => ?_, ha, hb, rfl, rfl,
      ⟨(s.store.cutOff cut).chosen, chosen_loadsFrom (s.store.cutOff cut), ?_⟩, rfl, rfl, rfl⟩
    · simp only [State.started, Fin.getElem_fin, Vector.getElem_replicate]
    · simp only [State.started, Fin.getElem_fin, Vector.getElem_replicate]
    · simp only [State.started, Fin.getElem_fin, Vector.getElem_replicate]
    · simp only [State.started, Fin.getElem_fin, Vector.getElem_map]
      rfl
    · simp only [State.started, Fin.getElem_fin, Vector.getElem_replicate]
      rfl
    · simp only [State.started, Fin.getElem_fin, Vector.getElem_ofFn]
      rfl
    · simp only [State.started, Fin.getElem_fin, Vector.getElem_map]
      rfl
    · cases hc : (s.store.cutOff cut).chosen with
      | none =>
        have hk : (s.store.cutOff cut).contents = Settings.default := by unfold Store.contents; rw [hc]
        refine ⟨?_, ?_, ?_, ?_⟩
        · show defaultsLoaded (s.store.cutOff cut).contents
          rw [hk]
          exact default_defaultsLoaded
        · show (s.store.cutOff cut).started.generation = 0
          simp only [Store.started, hc]
        · show (s.store.cutOff cut).started.storeLost = true
          simp only [Store.started, hc]
          rfl
        · show (s.store.cutOff cut).loadRefs = _
          unfold Store.loadRefs
          rw [hc]
          rfl
      | some k =>
        have hk : (s.store.cutOff cut).contents = k.image.loaded := by unfold Store.contents; rw [hc]
        refine ⟨?_, ?_, ?_, ?_⟩
        · show loadedFrom k.image (s.store.cutOff cut).contents
          rw [hk]
          exact loaded_loadedFrom k.image
        · show (s.store.cutOff cut).started.generation = k.generation
          simp only [Store.started, hc]
        · show (s.store.cutOff cut).started.storeLost = false
          simp only [Store.started, hc]
          rfl
        · show (s.store.cutOff cut).loadRefs = consoleReferences ++ corrected k.image (s.store.cutOff cut).contents
          rw [hk]
          exact loadRefs_of_chosen hc
  · injection h with h
    subst h
    exact ⟨contents_lawful _, fun hs => started_settingsLaw s (cutOff_storable hs cut)⟩

end Sys2Proof.Machine
end

section
/-! What the end of a request or of a timed event leaves, said once: the state an operation has left, but for what every
event derives, and the answer. -/

namespace Sys2Proof.Machine

/-- The second state is the first at the end of its event: nothing differs but what an event derives, the answer in hand
and the last result; and what was marked is marked. -/
structure Concludes (u t : State) : Prop where
  only : changesOnly u t (derivedParts ++ [.exchange, .results])
  marks : ∀ refs, marked u refs → marked t refs

namespace Concludes

variable {u t : State} (h : Concludes u t)

include h

theorem live : t.live = u.live := h.only .table (by decide)
theorem waiting : t.waiting = u.waiting := h.only .queue (by decide)
theorem cfg : t.cfg = u.cfg := h.only .settings (by decide)
theorem routes : t.routes = u.routes := h.only .routes (by decide)
theorem lines : t.lines = u.lines := h.only .lines (by decide)
theorem blankEnds : t.blankEnds = u.blankEnds := h.only .blanking (by decide)
theorem handovers : t.handovers = u.handovers := h.only .handovers (by decide)
theorem store : t.store = u.store := h.only .store (by decide)
theorem draws : t.draws = u.draws := h.only .draws (by decide)
theorem day : t.day = u.day := h.only .day (by decide)
theorem partTime : t.partTime = u.partTime := h.only .time (by decide)

theorem records : t.records = u.records := by unfold State.records; rw [h.live]

theorem loads (c : Console) : (t.consoles[c].load, t.consoles[c].flooded, t.consoles[c].secondSum,
    t.consoles[c].secondTaken) = (u.consoles[c].load, u.consoles[c].flooded, u.consoles[c].secondSum,
    u.consoles[c].secondTaken) := h.only .loads (by decide) c

theorem link (c : Console) : t.consoles[c].link = u.consoles[c].link :=
  congrArg Prod.fst (h.only .links (by decide) c)

theorem count (c : Console) : t.consoles[c].count = u.consoles[c].count :=
  congrArg Prod.snd (h.only .links (by decide) c)

theorem session (c : Console) : t.consoles[c].session = u.consoles[c].session :=
  congrArg Prod.fst (h.only .sessions (by decide) c)

theorem lastEnd (c : Console) : t.consoles[c].lastEnd = u.consoles[c].lastEnd :=
  congrArg Prod.snd (h.only .sessions (by decide) c)

theorem hornFault (c : Console) : t.consoles[c].hornFault = u.consoles[c].hornFault :=
  congrArg Prod.fst (h.only .flags (by decide) c)

theorem underQualified (c : Console) : t.consoles[c].underQualified = u.consoles[c].underQualified :=
  congrArg Prod.snd (h.only .flags (by decide) c)

theorem same {s : State} {p : Part} (hp : p ∉ derivedParts ++ [.exchange, .results]) (hs : s.same u p) : s.same t p :=
  same_trans hs (h.only p hp)

end Concludes

theorem marked_mono {u t : State} (hs : ∀ r ∈ u.changeSet, r ∈ t.changeSet) (ha : u.attention = true → t.attention = true)
    (refs : List Ref) (h : marked u refs) : marked t refs := ⟨fun r hr => hs r (h.1 r hr), ha h.2⟩

theorem settle_concludes (s u : State) (x : Option Console) : Concludes u (settle s u x) := by
  refine ⟨changesOnly_mono (changesOnly_settle s u x) fun p hp => List.mem_append_left _ hp, marked_mono ?_ ?_⟩
  · intro r hr
    rw [settle_changeSet, mem_addRefs]
    exact .inl hr
  · intro ha
    rw [settle_attention, ha]
    rfl

/-- What an event changes of a read-out is marked at its end. -/
theorem settle_marked (s u : State) (x : Option Console) {r : Ref} (h : viewDiffers s u.rehorn.rerelay r) :
    marked (settle s u x) [r] := by
  have hr : r ∈ changedRefs s u.rehorn.rerelay := (mem_changedRefs _ _ r).2 h
  refine ⟨fun q hq => ?_, ?_⟩
  · cases List.mem_singleton.1 hq
    rw [settle_changeSet, mem_addRefs]
    exact .inr hr
  · rw [settle_attention]
    have : (changedRefs s u.rehorn.rerelay).isEmpty = false := List.isEmpty_eq_false_iff.2 (List.ne_nil_of_mem hr)
    rw [this, Bool.not_false, Bool.or_true]

theorem changesOnly_settle_of {s u : State} {parts : List Part} (h : changesOnly s u parts) (x : Option Console) :
    changesOnly s (settle s u x) (parts ++ derivedParts) := changesOnly_trans h (changesOnly_settle s u x)

theorem markAll_marked (u : State) {refs : List Ref} (h : refs ≠ []) : marked (u.markAll refs) refs := by
  refine ⟨fun r hr => (mem_addRefs _ _ _).2 (.inr hr), ?_⟩
  show (u.attention || !refs.isEmpty) = true
  rw [List.isEmpty_eq_false_iff.2 h, Bool.not_false, Bool.or_true]

theorem marked_markAll {u : State} {refs : List Ref} (h : marked u refs) (l : List Ref) : marked (u.markAll l) refs :=
  ⟨fun r hr => (mem_addRefs _ _ _).2 (.inl (h.1 r hr)), by
    show (u.attention || !l.isEmpty) = true
    rw [h.2]
    rfl⟩

theorem marked_of_same {u t : State} (hs : t.changeSet = u.changeSet) (ha : t.attention = u.attention) {refs : List Ref}
    (h : marked u refs) : marked t refs := ⟨fun r hr => by rw [hs]; exact h.1 r hr, by rw [ha]; exact h.2⟩

theorem marked_subset {u : State} {refs l : List Ref} (h : marked u refs) (hl : ∀ r ∈ l, r ∈ refs) : marked u l :=
  ⟨fun r hr => h.1 r (hl r hr), h.2⟩

/-- What is marked stays marked through an operation that only marks. -/
theorem Marks.marked {s t : State} (h : Marks s t) {refs : List Ref} (hs : marked s refs) : marked t refs := by
  obtain ⟨l, hset, hout⟩ := h
  refine ⟨fun r hr => ?_, ?_⟩
  · rw [hset, mem_addRefs]
    exact .inl (hs.1 r hr)
  · rw [hout, hs.2]
    rfl

/-! ### Requests -/

section Requests

variable {i : Instr} {code seq : Byte} {f : State → Verdict} {s u : State} {data : List Byte}

theorem request_refuses (h : exec i s = request code seq (some f) s) (hl : s.linkReady = true) {r : Reason}
    (hf : f s.plantHunting = .refuse r) : ∃ t, exec i s = .next t ∧ onlyAnswered s t code seq (some r) [] :=
  ⟨_, h.trans (request_answered hl hf), onlyAnswered_of s code seq _⟩

theorem request_unchanged (h : exec i s = request code seq (some f) s) (hl : s.linkReady = true)
    (hf : f s.plantHunting = .unchanged data) : ∃ t, exec i s = .next t ∧ onlyAnswered s t code seq none data :=
  ⟨_, h.trans (request_answered hl hf), onlyAnswered_of s code seq _⟩

theorem answer_concludes (s u : State) (x : Option Console) (code seq : Byte) (reply : Reply) :
    Concludes u ((settle s u x).answer code seq reply) := by
  obtain ⟨ho, hm⟩ := settle_concludes s u x
  refine ⟨changesOnly_mono (changesOnly_trans (changesOnly_settle s u x) (changesOnly_answer _ code seq reply)) ?_,
    fun refs hr => hm refs hr⟩
  decide

theorem request_accepts (parts : List Part) (h : exec i s = request code seq (some f) s) (hl : s.linkReady = true)
    (hf : f s.plantHunting = .accept u data) (hu : changesOnly s.plantHunting u (derivedParts ++ parts))
    (hp : Part.plantReceiver ∉ derivedParts ++ parts) :
    ∃ t, exec i s = .next t ∧ t = (settle s.plantHunting u none).answer code seq (.ok data) ∧ Concludes u t ∧
      accepted s t code seq data parts :=
  ⟨_, h.trans (request_accepted hl hf), rfl, answer_concludes _ u _ _ _ _, accepted_settled (hu .plantReceiver hp) hu⟩

end Requests

/-! ### Keys and badges -/

section Keys

variable {i : Instr} {c : Console} {src : ResultSource} {act : State → Effect} {s u : State} {r : Result}

theorem withResult_at (s : State) (c : Console) (src : ResultSource) (r : Result) :
    (s.withResult c src r).consoles[c].lastResult = some (src, r) ∧
      (s.withResult c src r).consoles[c].resultNumber = s.consoles[c].resultNumber + 1 ∧
      otherConsolesSame (fun k => (k.resultNumber, k.lastResult)) s (s.withResult c src r) c := by
  refine ⟨?_, ?_, fun d hd => ?_⟩
  · simp only [State.withResult, State.setConsole_consoles, Fin.getElem_fin, upd_get, if_true]
  · simp only [State.withResult, State.setConsole_consoles, Fin.getElem_fin, upd_get, if_true]
  · simp only [State.withResult, State.setConsole_consoles, Fin.getElem_fin, upd_get, if_neg hd]

/-- The outcome of a key stands at the end of its event, whose effect has left results and receivers alone. -/
theorem outcomeAt_of {t : State} (hrx : u.portRx = (s.portHunting c).portRx) (hres : s.same u .results)
    (ht : changesOnly (u.withResult c src r) t derivedParts) (hc : t.carries c) : outcomeAt s t c src r := by
  obtain ⟨hlast, hnum, hothers⟩ := withResult_at u c src r
  have hend := ht .results (by decide)
  have hlast' : t.consoles[c].lastResult = _ := congrArg Prod.snd (hend c)
  have hnum' : t.consoles[c].resultNumber = _ := congrArg Prod.fst (hend c)
  refine ⟨(ht .portReceivers (by decide)).trans hrx, hlast'.trans hlast, ?_, fun d hd => ?_, hc⟩
  · have hu : u.consoles[c].resultNumber = s.consoles[c].resultNumber := congrArg Prod.fst (hres c)
    exact hnum'.trans (hnum.trans (by rw [hu]))
  · exact (hend d).trans ((hothers d hd).trans (hres d))

theorem link_ne_off_of_up {s : State} {c : Console} (h : s.linkUp c = true) : s.consoles[c].link ≠ .off := by
  obtain ⟨w, hw⟩ := (linkUp_iff s c).1 h
  rw [hw]
  exact Link.noConfusion

theorem panelTelegram_taken (hh : s.hears c = true) (hu : s.linkUp c = true) :
    panelTelegram c src act s = .next ((s.portHunting c).finishTelegram c src (act (s.portHunting c))) := by
  unfold panelTelegram
  rw [if_pos hh]
  dsimp only
  rw [if_pos (show (s.portHunting c).linkUp c = true from hu)]

/-- A key that is refused leaves its outcome, and a telegram with it. -/
theorem key_refuses (h : exec i s = panelTelegram c src act s) (hh : s.hears c = true) (hu : s.linkUp c = true)
    {z : Reason} (ha : act (s.portHunting c) = Effect.refuse z) :
    ∃ t, exec i s = .next t ∧ outcomeAt s t c src (some z) ∧
      changesOnly s t [.portReceivers, .results, .telegrams] := by
  refine ⟨_, h.trans (panelTelegram_taken hh hu), ?_, ?_⟩
  all_goals
    rw [ha]
    unfold State.finishTelegram
    dsimp only [Effect.refuse]
  · refine outcomeAt_of (u := s.portHunting c) rfl (fun _ => rfl)
      (changesOnly_mono (changesOnly_composeAll _ _ _) (by decide)) (composeAll_carries (by simp [composes]) ?_)
    have hl := congrArg Prod.fst (changesOnly_withResult (s.portHunting c) c src (some z) .links (by decide) c)
    exact fun e => link_ne_off_of_up hu (hl.symm.trans e)
  · exact changesOnly_mono (changesOnly_trans (changesOnly_trans (changesOnly_portHunting s c)
      (changesOnly_withResult _ c src _)) (changesOnly_composeAll _ _ _)) (by decide)

theorem refused_keyed {t : State} (h : outcomeAt s t c src r ∧ changesOnly s t [.portReceivers, .results, .telegrams]) :
    keyed s t c src r [] := ⟨h.1, changesOnly_mono h.2 (by decide)⟩

/-- A key whose effect leaves results, receivers and links alone: the state it leaves, with the outcome. -/
theorem key_accepts (parts : List Part) (h : exec i s = panelTelegram c src act s) (hh : s.hears c = true)
    (hu : s.linkUp c = true) (ha : act (s.portHunting c) = (some u, r))
    (hc : changesOnly (s.portHunting c) u (derivedParts ++ parts))
    (hp : ∀ p ∈ [Part.portReceivers, .results, .links], p ∉ derivedParts ++ parts) :
    ∃ t, exec i s = .next t ∧ t = settle (s.portHunting c) (u.withResult c src r) (some c) ∧ Concludes u t ∧
      keyed s t c src r parts := by
  have hw := changesOnly_withResult u c src r
  have hs := changesOnly_settle (s.portHunting c) (u.withResult c src r) (some c)
  have hl : (u.withResult c src r).consoles[c].link = s.consoles[c].link :=
    (congrArg Prod.fst (hw .links (by decide) c)).trans (congrArg Prod.fst (hc .links (hp _ (by decide)) c))
  refine ⟨settle (s.portHunting c) (u.withResult c src r) (some c), ?_, rfl, ?_, ?_, ?_⟩
  · rw [h, panelTelegram_taken hh hu, ha]
    rfl
  · refine ⟨changesOnly_mono (changesOnly_trans hw hs) (by decide), fun refs hm => ?_⟩
    exact (settle_concludes _ _ _).marks refs (marked_of_same rfl rfl hm)
  · refine outcomeAt_of (hc .portReceivers (hp _ (by decide))) (hc .results (hp _ (by decide))) hs ?_
    refine composeAll_carries (by simp [composes]) ?_
    rw [show ((u.withResult c src r).rehorn.rerelay.markAll (changedRefs (s.portHunting c)
      (u.withResult c src r).rehorn.rerelay)).consoles[c].link = s.consoles[c].link from ?_]
    · exact link_ne_off_of_up hu
    · simpa [State.rehorn] using hl
  · refine changesOnly_mono (changesOnly_trans (changesOnly_trans (changesOnly_trans (changesOnly_portHunting s c) hc) hw) hs) ?_
    intro p hm
    simp only [panelParts, List.mem_append, List.mem_cons, List.not_mem_nil, or_false] at *
    tauto

end Keys

/-! ### Timed events -/

theorem timed_taken {i : Instr} {s u : State} {due : Bool} (h : exec i s = timed s due u) (hp : s.powered = true)
    (hd : due = true) : exec i s = .next (settle s u none) := by
  rw [h, timed, if_pos (by simp [hp, hd])]

/-! ### Authority (R126, R127) -/

section Authority

variable (s : State)

theorem engineer_iff (c : Console) (o : Option Operator) (meets : Operator → Bool) :
    s.engineer c o meets = true ↔ s.mayEngineer c o fun op => meets op = true := by
  unfold State.engineer State.mayEngineer
  rw [Bool.or_eq_true]
  refine or_congr_right ?_
  cases o with
  | none => simp
  | some op =>
    cases ha : s.attachedAt c with
    | none =>
      have hno : ∀ p, s.consoles[c].session ≠ .attached p := fun p hp => by
        rw [(attachedAt_eq_some_iff s c p).2 hp] at ha
        cases ha
      exact ⟨fun h => (by cases h), fun ⟨q, _, hs, _⟩ => absurd hs (hno q)⟩
    | some p =>
      have hs := (attachedAt_eq_some_iff s c p).1 ha
      simp only [Bool.and_eq_true, beq_iff_eq, Option.some.injEq, exists_eq_left', hs, Session.attached.injEq]

theorem engineer_congr (c : Console) (o : Option Operator) {meets : Operator → Bool} {P : Operator → Prop}
    (h : ∀ op, meets op = true ↔ P op) : s.engineer c o meets = true ↔ s.mayEngineer c o P := by
  rw [engineer_iff]
  simp only [State.mayEngineer, h]

theorem levelInAll_iff (op : Operator) (lvl : Level) (areas : List Area) : s.levelInAll op lvl areas = true ↔
    (∀ a ∈ areas, lvl ≤ s.effectiveLevel op a) ∧ (areas = [] → s.levelSomewhere op lvl) := by
  unfold State.levelInAll
  cases areas with
  | nil => simp [State.levelSomewhere]
  | cons a l => simp

/-- A set of areas given by its members. -/
theorem levelInAll_congr (op : Operator) (lvl : Level) (areas : List Area) {P : Area → Prop} (h : ∀ a, a ∈ areas ↔ P a) :
    s.levelInAll op lvl areas = true ↔ s.levelIn op lvl P := by
  have he : areas = [] ↔ ∀ a, ¬P a := by
    rw [List.eq_nil_iff_forall_not_mem]
    exact forall_congr' fun a => not_congr (h a)
  rw [levelInAll_iff, he]
  simp only [h, State.levelIn]

theorem supervisorIn_iff (op : Operator) (a : Area) : s.supervisorIn op a = true ↔ s.effectiveLevel op a = 4 := by
  simp [State.supervisorIn]

theorem supervisorSomewhere_iff (op : Operator) : s.supervisorSomewhere op = true ↔ s.levelSomewhere op 4 := by
  unfold State.supervisorSomewhere
  rw [levelInAll_iff]
  simp

end Authority

/-- One check that fails refuses. -/
theorem check_refuses {b : Bool} {r : Reason} {v : Verdict} (h : b ≠ true) :
    Verdict.check (firstRefusal [(b, r)]) v = .refuse r := by
  have hb : b = false := by simpa using h
  subst hb
  rfl

theorem check_passes {l : List (Bool × Reason)} {v : Verdict} (h : ∀ x ∈ l, x.1 = true) :
    Verdict.check (firstRefusal l) v = v := by
  rw [firstRefusal_none.2 h]
  rfl

end Sys2Proof.Machine
end

section
/-! A law of the configuration, the table, the queue and the stored copies, carried from the operations behind the commands
to every step; the law of the configured records (R20, R38, R40, R41). -/

namespace Sys2Proof.Machine

/-! ### From the operations to every step -/

/-- Nothing that such a law looks at differs. -/
structure State.SameStock (s t : State) : Prop where
  cfg : t.cfg = s.cfg
  live : t.live = s.live
  waiting : t.waiting = s.waiting
  copies : t.store.copy = s.store.copy

theorem State.SameStock.of_skel {s t : State} (h : t.skel = s.skel) : s.SameStock t :=
  ⟨skel_cfg h, skel_live h, skel_waiting h, funext (skel_copy h)⟩

section Steps

variable {P : State → Prop} (same : ∀ {s t : State}, s.SameStock t → P s → P t) (hR : OpsRelate fun v u => P v → P u)

include same hR

omit hR in
theorem request_keeps_of {s t : State} {code seq : Byte} {act : Option (State → Verdict)} (hs : P s)
    (fair : ∀ f, act = some f → ∀ v, (f v).Fair (fun v u => P v → P u) v) (h : request code seq act s = .next t) :
    P t := by
  rcases request_skel h with e | ⟨f, u, hf, hu, e⟩
  · exact same (.of_skel e) hs
  · exact same (.of_skel e) ((fair f hf _).follows u hu (same (.of_skel (skel_plantHunting s)) hs))

/-- A law that every operation behind a command keeps is kept by every command but a cold start and the supply's loss. -/
theorem exec_keeps_of {i : Instr} {s t : State} (hs : P s) (h : exec i s = .next t) (hcold : ∀ m, i ≠ .coldStart m)
    (hloss : ∀ m, i ≠ .powerLoss m) : P t := by
  cases exec_shape hR i s hcold hloss with
  | request code seq act e fair => exact request_keeps_of same hs fair (e ▸ h)
  | panel c src act e fair _ =>
    rcases panelTelegram_skel (e ▸ h) with e | ⟨u, -, hf, e⟩
    · exact same (.of_skel e) hs
    · exact same (.of_skel e) (fair _ u hf (same (.of_skel (skel_portHunting s c)) hs))
  | timed due u e fair _ =>
    rcases timed_skel (e ▸ h) with e | ⟨hd, e⟩
    · exact same (.of_skel e) hs
    · exact same (.of_skel e) (fair hd hs)
  | band l x e =>
    subst e
    have h : execBandChange l x s = .next t := h
    unfold execBandChange at h
    dsimp only at h
    split at h <;> injection h with h <;> subst h
    · exact same (.of_skel (skel_settle _ _ _)) (hR.band l _ (same (s := s) ⟨rfl, rfl, rfl, rfl⟩ hs))
    · exact same (s := s) ⟨rfl, rfl, rfl, rfl⟩ hs
  | heartbeat c x e =>
    subst e
    have h : execHeartbeat c x s = .next t := h
    unfold execHeartbeat at h
    split at h <;> injection h with h <;> subst h
    · exact same (.of_skel (skel_settle _ _ _)) (hR.heartbeat c _ (same (.of_skel (skel_portHunting s c)) hs))
    · exact hs
  | changes q e =>
    subst e
    have h : execReadChanges q s = .next t := h
    unfold execReadChanges at h
    split at h
    · injection h with h
      obtain ⟨only, -, -⟩ := takeChanges_ends s.plantHunting q
      subst h
      refine same (s := s) ⟨only .settings (by decide), only .table (by decide), only .queue (by decide), ?_⟩ hs
      exact congrArg Store.copy (only .store (by decide))
    · exact request_keeps_of same hs (fun f hf => by cases hf) h
  | quiet u e only _ _ copies =>
    rw [e] at h
    injection h with h
    subst h
    exact same ⟨only .settings (by decide), only .table (by decide), only .queue (by decide), copies⟩ hs

/-- Such a law is kept by every step, where a cold start and the loss of the supply keep it too. -/
theorem step_keeps_of (cold : ∀ {s : State} (b : Bool), P s → P (s.started (s.store.cutOff b)))
    (loss : ∀ {s : State} (b : Bool), P s → P (s.unpowered b)) {s t : State} (hs : P s) (h : step s = .next t) : P t := by
  refine step_keeps_of_exec hs h (fun u l hu => same (s := u) ⟨rfl, rfl, rfl, rfl⟩ hu) (fun u hu => ?_) fun i u v hu h => ?_
  · unfold State.tick
    repeat' split
    all_goals exact same (s := u) ⟨rfl, rfl, rfl, rfl⟩ hu
  · by_cases hcold : ∃ m, i = .coldStart m
    · obtain ⟨m, rfl⟩ := hcold
      injection h with h
      exact h ▸ cold m hu
    by_cases hloss : ∃ m, i = .powerLoss m
    · obtain ⟨m, rfl⟩ := hloss
      injection h with h
      exact h ▸ loss m hu
    exact exec_keeps_of same hR hu h (not_exists.1 hcold) (not_exists.1 hloss)

end Steps

/-! ### Laws of the table that a raise keeps where the point is in use -/

theorem boundPoint_use {s : State} {l : Line} {p : Point} (h : s.boundPoint l = some p) : s.cfg.points[p].use = .line l := by
  simpa using lowestWhere_some h

theorem setPoint_points_same (s : State) (p : Point) (n : PointConfig) : (s.setPoint p n).cfg.points[p] = n := by
  simp only [State.setPoint_cfg, Fin.getElem_fin, set_get, if_true]

namespace TableKeep

variable {P : State → Prop} (hP : TableKeep P) (hraise : ∀ {s : State} {p : Point} (k : Cause), P s → s.cfg.points[p].use ≠ .unused →
  (s.raisePoint p k).keeps P) {v : State}

include hP hraise

theorem lineEvent {p : Point} (x : LineState) (h : P v) (hu : v.cfg.points[p].use ≠ .unused) : P (v.lineEvent p x) := by
  unfold State.lineEvent
  split
  · exact Effect.keeps_after (hraise _ h hu) h
  · exact Effect.keeps_after (hraise _ h hu) h
  · exact Effect.keeps_after (hP.slots.clearPoint h p) h

theorem qualify (l : Line) (h : P v) : P (v.qualify l) := by
  have h0 : P (v.setLine l fun x => { x with qualified := v.lines[l].candidate }) :=
    hP.congr h (.of_consoles rfl rfl rfl rfl rfl)
  unfold State.qualify
  dsimp only
  split
  · next p hp => exact hP.lineEvent hraise _ h0 (by rw [boundPoint_use hp]; exact PointUse.noConfusion)
  · exact h0

theorem bindingRaise {p : Point} {x y : PointUse} (h : P v) (hu : v.cfg.points[p].use = y) : P (v.bindingRaise p x y) := by
  unfold State.bindingRaise
  split
  · next l =>
    split
    · exact h
    · split
      · exact h
      · exact hP.lineEvent hraise _ h (by rw [hu]; exact PointUse.noConfusion)
  · exact h

/-- A law of the table is kept by every operation behind a command, where a raise of a point in use keeps it. -/
theorem relate : OpsRelate fun v u => P v → P u where
  raise k hu _ ht h := hraise k h hu _ ht
  clear p _ ht h := hP.slots.clearPoint h p _ ht
  qualify l h := hP.qualify hraise l h
  band {v} l b h := hP.congr (s := v) h (.of_consoles rfl rfl rfl rfl rfl)
  blank g n h := hP.congr h (.of_consoles (by simp) (by simp) (by simp) (by simp) (by simp))
  point {v c o p n} _ hr h := by
    have h0 : P ((v.setPoint p n.corrected).markAll [.point p]) :=
      hP.desks.markAll (hP.point _ h (writeRefusal_normal hr)) _
    exact hP.desks.storeWrite (hP.bindingRaise hraise h0 (by rw [State.markAll_cfg, setPoint_points_same]))
  line l n _ h := hP.congr h (.of_consoles rfl rfl rfl rfl rfl)
  levels a k x r _ h := hP.congr h (.of_consoles rfl rfl rfl rfl rfl)
  move _ _ h := hP.desks.moveArea h _ _ _
  roster {v _ _ named b g e slot} _ _ _ _ _ h := by
    unfold State.storeOperator
    refine hP.desks.storeWrite (hP.desks.requalify (hP.desks.markAll ?_ _) _)
    exact hP.congr h (.of_consoles rfl rfl rfl rfl rfl)
  suspend o _ h := hP.desks.suspend h o
  restore o _ h := hP.congr h (.of_consoles rfl rfl rfl rfl rfl)
  retire o _ h := hP.congr h (.of_consoles rfl rfl rfl rfl rfl)
  day n h := by
    unfold State.setDay
    refine hP.desks.requalify (hP.desks.markAll ?_ _) _
    exact hP.congr h (.of_consoles rfl rfl rfl rfl rfl)
  params _ _ _ h := hP.desks.storeWrite (hP.desks.takeParams h _ _)
  restart c h := hP.desks.restartPort h c
  enable c b _ h := hP.desks.setEnabled h c b
  enterNote {v} n o a k _ _ h :=
    hP.congr h (.of_consoles (by simp) (by simp) (by simp) (by simp [State.putNote]) (by simp))
  clearNote {v} n h := hP.congr h (.of_consoles (by simp) (by simp) (by simp) (by simp [State.emptyNote]) (by simp))
  acknowledge o hr hu h := hP.slots.acknowledge h o hr hu
  silence c h := hP.slots.records h (.silenced c)
  removal hr h := hP.slots.removal h hr
  removals c o h := hP.slots.removals _ h (resettable_live _ c o)
  shelve o n hr hs h := hP.slots.slot h hr (.shelve hs o n)
  endShelf hr h := hP.slots.endShelf h hr
  remind hr he h := hP.slots.slot h hr (.remind he)
  escalate hr he h := hP.slots.slot h hr (.escalate he)
  seconds c h := hP.seconds c h
  failed c n h := hP.desks.failWindow h c n
  heartbeat c b h := hP.desks.heartbeat h c b
  signIn c o h := hP.desks.signIn h c o
  comeIn c o h := hP.desks.comeIn h c o
  sessionEnd c x h := hP.desks.endSession h c x
  force c h := hP.desks.endSession (hP.desks.abortHandover h c _) c _
  abort c x h := hP.desks.abortHandover h c x
  offer {v} c o h := hP.congr h (.of_consoles (by simp) (by simp) (by simp) (by simp) (by simp))
  seen {v} c x h := hP.congr h (.of_consoles (by simp) (by simp) (by simp) (by simp) (by simp))
  accept {v} c o i h := hP.desks.after_loads h (acceptDesk_loads _ c o i) (by simp) (by simp) (by simp) (by simp)

end TableKeep

/-! ### The law of the configured records -/

section ConfigLaw

variable {s t : State}

/-- What the law asks of a record. -/
def Settings.fits (m : Settings) (r : Record) : Prop :=
  m.points[r.point].use ≠ .unused ∧ r.priority = m.points[r.point].priority ∧ r.area = m.points[r.point].area ∧
    r.cls = m.points[r.point].cls

theorem configLaw_congr (h : s.configLaw) (hl : t.live = s.live) (hw : t.waiting = s.waiting)
    (hp : t.cfg.points = s.cfg.points) : t.configLaw := by
  obtain ⟨h1, h2⟩ := h
  unfold State.configLaw
  rw [hp, hw, show t.records = s.records by unfold State.records; rw [hl]]
  exact ⟨h1, h2⟩

theorem fits_becomes {r q : Record} {m : Settings} (h : m.fits r) (hb : s.Becomes r q) : m.fits q := by
  unfold Settings.fits
  simp only [hb.point, hb.priority, hb.area, hb.cls]
  exact h

theorem configLaw_removed (h : s.configLaw) (i : Slot) (r : Record) : (s.remove i r).configLaw :=
  configLaw_congr (s := s.setSlot i none) ⟨all_setSlot_none (Q := s.cfg.fits) h.1, h.2⟩ (by simp [State.remove]) (by simp)
    (by simp)

theorem fits_admitted {u : State} {e : Entry} (h : s.cfg.points[e.point].use ≠ .unused ∧
    e.priority = s.cfg.points[e.point].priority) (hg : SameGround s u) :
    s.cfg.fits (u.annunciated (u.recordOfEntry e)) := by
  have hc := hg.cfg
  refine ⟨h.1, ?_, ?_, ?_⟩
  · exact congrArg (fun m : Settings => m.points[e.point].priority) hc
  · exact congrArg (fun m : Settings => m.points[e.point].area) hc
  · exact congrArg (fun m : Settings => m.points[e.point].cls) hc

theorem configLaw_fill (h : s.configLaw) : s.fill.configLaw := by
  obtain ⟨h1, h2⟩ := h
  unfold State.configLaw
  rw [State.fill_cfg]
  exact ⟨all_fill (Q := s.cfg.fits) h1 fun e he u hu => fits_admitted (h2 e he) hu,
    fun e he => h2 e ((fill_waiting s).subset he)⟩

theorem configLaw_slots : SlotKeep State.configLaw where
  congr h e := configLaw_congr h e.live e.waiting e.points
  slot {s i r q} h hr hb :=
    ⟨all_setSlot_some (Q := s.cfg.fits) h.1 (fits_becomes (all_at (Q := s.cfg.fits) h.1 hr) hb), h.2⟩
  records {s f} h hf := by
    unfold State.configLaw
    rw [State.mapRecords_cfg, State.mapRecords_waiting]
    exact ⟨all_mapRecords (Q := s.cfg.fits) h.1 fun r _ hr => fits_becomes hr (hf r), h.2⟩
  removals l h _ := configLaw_fill (removed_keeps (P := State.configLaw) (fun _ i r hu => configLaw_removed hu i r) l h)
  entry {s p f} h hf := by
    refine ⟨h.1, fun e he => ?_⟩
    simp only [State.setEntry, List.mem_map] at he
    obtain ⟨x, hx, rfl⟩ := he
    split
    · next e =>
      simp only [(hf x e).point, (hf x e).priority]
      exact h.2 x hx
    · exact h.2 x hx
  drop p h := ⟨h.1, fun e he => h.2 e (List.mem_filter.1 he).1⟩

theorem configLaw_raise {p : Point} (k : Cause) (h : s.configLaw) (hu : s.cfg.points[p].use ≠ .unused) :
    (s.raisePoint p k).keeps State.configLaw := by
  refine configLaw_slots.raise_of_normal h fun _ _ => ?_
  unfold State.raiseNormal
  split
  · next i _ =>
    refine configLaw_congr (s := s.setSlot i (some (s.annunciated (s.freshRecord p k))))
      ⟨all_setSlot_some (Q := s.cfg.fits) h.1 ⟨hu, rfl, rfl, rfl⟩, h.2⟩ ?_ (by simp) (by simp)
    simp [State.admitRecord, State.annunciate]
  · refine ⟨h.1, fun e he => ?_⟩
    rcases (mem_insertEntry _ _ _).1 he with rfl | he
    · exact ⟨hu, rfl⟩
    · exact h.2 e he

theorem configLaw_keep : TableKeep State.configLaw where
  slots := configLaw_slots
  congr h e := configLaw_congr h e.live e.waiting e.points
  reroute {s} h := by
    unfold State.configLaw
    rw [State.reroute_cfg, State.reroute_waiting]
    refine ⟨all_reroute (Q := s.cfg.fits) h.1 fun r _ hr _ => ?_, h.2⟩
    obtain ⟨hp, hpr, ha, hc, -⟩ := moved_same s r (s.routeOf r.area)
    unfold Settings.fits
    simp only [hp, hpr, ha, hc]
    exact hr
  point {s p} n h hn := by
    obtain ⟨hf, he⟩ := statusOf_normal hn
    refine ⟨fun r hr => ?_, fun e he' => ?_⟩
    · rw [setPoint_points_other p r.point n (records_of_find_none hf r hr)]
      exact h.1 r hr
    · rw [setPoint_points_other p e.point n (entryOf_none he e he')]
      exact h.2 e he'
  seconds {s} c h := by
    unfold State.configLaw
    rw [State.secondsEnd_cfg, State.secondsEnd_waiting]
    exact ⟨secondsEnd_all (Q := s.cfg.fits) c h.1 fun r hr => hr, h.2⟩
  later h := h
  cold b := ⟨fun r hr => by rw [started_records] at hr; exact absurd hr List.not_mem_nil,
    fun e he => absurd he List.not_mem_nil⟩

end ConfigLaw

/-- Settles O13: only a raise makes a record or an entry of a point that had none, and every raise is of a point in use;
a configuration is written while the point has neither. -/
theorem stepsKeepRecordsConfigured : Obligations.StepsKeepRecordsConfigured :=
  fun _ _ hs h => step_keeps_of (fun e h => configLaw_congr h e.live e.waiting (by rw [e.cfg]))
    (configLaw_keep.relate fun k h hu => configLaw_raise k h hu) (fun b _ => configLaw_keep.cold b) (fun _ h => h) hs h

end Sys2Proof.Machine
end

section
/-! The law of the stored contents (R1, R6, R18 to R20, R115 to R117, R128, R158 and the ranges of 10.4): what each write
makes of the contents, and that a store write carries them to a copy. -/

namespace Sys2Proof.Machine

/-- Contents that are lawful, and that a load would not have to correct. -/
structure Settings.sound (m : Settings) : Prop where
  lawful : m.lawful
  storable : m.storable

/-! ### What a write makes of the contents -/

section Contents

variable {m : Settings}

theorem sound_lines (h : m.sound) (x : Vector LineConfig 32) : ({ m with lines := x } : Settings).sound := by
  obtain ⟨⟨h1, h2, h3, h4, h5, h6, h7, h8, h9, h10⟩, ⟨k1, k2, k3⟩⟩ := h
  exact ⟨⟨h1, h2, h3, h4, h5, h6, h7, h8, h9, h10⟩, ⟨k1, k2, k3⟩⟩

theorem sound_enabled (h : m.sound) (x : Vector Bool 8) : ({ m with enabled := x } : Settings).sound := by
  obtain ⟨⟨h1, h2, h3, h4, h5, h6, h7, h8, h9, h10⟩, ⟨k1, k2, k3⟩⟩ := h
  exact ⟨⟨h1, h2, h3, h4, h5, h6, h7, h8, h9, h10⟩, ⟨k1, k2, k3⟩⟩

/-- A point configuration that may be stored (R19, R20). -/
theorem sound_point (h : m.sound) {p : Point} {n : PointConfig} (hp1 : n.priority = .p1 → n.shelvable = false)
    (hs : 1 ≤ n.maxShelf ∧ n.maxShelf ≤ 480)
    (hl : ∀ (q : Point) (l : Line), m.points[q].use = .line l → n.use = .line l → q = p) :
    ({ m with points := m.points.set p.val n p.isLt } : Settings).sound := by
  obtain ⟨⟨h1, h2, h3, h4, h5, h6, h7, h8, h9, h10⟩, ⟨k1, k2, k3⟩⟩ := h
  refine ⟨⟨h1, h2, fun q => ?_, fun q => ?_, fun q r l => ?_, h6, h7, h8, h9, h10⟩, ⟨k1, k2, k3⟩⟩
  · simp only [Fin.getElem_fin, set_get]
    split
    · exact hp1
    · exact h3 q
  · simp only [Fin.getElem_fin, set_get]
    split
    · exact hs
    · exact h4 q
  · simp only [Fin.getElem_fin, set_get]
    split <;> split
    · next e e' => exact fun _ _ => e.trans e'.symm
    · next e _ => exact fun a b => e.trans (hl r l b a).symm
    · next e => exact fun a b => (hl q l a b).trans e.symm
    · exact h5 q r l

/-- An area that may be stored (R1, R4, R6). -/
theorem sound_area (h : m.sound) {a : Area} {f : AreaConfig → AreaConfig}
    (ho : (f m.areas[a]).owner = none ∨ (f m.areas[a]).fallback ≠ (f m.areas[a]).owner)
    (hl : 2 ≤ (f m.areas[a]).ackLevel ∧ 3 ≤ (f m.areas[a]).shelveLevel ∧ 2 ≤ (f m.areas[a]).resetLevel) :
    ({ m with areas := upd m.areas a f } : Settings).sound := by
  obtain ⟨⟨h1, h2, h3, h4, h5, h6, h7, h8, h9, h10⟩, ⟨k1, k2, k3⟩⟩ := h
  refine ⟨⟨fun b => ?_, fun b => ?_, h3, h4, h5, h6, h7, h8, h9, h10⟩, ⟨k1, k2, k3⟩⟩
  · simp only [Fin.getElem_fin, upd_get]
    split
    · next e => subst e; exact ho
    · exact h1 b
  · simp only [Fin.getElem_fin, upd_get]
    split
    · next e => subst e; exact hl
    · exact h2 b

/-- A roster slot that may be stored (R115 to R117, R128). -/
theorem sound_operator (h : m.sound) {o : Operator} {x : Option OperatorRecord}
    (hx : ∀ r, x = some r → r.badge ≠ 0 ∧ r.expiry ≠ some 0 ∧
      ∀ (q : Operator) (y : OperatorRecord), m.roster[q] = some y → y.badge = r.badge → q = o) :
    ({ m with roster := m.roster.set o.val x o.isLt } : Settings).sound := by
  obtain ⟨⟨h1, h2, h3, h4, h5, h6, h7, h8, h9, h10⟩, ⟨k1, k2, k3⟩⟩ := h
  refine ⟨⟨h1, h2, h3, h4, h5, fun p q r y => ?_, fun q r => ?_, fun q r => ?_, h9, h10⟩, ⟨k1, k2, k3⟩⟩
  · simp only [Fin.getElem_fin, set_get]
    split <;> split
    · next e e' => exact fun _ _ _ => e.trans e'.symm
    · next e _ => exact fun hr hy hb => e.trans ((hx r hr).2.2 q y hy hb.symm).symm
    · next e => exact fun hr hy hb => ((hx y hy).2.2 p r hr hb).trans e.symm
    · exact h6 p q r y
  · simp only [Fin.getElem_fin, set_get]
    split
    · exact fun e => (hx r e).1
    · exact h7 q r
  · simp only [Fin.getElem_fin, set_get]
    split
    · exact fun e => (hx r e).2.1
    · exact h8 q r

/-- A change of a status leaves what is asked of a slot. -/
theorem sound_status (h : m.sound) (o : Operator) (st : OperatorStatus) :
    ({ m with roster := m.roster.set o.val (m.roster[o].map fun r => { r with status := st }) o.isLt } : Settings).sound := by
  refine sound_operator h fun r hr => ?_
  obtain ⟨y, hy, rfl⟩ := Option.map_eq_some_iff.1 hr
  exact ⟨h.lawful.badged o y hy, h.lawful.expiries o y hy, fun q z hz hb => h.lawful.badges q o z y hz hy hb⟩

/-- A note that may be stored (R158). -/
structure NoteRecord.sound (r : NoteRecord) : Prop where
  some : r.text ≠ []
  printing : ∀ b ∈ r.text, 32 ≤ b.toNat ∧ b.toNat ≤ 126
  short : r.text.length ≤ 48

theorem sound_notes (h : m.sound) {x : Vector (Option NoteRecord) 32}
    (hx : ∀ (n : Note) (r : NoteRecord), x[n] = some r → r.sound) : ({ m with notes := x } : Settings).sound := by
  obtain ⟨⟨h1, h2, h3, h4, h5, h6, h7, h8, h9, h10⟩, ⟨k1, k2, k3⟩⟩ := h
  exact ⟨⟨h1, h2, h3, h4, h5, h6, h7, h8, fun n r hr => ⟨(hx n r hr).some, (hx n r hr).printing⟩, h10⟩,
    ⟨fun n r hr => (hx n r hr).short, k2, k3⟩⟩

theorem note_sound (h : m.sound) {n : Note} {r : NoteRecord} (hr : m.notes[n] = some r) : r.sound :=
  ⟨(h.lawful.texts n r hr).1, (h.lawful.texts n r hr).2, h.storable.noteLength n r hr⟩

theorem sound_note (h : m.sound) {n : Note} {x : Option NoteRecord} (hx : ∀ r, x = some r → r.sound) :
    ({ m with notes := m.notes.set n.val x n.isLt } : Settings).sound := by
  refine sound_notes h fun k r hr => ?_
  simp only [Fin.getElem_fin, set_get] at hr
  split at hr
  · exact hx r hr
  · exact note_sound h hr

theorem floodOffStored_lt {x : Nat} (y : Nat) (hx : 256 ≤ x) : floodOffStored x y < x := by
  unfold floodOffStored
  split <;> omega

/-- A value that its owner takes leaves every parameter in its range (R84, R102, R136, R164, R30). -/
theorem sound_params (h : m.sound) {w : Parameter} {x y : Nat} {p : Params} (hx : x < 65536)
    (hw : m.params.write w x y = some p) : ({ m with params := p } : Settings).sound := by
  obtain ⟨⟨h1, h2, h3, h4, h5, h6, h7, h8, h9, ⟨p1, p2, p3, p4, p5, p6, p7, p8⟩⟩, ⟨k1, k2, k3⟩⟩ := h
  unfold Params.write at hw
  cases w with
  | escalation i =>
    obtain ⟨hv, ⟨⟩⟩ := Option.ite_none_right_eq_some.1 hw
    simp only [EscalationTimes.valid, Bool.and_eq_true, decide_eq_true_eq, Bool.or_eq_true, beq_iff_eq] at hv
    refine ⟨⟨h1, h2, h3, h4, h5, h6, h7, h8, h9, ⟨fun j => ?_, p2, p3, p4, p5, p6, p7, p8⟩⟩, ⟨k1, k2, k3⟩⟩
    simp only [Fin.getElem_fin, set_get]
    split
    · exact ⟨hv.1.1, hv.1.2, or_assoc.1 hv.2⟩
    · exact p1 j
  | floodThresholds =>
    obtain ⟨hv, ⟨⟩⟩ := Option.ite_none_right_eq_some.1 hw
    refine ⟨⟨h1, h2, h3, h4, h5, h6, h7, h8, h9, ⟨p1, ⟨hv, ?_⟩, p3, p4, p5, p6, p7, p8⟩⟩, ⟨k1, k2, Nat.le_of_lt_succ hx⟩⟩
    exact floodOffStored_lt y hv
  | windowPeriod =>
    obtain ⟨hv, ⟨⟩⟩ := Option.ite_none_right_eq_some.1 hw
    simp only [validWindow, Bool.and_eq_true, decide_eq_true_eq, beq_iff_eq] at hv
    exact ⟨⟨h1, h2, h3, h4, h5, h6, h7, h8, h9, ⟨p1, p2, and_assoc.1 hv, p4, p5, p6, p7, p8⟩⟩, ⟨k1, k2, k3⟩⟩
  | lockedFraction =>
    obtain ⟨hv, ⟨⟩⟩ := Option.ite_none_right_eq_some.1 hw
    simp only [validLocked, Bool.or_eq_true, beq_iff_eq] at hv
    exact ⟨⟨h1, h2, h3, h4, h5, h6, h7, h8, h9, ⟨p1, p2, p3, or_assoc.1 hv, p5, p6, p7, p8⟩⟩, ⟨k1, k2, k3⟩⟩
  | failLimit =>
    obtain ⟨hv, ⟨⟩⟩ := Option.ite_none_right_eq_some.1 hw
    simp only [validFailLimit, Bool.and_eq_true, decide_eq_true_eq] at hv
    exact ⟨⟨h1, h2, h3, h4, h5, h6, h7, h8, h9, ⟨p1, p2, p3, p4, hv, p6, p7, p8⟩⟩, ⟨k1, k2, k3⟩⟩
  | graceTime =>
    obtain ⟨hv, ⟨⟩⟩ := Option.ite_none_right_eq_some.1 hw
    simp only [validGrace, Bool.and_eq_true, decide_eq_true_eq] at hv
    exact ⟨⟨h1, h2, h3, h4, h5, h6, h7, h8, h9, ⟨p1, p2, p3, p4, p5, hv, p7, p8⟩⟩, ⟨k1, k2, k3⟩⟩
  | offerTime =>
    obtain ⟨hv, ⟨⟩⟩ := Option.ite_none_right_eq_some.1 hw
    simp only [validOffer, Bool.and_eq_true, decide_eq_true_eq] at hv
    exact ⟨⟨h1, h2, h3, h4, h5, h6, h7, h8, h9, ⟨p1, p2, p3, p4, p5, p6, hv, p8⟩⟩, ⟨k1, k2, k3⟩⟩
  | reviewTime =>
    obtain ⟨hv, ⟨⟩⟩ := Option.ite_none_right_eq_some.1 hw
    simp only [validReview, Bool.and_eq_true, decide_eq_true_eq] at hv
    exact ⟨⟨h1, h2, h3, h4, h5, h6, h7, h8, h9, ⟨p1, p2, p3, p4, p5, p6, p7, hv⟩⟩, ⟨k1, k2, k3⟩⟩
  | blankTime g =>
    obtain ⟨hv, ⟨⟩⟩ := Option.ite_none_right_eq_some.1 hw
    simp only [validBlank, Bool.and_eq_true, decide_eq_true_eq] at hv
    refine ⟨⟨h1, h2, h3, h4, h5, h6, h7, h8, h9, ⟨p1, p2, p3, p4, p5, p6, p7, p8⟩⟩, ⟨k1, fun j => ?_, k3⟩⟩
    simp only [Fin.getElem_fin, set_get]
    split
    · exact hv
    · exact k2 j

end Contents

/-! ### The operations -/

section SettingsLaw

variable {s t : State}

theorem settingsLaw_iff (s : State) : s.settingsLaw ↔ s.cfg.sound ∧ s.store.storable :=
  ⟨fun h => ⟨⟨h.blocks, h.storable⟩, h.copies⟩, fun h => ⟨h.1.lawful, h.1.storable, h.2⟩⟩

theorem settingsLaw_congr (h : s.settingsLaw) (hc : t.cfg = s.cfg) (hs : t.store.copy = s.store.copy) : t.settingsLaw := by
  obtain ⟨h1, h2⟩ := (settingsLaw_iff s).1 h
  refine (settingsLaw_iff t).2 ⟨hc ▸ h1, fun w k hk => h2 w k ?_⟩
  rw [← hs]
  exact hk

theorem write_storable {st : Store} {m : Settings} (h : st.storable) (hm : m.storable) (n : Nat) :
    (st.write n m).storable := by
  obtain ⟨w, -, -, hother, hgood, hbad⟩ := write_wroteImage st n m
  intro x k hk
  by_cases hx : x = w
  · subst hx
    cases hr : Config.storeReadsBack n with
    | true =>
      rw [(hgood hr).1] at hk
      cases hk
      exact hm
    | false =>
      rcases (hbad hr).1 with e | e
      · exact h x k (e ▸ hk)
      · rw [e] at hk
        cases hk
  · have ho : x = w.other := by cases x <;> cases w <;> first | rfl | exact absurd rfl hx
    subst ho
    exact h _ k (hother ▸ hk)

/-- A write of contents that may be stored, with the store write that follows it. -/
theorem settingsLaw_written (h : s.settingsLaw) (hc : t.cfg.sound) (hs : t.store = s.store) : t.storeWrite.settingsLaw := by
  refine (settingsLaw_iff _).2 ⟨hc, ?_⟩
  rw [State.storeWrite_store, hs]
  exact write_storable h.copies hc.storable _

theorem sound_of (h : s.settingsLaw) : s.cfg.sound := ((settingsLaw_iff s).1 h).1

theorem corrected_unshelvable (n : PointConfig) (h : n.corrected.priority = .p1) : n.corrected.shelvable = false := by
  have h : n.priority = .p1 := h
  simp [PointConfig.corrected, h]

/-- A line that may be bound to a point is named by no other (R20 check 4). -/
theorem lineFree_iff (s : State) (p : Point) (l : Line) : s.lineFree p (.line l) = true ↔
    ∀ q, s.boundPoint l = some q → q = p := by
  unfold State.lineFree
  cases hb : s.boundPoint l with
  | none => simp [hb]
  | some q => simp [hb]

theorem settingsLaw_point {c : Console} {o : Option Operator} {p : Point} {n : PointConfig} (h : s.settingsLaw)
    (hr : s.pointWriteRefusal c o p n.corrected = none) : (s.setPoint p n.corrected).cfg.sound := by
  have hk := firstRefusal_none.1 hr
  have hs : 1 ≤ n.corrected.maxShelf ∧ n.corrected.maxShelf ≤ 480 := by
    simpa using hk (1 ≤ n.corrected.maxShelf && n.corrected.maxShelf ≤ 480, .badValue) (by simp)
  have hl : s.lineFree p n.corrected.use = true := hk (s.lineFree p n.corrected.use, .badValue) (by simp)
  refine sound_point (sound_of h) (corrected_unshelvable n) hs fun q l hq hn => ?_
  rw [hn] at hl
  cases hb : s.boundPoint l with
  | none => exact absurd hq (by simpa using (lowestWhere_none _).1 hb q)
  | some r =>
    rw [h.blocks.bound q r l hq (boundPoint_use hb)]
    exact (lineFree_iff s p l).1 hl r hb

theorem settingsLaw_roster {c : Console} {o named : Option Operator} {b : Badge} {g : Vector Level 12} {e : Option Nat}
    {slot : Operator} (h : s.settingsLaw) (hb : b ≠ 0) (he : e ≠ some 0)
    (hr : s.rosterWriteRefusal c o named b g e = none) (hslot : s.rosterSlot named = some slot) :
    (s.setRoster slot (some (rosterRecord (s.rosterTarget named) b g e))).cfg.sound := by
  have hf : s.badgeFree b (s.rosterSlot named) = true :=
    firstRefusal_none.1 hr (s.badgeFree b (s.rosterSlot named), .badgeInUse) (by simp)
  refine sound_operator (sound_of h) fun r hr => ?_
  cases hr
  refine ⟨hb, he, fun q y hy hyb => ?_⟩
  have := List.all_eq_true.1 hf q (List.mem_finRange q)
  rw [hslot, hy] at this
  have hyb : y.badge = b := hyb
  simpa [hyb] using this

theorem newNote_sound (s : State) (o : Option Operator) (a : Area) (k : NoteKind) {x : List Byte} (hx : x ≠ []) :
    (s.newNote o a k x).sound := by
  refine ⟨?_, fun b hb => ?_, ?_⟩
  · cases x with
    | nil => exact absurd rfl hx
    | cons b l => simp [State.newNote, noteText]
  · obtain ⟨y, -, rfl⟩ := List.mem_map.1 hb
    exact noteCharacter_range y
  · show (noteText x).length ≤ 48
    simp only [noteText, List.length_map, List.length_take]
    omega

theorem orphaned_sound (h : s.settingsLaw) (o : Operator) (n : Note) (r : NoteRecord) (hr : (s.orphaned o)[n] = some r) :
    r.sound := by
  simp only [State.orphaned, Fin.getElem_fin, Vector.getElem_ofFn] at hr
  split at hr
  · obtain ⟨y, hy, rfl⟩ := Option.map_eq_some_iff.1 hr
    have hn := note_sound (sound_of h) hy
    exact ⟨hn.some, hn.printing, hn.short⟩
  · exact note_sound (sound_of h) hr

theorem withLevels_range (x : AreaConfig) (k h r : Level) : 2 ≤ (x.withLevels k h r).ackLevel ∧
    3 ≤ (x.withLevels k h r).shelveLevel ∧ 2 ≤ (x.withLevels k h r).resetLevel :=
  ⟨le_max_left _ _, le_max_left _ _, le_max_left _ _⟩

/-- The law of the stored contents is kept by every operation behind a command. -/
theorem settingsLaw_relate : OpsRelate fun v u => v.settingsLaw → u.settingsLaw where
  raise {v p} k _ u hu h := by
    have e : (v.raisePoint p k).after v = u := by simp [Effect.after, hu]
    exact settingsLaw_congr h (by rw [← e]; simp) (by rw [← e]; simp)
  clear {v} p u hu h := by
    have e : (v.clearPoint p).after v = u := by simp [Effect.after, hu]
    exact settingsLaw_congr h (by rw [← e]; simp) (by rw [← e]; simp)
  qualify l h := settingsLaw_congr h (by simp) (by simp)
  band l b h := settingsLaw_congr h rfl rfl
  blank g n h := settingsLaw_congr h (by simp) (by simp)
  point _ hr h := settingsLaw_written h (by simpa using settingsLaw_point h hr) (by simp)
  line l n _ h := settingsLaw_written h (sound_lines (sound_of h) _) rfl
  levels {v} a k x r _ h := settingsLaw_written h
    (sound_area (sound_of h) (h.blocks.fallback a) (withLevels_range v.cfg.areas[a] k x r)) rfl
  move {v _ _ a x y} _ hr h := by
    have hxy : (x.isNone || x != y) = true :=
      firstRefusal_none.1 hr (x.isNone || x != y, .badValue) (by simp)
    have hs : (v.setArea a fun k => { k with owner := x, fallback := y }).cfg.sound := by
      refine sound_area (sound_of h) ?_ (h.blocks.levels a)
      simp only [Bool.or_eq_true, Option.isNone_iff_eq_none, bne_iff_ne] at hxy
      exact hxy.imp id Ne.symm
    unfold State.moveArea
    refine settingsLaw_written h ?_ ?_
    · rw [State.markAll_cfg]
      split
      · rw [State.rerouteStep_cfg]
        exact hs
      · rw [State.requalify_cfg, State.rerouteStep_cfg]
        exact hs
    · rw [State.markAll_store]
      split <;> simp
  roster _ hb he hr hs h := by
    unfold State.storeOperator
    exact settingsLaw_written h (by simpa using settingsLaw_roster h hb he hr hs) (by simp)
  suspend {v} o _ h := by
    unfold State.suspend
    have hc : (v.suspend o).cfg = (v.setStatus o .suspended).cfg := suspend_cfg v o
    refine settingsLaw_written h ?_ ?_
    · exact hc ▸ sound_status (sound_of h) o _
    · simp only [State.markAll_store, State.endSuspended_store]
      exact DeskKeep.foldl (P := fun u => u.store = v.store) _ (fun u c hu => by rw [State.abortHandover_store, hu]) rfl
  restore o _ h := settingsLaw_written h (sound_status (sound_of h) o _) rfl
  retire {v} o _ h := by
    have h1 : (v.setRoster o none).cfg.sound := sound_operator (sound_of h) fun r hr => by cases hr
    refine settingsLaw_written h (sound_notes h1 (x := v.orphaned o) fun n r hr => orphaned_sound h o n r hr) rfl
  day n h := settingsLaw_congr h (by simp [State.setDay]) (by simp [State.setDay])
  params {v w x y p} _ hx hw h := by
    refine settingsLaw_written h ?_ (by simp)
    rw [takeParams_cfg]
    exact sound_params (sound_of h) hx hw
  restart c h := settingsLaw_congr h (by simp) (by simp)
  enable {v} c b _ h := by
    unfold State.setEnabled
    refine settingsLaw_written h ?_ (by simp)
    rw [State.reroute_cfg]
    exact sound_enabled (sound_of h) _
  enterNote {v} n o a k x hx h := by
    unfold State.putNote
    refine settingsLaw_written h ?_ (by simp)
    have hs : (v.setNote n (some (v.newNote o a k x))).cfg.sound :=
      sound_note (sound_of h) fun r hr => by cases hr; exact newNote_sound v o a k hx
    simpa using hs
  clearNote {v} n h := by
    unfold State.emptyNote
    refine settingsLaw_written h ?_ (by simp)
    have hs : (v.setNote n none).cfg.sound := sound_note (sound_of h) fun r hr => by cases hr
    simpa using hs
  acknowledge o _ _ h := settingsLaw_congr h (by simp) (by simp)
  silence c h := settingsLaw_congr h (by simp) (by simp)
  removal _ h := settingsLaw_congr h (by simp) (by simp)
  removals c o h := settingsLaw_congr h (by simp) (by simp)
  shelve o n _ _ h := settingsLaw_congr h rfl rfl
  endShelf _ h := settingsLaw_congr h (by simp) (by simp)
  remind _ _ h := settingsLaw_congr h rfl rfl
  escalate _ _ h := settingsLaw_congr h rfl rfl
  seconds c h := settingsLaw_congr h (by simp) (by simp)
  failed c n h := settingsLaw_congr h (by simp) (by simp)
  heartbeat c b h := settingsLaw_congr h (by simp) (by simp)
  signIn c o h := settingsLaw_congr h (by simp) (by simp)
  comeIn c o h := settingsLaw_congr h (by simp) (by simp)
  sessionEnd c x h := settingsLaw_congr h (by simp) (by simp)
  force c h := settingsLaw_congr h (by simp) (by simp)
  abort c x h := settingsLaw_congr h (by simp) (by simp)
  offer c o h := settingsLaw_congr h (by simp) (by simp)
  seen c x h := settingsLaw_congr h (by simp) (by simp)
  accept c o i h := settingsLaw_congr h (by simp) (by simp)

end SettingsLaw

/-- Settles O18: every write leaves contents that may be stored, and a store write carries those alone. -/
theorem stepsKeepTheSettings : Obligations.StepsKeepTheSettings :=
  fun _ _ hs h => step_keeps_of (fun e h => settingsLaw_congr h e.cfg e.copies) settingsLaw_relate
    (fun b h => started_settingsLaw _ (cutOff_storable h.copies b))
    (fun {s} b h => (settingsLaw_iff _).2 ⟨sound_of (s := s) h, cutOff_storable h.copies b⟩) hs h

end Sys2Proof.Machine
end

section
/-! The bytes of numbers, times and codes as chapter 11 lists them, said once; the layouts of the ten reads, of an answer
and of READ_CHANGES. -/

namespace Sys2Proof.Machine

/-! ### Numbers and times -/

theorem byteOf_mod {n k : Nat} (h : n % 256 = k % 256) : BitVec.ofNat 8 n = BitVec.ofNat 8 k :=
  BitVec.eq_of_toNat_eq (by simpa using h)

theorem half_bytes (n : Nat) : bytesOf16 n = [BitVec.ofNat 8 (n / 256), BitVec.ofNat 8 n] := by
  unfold bytesOf16
  rw [ofHalf_eq, BitVec.toNat_ofNat]
  refine congrArg₂ (fun x y => [x, y]) (byteOf_mod ?_) (byteOf_mod ?_) <;> omega

theorem word_bytes (w : BitVec 32) : Bytes.ofWord w =
    [BitVec.ofNat 8 (w.toNat / 65536 / 256), BitVec.ofNat 8 (w.toNat / 65536), BitVec.ofNat 8 (w.toNat / 256),
      BitVec.ofNat 8 w.toNat] := by
  have part : ∀ k, w.extractLsb' k 8 = BitVec.ofNat 8 (w.toNat / 2 ^ k) := fun k => by
    apply BitVec.eq_of_toNat_eq
    simp [BitVec.extractLsb'_toNat, Nat.shiftRight_eq_div_pow]
  unfold Bytes.ofWord
  rw [part, part, part, part, Nat.div_div_eq_div_mul, Nat.pow_zero, Nat.div_one]
  rfl

theorem badge_bytes (b : Badge) : Bytes.ofBadge b =
    [BitVec.ofNat 8 (b.toNat / 65536), BitVec.ofNat 8 (b.toNat / 256), BitVec.ofNat 8 b.toNat] := by
  have part : ∀ k, b.extractLsb' k 8 = BitVec.ofNat 8 (b.toNat / 2 ^ k) := fun k => by
    apply BitVec.eq_of_toNat_eq
    simp [BitVec.extractLsb'_toNat, Nat.shiftRight_eq_div_pow]
  unfold Bytes.ofBadge
  rw [part, part, part, Nat.pow_zero, Nat.div_one]
  rfl

/-- A time is four bytes, and which they are where they can hold it. -/
theorem time_bytes (t : Nat) : ∃ a b c d, bytesOfTime t = [a, b, c, d] ∧ (t < 4294967296 →
    a = BitVec.ofNat 8 (t / 65536 / 256) ∧ b = BitVec.ofNat 8 (t / 65536) ∧ c = BitVec.ofNat 8 (t / 256) ∧
      d = BitVec.ofNat 8 t) := by
  refine ⟨_, _, _, _, word_bytes _, fun h => ?_⟩
  rw [if_pos h, BitVec.toNat_ofNat, Nat.mod_eq_of_lt h]
  exact ⟨rfl, rfl, rfl, rfl⟩

/-- A time from now is two bytes, and which they are where they can hold it. -/
theorem span_bytes (now : Nat) (o : Option Nat) : ∃ a b, bytesOfSpan now o = [a, b] ∧
    (o = none → a = BitVec.ofNat 8 (65535 / 256) ∧ b = BitVec.ofNat 8 65535) ∧
    ∀ t ∈ o, t - now < 65535 → a = BitVec.ofNat 8 ((t - now) / 256) ∧ b = BitVec.ofNat 8 (t - now) := by
  cases o with
  | none => exact ⟨_, _, rfl, fun _ => ⟨rfl, rfl⟩, fun t h => absurd h (by simp)⟩
  | some x =>
    refine ⟨_, _, ofHalf_eq _, fun h => absurd h (by simp), fun t h ht => ?_⟩
    obtain rfl := Option.mem_some_iff.1 h
    rw [if_pos ht, BitVec.toNat_ofNat, Nat.mod_eq_of_lt (by omega)]
    exact ⟨rfl, rfl⟩

/-! ### Codes -/

section Codes

theorem flag_byte (b : Bool) : flagByte b = BitVec.ofNat 8 (flagCode b) := by cases b <;> rfl

theorem console_byte (c : Option Console) : consoleByte c = BitVec.ofNat 8 (consoleCode c) := by cases c <;> rfl

theorem operator_byte (o : Option Operator) : operatorByte o = BitVec.ofNat 8 (operatorCode o) := by cases o <;> rfl

theorem group_byte (g : Option Group) : groupByte g = BitVec.ofNat 8 (groupCode g) := by cases g <;> rfl

theorem use_byte (u : PointUse) : useByte u = BitVec.ofNat 8 (useCode u) := by cases u <;> rfl

theorem useLine_byte (u : PointUse) : useLineByte u = BitVec.ofNat 8 (useLineCode u) := by cases u <;> rfl

theorem rank_eq (p : Priority) : p.rank = priorityCode p := by cases p <;> rfl

theorem class_byte (k : AlarmClass) : classByte k = BitVec.ofNat 8 (classCode k) := by cases k <;> rfl

theorem sense_byte (x : Sense) : senseByte x = BitVec.ofNat 8 (senseCode x) := by cases x <;> rfl

theorem filter_byte (x : FilterTime) : filterByte x = BitVec.ofNat 8 (filterCode x) := by cases x <;> rfl

theorem noteKind_byte (x : NoteKind) : noteKindByte x = BitVec.ofNat 8 (noteKindCode x) := by cases x <;> rfl

theorem state_byte (x : RecordState) : recordStateByte x = BitVec.ofNat 8 (stateCode x) := by cases x <;> rfl

theorem condition_byte (x : Condition) : conditionByte x = BitVec.ofNat 8 (conditionCode x) := by cases x <;> rfl

theorem cause_byte (x : Cause) : causeByte x = BitVec.ofNat 8 (causeCode x) := by cases x <;> rfl

theorem band_byte (x : Band) : bandByte x = BitVec.ofNat 8 (bandCode x) := by cases x <;> rfl

theorem lineState_byte (x : LineState) : lineStateByte x = BitVec.ofNat 8 (lineStateCode x) := by cases x <;> rfl

theorem link_byte (x : Link) : linkByte x = BitVec.ofNat 8 (linkCode x) := by cases x <;> rfl

theorem session_byte (x : Session) : sessionByte x = BitVec.ofNat 8 (sessionCode x) := by cases x <;> rfl

theorem pattern_byte (x : Pattern) : patternByte x = BitVec.ofNat 8 (patternCode x) := by
  cases x with
  | silent => rfl
  | sounding p => cases p <;> rfl

theorem endCause_byte (x : Option EndCause) : endCauseByte x = BitVec.ofNat 8 (endCauseCode x) := by
  cases x with
  | none => rfl
  | some x => cases x <;> rfl

theorem phase_byte (x : Phase) : phaseByte x = BitVec.ofNat 8 (phaseCode x) := by cases x <;> rfl

theorem outcome_byte (x : Option HandoverOutcome) : handoverOutcomeByte x = BitVec.ofNat 8 (outcomeCode x) := by
  cases x with
  | none => rfl
  | some x => cases x <;> rfl

theorem operatorStatus_byte (x : OperatorStatus) : operatorStatusByte x = BitVec.ofNat 8 (operatorStatusCode x) := by
  cases x <;> rfl

theorem result_byte (x : Result) : resultByte x = BitVec.ofNat 8 (resultCode x) := by
  cases x with
  | none => rfl
  | some x => cases x <;> rfl

theorem parameter_code (x : Parameter) : x.code = parameterCode x := by cases x <;> rfl

theorem ref_bytes (r : Ref) : r.bytes = [BitVec.ofNat 8 (refKindCode r), BitVec.ofNat 8 (refNumber r)] := by
  cases r <;> rfl

end Codes

/-! ### Layouts read at an offset -/

theorem byteAt_append {pre d : List Byte} {k j n : Nat} (hk : k = pre.length + j) (h : byteAt d j n) :
    byteAt (pre ++ d) k n := by
  unfold byteAt at *
  rw [hk, List.getElem?_append_right (by omega), Nat.add_sub_cancel_left]
  exact h

theorem zeros_at (n : Nat) (j : Fin n) : (zeros n)[j.val]? = some 0 := by
  unfold zeros
  rw [List.getElem?_replicate, if_pos j.isLt]

theorem ticks_eq (x : FilterTime) : x.ticks = filterTicks x := by cases x <;> rfl

theorem values_eq (p : Params) (w : Parameter) : p.values w = parameterValues p w := by cases w <;> rfl

theorem deadlineOf_eq (s : State) (l : Line) : qualificationDeadline s.cfg.lines[l] s.lines[l] = s.deadlineOf l := by
  unfold qualificationDeadline State.deadlineOf
  rw [ticks_eq]

theorem blankEndOf_eq (s : State) (l : Line) : s.blankEndFor s.cfg.lines[l] = s.blankEndOf l := by
  unfold State.blankEndFor State.blankEndOf
  cases s.cfg.lines[l].group <;> rfl

/-- A point configuration as sent: nine bytes. -/
theorem pointBytes_eq (p : Point) (x : PointConfig) : pointBytes p x =
    [BitVec.ofNat 8 p.val, BitVec.ofNat 8 (useCode x.use), BitVec.ofNat 8 (useLineCode x.use), BitVec.ofNat 8 x.area.val,
      BitVec.ofNat 8 (priorityCode x.priority), BitVec.ofNat 8 (classCode x.cls), BitVec.ofNat 8 (flagCode x.shelvable),
      BitVec.ofNat 8 (x.maxShelf / 256), BitVec.ofNat 8 x.maxShelf] := by
  unfold pointBytes
  rw [half_bytes, use_byte, useLine_byte, class_byte, flag_byte, rank_eq]
  rfl

theorem pointBytes_layout (p : Point) (x : PointConfig) : configLayout p x (pointBytes p x) := by
  rw [pointBytes_eq]
  exact ⟨rfl, rfl, rfl, rfl, rfl, rfl, rfl, rfl, rfl⟩

/-- A line configuration as sent after the line: four bytes. -/
theorem lineConfigBytes_eq (x : LineConfig) : lineConfigBytes x =
    [BitVec.ofNat 8 (senseCode x.sense), BitVec.ofNat 8 (flagCode x.supervised), BitVec.ofNat 8 (filterCode x.filter),
      BitVec.ofNat 8 (groupCode x.group)] := by
  unfold lineConfigBytes
  rw [sense_byte, flag_byte, filter_byte, group_byte]

theorem recordFlags_byte (a b c : Bool) : flagByte a ||| (flagByte b <<< 1) ||| (flagByte c <<< 2) =
    BitVec.ofNat 8 (flagCode a + 2 * flagCode b + 4 * flagCode c) := by
  cases a <;> cases b <;> cases c <;> rfl

/-- The block of an occupied slot is 27 bytes, in their layout. -/
theorem recordBlock_some (i : Slot) (r : Record) :
    (recordBlock i (some r)).length = 27 ∧ recordLayout (recordBlock i (some r)) 0 i r := by
  obtain ⟨a, b, c, d, h1, e1⟩ := time_bytes r.firstRaised
  obtain ⟨a', b', c', d', h2, e2⟩ := time_bytes r.annunciatedAt
  obtain ⟨x, y, z, w, h3, e3⟩ := time_bytes (r.shelfEnd.getD 0)
  have e : recordBlock i (some r) = [byteOf i.val, 1, byteOf r.point.val, recordStateByte r.state,
      conditionByte r.condition, causeByte r.cause, byteOf r.priority.rank, byteOf r.area.val, classByte r.cls,
      byteOf r.occurrences] ++ [a, b, c, d] ++ [a', b', c', d'] ++ [consoleByte r.route,
      flagByte r.silencedAtRoute ||| (flagByte r.silencedAtSupervisor <<< 1) ||| (flagByte r.floodHeld <<< 2),
      byteOf r.stage.val, operatorByte r.acknowledgedBy, operatorByte r.shelvedBy] ++ [x, y, z, w] := by
    rw [← h1, ← h2, ← h3]
    rfl
  rw [e, recordFlags_byte, console_byte, operator_byte, operator_byte, state_byte, condition_byte, cause_byte,
    class_byte, rank_eq]
  refine ⟨rfl, rfl, rfl, rfl, rfl, rfl, rfl, rfl, rfl, rfl, rfl, fun ht => ?_, fun ht => ?_, rfl, rfl, rfl, rfl, rfl,
    fun hn j => ?_, fun e he ht => ?_⟩
  · obtain ⟨rfl, rfl, rfl, rfl⟩ := e1 ht
    exact ⟨⟨rfl, rfl⟩, rfl, rfl⟩
  · obtain ⟨rfl, rfl, rfl, rfl⟩ := e2 ht
    exact ⟨⟨rfl, rfl⟩, rfl, rfl⟩
  · rw [hn] at e3
    obtain ⟨rfl, rfl, rfl, rfl⟩ := e3 (by decide)
    match j with
    | 0 => rfl
    | 1 => rfl
    | 2 => rfl
    | 3 => rfl
  · rw [show r.shelfEnd = some e from he] at e3
    obtain ⟨rfl, rfl, rfl, rfl⟩ := e3 ht
    exact ⟨⟨rfl, rfl⟩, rfl, rfl⟩

/-- A byte of a part of an answer is a byte of the whole, as far on as what stands before the part. -/
theorem byteAt_middle {pre d : List Byte} {k j n : Nat} (post : List Byte) (hk : k = pre.length + j)
    (h : byteAt d j n) : byteAt (pre ++ d ++ post) k n := by
  obtain ⟨hlt, -⟩ := List.getElem?_eq_some_iff.1 h
  rw [List.append_assoc]
  refine byteAt_append hk ?_
  show (d ++ post)[j]? = _
  rw [List.getElem?_append_left hlt]
  exact h

theorem recordLayout_append {pre d : List Byte} {i : Slot} {r : Record} (h : recordLayout d 0 i r) (post : List Byte) :
    recordLayout (pre ++ d ++ post) pre.length i r := by
  have move : ∀ j n, byteAt d j n → byteAt (pre ++ d ++ post) (pre.length + j) n := fun j n hj =>
    byteAt_middle post rfl hj
  have word : ∀ j n, wordAt d j n → wordAt (pre ++ d ++ post) (pre.length + j) n := fun j n ⟨⟨h0, h1⟩, h2, h3⟩ =>
    ⟨⟨move _ _ h0, move _ _ h1⟩, move _ _ h2, move _ _ h3⟩
  obtain ⟨h0, h1, h2, h3, h4, h5, h6, h7, h8, h9, h10, h14, h18, h19, h20, h21, h22, h23, h23'⟩ := h
  refine ⟨move 0 _ h0, move 1 _ h1, move 2 _ h2, move 3 _ h3, move 4 _ h4, move 5 _ h5, move 6 _ h6, move 7 _ h7,
    move 8 _ h8, move 9 _ h9, fun ht => word 10 _ (h10 ht), fun ht => word 14 _ (h14 ht), move 18 _ h18, move 19 _ h19,
    move 20 _ h20, move 21 _ h21, move 22 _ h22, fun hn j => ?_, fun e he ht => word 23 _ (h23' e he ht)⟩
  exact byteAt_middle post (by omega) (h23 hn j)

theorem recordBlock_length (i : Slot) (o : Option Record) : (recordBlock i o).length = 27 := by
  cases o with
  | none => rfl
  | some r => exact (recordBlock_some i r).1

end Sys2Proof.Machine
end

section
/-! The layouts of the ten reads, of an answer and of READ_CHANGES (chapter 11), and what the reads leave alone. -/

namespace Sys2Proof.Machine

/-! ### Slots, areas, lines, points -/

theorem slotLayout_holds (s : State) (i : Slot) : slotLayout s i (recordBlock i s.live[i]) := by
  refine ⟨recordBlock_length i _, fun h => ?_, fun r h => ?_⟩
  · rw [h]
    refine ⟨rfl, fun j => ?_⟩
    exact byteAt_append (pre := [byteOf i.val]) rfl (zeros_at 26 j)
  · rw [show s.live[i] = some r from h]
    exact (recordBlock_some i r).2

theorem areaCounts_eq (s : State) (a : Area) : s.areaCounts a = ((s.records.filter fun r => r.area = a).length,
    (s.records.filter fun r => r.area = a ∧ r.state = .raisedUnack).length) := by
  simp only [State.areaCounts, List.filter_filter, beq_eq_decide, Bool.decide_and, Bool.and_comm]

theorem areaLayout_holds (s : State) (a : Area) : areaLayout s a (s.areaData a) := by
  unfold State.areaData
  dsimp only
  rw [console_byte, console_byte, console_byte, areaCounts_eq]
  exact ⟨rfl, rfl, rfl, rfl, rfl, rfl, rfl, rfl, rfl, rfl⟩

theorem lineConfigLayout_holds (l : Line) (x : LineConfig) : lineConfigLayout l x (byteOf l.val :: lineConfigBytes x) := by
  rw [lineConfigBytes_eq]
  exact ⟨rfl, rfl, rfl, rfl, rfl⟩

/-- Two bytes that hold a time from now where one is there are the span at their place. -/
theorem spanAt_of {pre post : List Byte} {a b : Byte} {k now : Nat} {o : Option Nat} (hk : k = pre.length)
    (hn : o = none → a = BitVec.ofNat 8 (65535 / 256) ∧ b = BitVec.ofNat 8 65535)
    (hs : ∀ t ∈ o, t - now < 65535 → a = BitVec.ofNat 8 ((t - now) / 256) ∧ b = BitVec.ofNat 8 (t - now)) :
    spanAt (pre ++ [a, b] ++ post) k now o := by
  have place : ∀ n, a = BitVec.ofNat 8 (n / 256) ∧ b = BitVec.ofNat 8 n → halfAt (pre ++ [a, b] ++ post) k n := by
    rintro n ⟨rfl, rfl⟩
    exact ⟨byteAt_middle post (j := 0) (by omega) rfl, byteAt_middle post (j := 1) (by omega) rfl⟩
  exact ⟨fun h => place _ (hn h), fun t h ht => place _ (hs t h ht)⟩

/-- READ_LINE's bytes, with the two of the bound point named by what they hold. -/
theorem lineData_eq (s : State) (l : Line) : ∃ a b,
    ((s.boundPoint l = none → a = BitVec.ofNat 8 (65535 / 256) ∧ b = BitVec.ofNat 8 65535) ∧
      ∀ p ∈ s.boundPoint l, a = BitVec.ofNat 8 (p.val / 256) ∧ b = BitVec.ofNat 8 p.val) ∧
    s.lineData l = [byteOf l.val, BitVec.ofNat 8 (senseCode s.cfg.lines[l].sense),
      BitVec.ofNat 8 (flagCode s.cfg.lines[l].supervised), BitVec.ofNat 8 (filterCode s.cfg.lines[l].filter),
      BitVec.ofNat 8 (groupCode s.cfg.lines[l].group), a, b, BitVec.ofNat 8 (bandCode s.lines[l].band),
      BitVec.ofNat 8 (lineStateCode s.lines[l].candidate)] ++ bytesOfSpan s.partTime (s.deadlineOf l) ++
      [BitVec.ofNat 8 (lineStateCode s.lines[l].qualified), BitVec.ofNat 8 (flagCode (s.blankEndOf l).isSome)] ++
      bytesOfSpan s.partTime (s.blankEndOf l) := by
  unfold State.lineData
  dsimp only
  rw [lineConfigBytes_eq, deadlineOf_eq, blankEndOf_eq, band_byte, lineState_byte, lineState_byte, flag_byte]
  cases s.boundPoint l with
  | none => exact ⟨_, _, ⟨fun _ => ⟨rfl, rfl⟩, fun p h => absurd h (by simp)⟩, rfl⟩
  | some q =>
    dsimp only
    rw [half_bytes]
    refine ⟨_, _, ⟨fun h => absurd h (by simp), fun p h => ?_⟩, rfl⟩
    obtain rfl := Option.mem_some_iff.1 h
    exact ⟨rfl, rfl⟩

theorem lineLayout_holds (s : State) (l : Line) : lineLayout s l (s.lineData l) := by
  obtain ⟨a, b, ⟨hn, hb⟩, h⟩ := lineData_eq s l
  obtain ⟨c, d, hq, qn, qb⟩ := span_bytes s.partTime (s.deadlineOf l)
  obtain ⟨e, f, hg, gn, gb⟩ := span_bytes s.partTime (s.blankEndOf l)
  rw [h, hq, hg]
  refine ⟨rfl, ⟨rfl, rfl, rfl, rfl, rfl⟩, fun hx => ?_, fun p hx => ?_, rfl, rfl,
    spanAt_of (pre := [_, _, _, _, _, _, _, _, _]) (post := [_, _, _, _]) rfl qn qb, rfl, rfl,
    spanAt_of (pre := [_, _, _, _, _, _, _, _, _, _, _, _, _]) (post := []) rfl gn gb⟩
  · obtain ⟨rfl, rfl⟩ := hn hx
    exact ⟨rfl, rfl⟩
  · obtain ⟨rfl, rfl⟩ := hb p hx
    exact ⟨rfl, rfl⟩

/-! ### Points -/

theorem statusOf_live {s : State} {p : Point} {x : Slot × Record} (h : s.find p = some x) :
    s.statusOf p = .live x.2.state := by
  simp [State.statusOf, State.recordOf, h]

theorem statusOf_waiting {s : State} {p : Point} {e : Entry} (h : s.find p = none) (he : s.entryOf p = some e) :
    s.statusOf p = .waiting := by
  simp [State.statusOf, State.recordOf, h, he]

theorem statusOf_none {s : State} {p : Point} (h : s.find p = none) (he : s.entryOf p = none) :
    s.statusOf p = .normal := by
  simp [State.statusOf, State.recordOf, h, he]

/-- READ_POINT's bytes by its four parts, each named by what it holds. -/
theorem pointData_parts (s : State) (p : Point) : ∃ blk ent st,
    s.pointData p = pointBytes p s.cfg.points[p] ++ [(s.statusOf p).byte] ++ blk ++ ent ++ st ∧
    ((s.find p = none → blk = zeros 27) ∧ (∀ x ∈ s.find p, blk = recordBlock x.1 (some x.2))) ∧
    ((s.find p = none → ∀ e ∈ s.entryOf p, ent = entryBlock e) ∧
      ((s.find p = none → s.entryOf p = none) → ent = zeros 7)) ∧
    ((∀ l, s.cfg.points[p].use = .line l →
        st = [bandByte s.lines[l].band, lineStateByte s.lines[l].candidate, lineStateByte s.lines[l].qualified]) ∧
      ((∀ l, s.cfg.points[p].use ≠ .line l) → st = [0xFF#8, 0xFF#8, 0xFF#8])) := by
  refine ⟨_, _, _, rfl, ⟨fun h => ?_, fun x h => ?_⟩, ⟨fun h e he => ?_, fun h => ?_⟩, fun l h => ?_, fun h => ?_⟩
  · simp only [h]
  · simp only [show s.find p = some (x.1, x.2) from h]
  · simp only [h, show s.entryOf p = some e from he]
  · cases hf : s.find p with
    | none => simp only [h hf]
    | some x => rfl
  · simp only [h]
  · cases hu : s.cfg.points[p].use with
    | line l => exact absurd hu (h l)
    | unused => rfl
    | link => rfl

theorem pointBytes_length (p : Point) (x : PointConfig) : (pointBytes p x).length = 9 := by
  rw [pointBytes_eq]
  rfl

theorem entryBlock_layout (e : Entry) : (entryBlock e).length = 7 ∧ byteAt (entryBlock e) 0 (causeCode e.cause) ∧
    byteAt (entryBlock e) 1 (conditionCode e.condition) ∧ byteAt (entryBlock e) 2 e.occurrences ∧
    timeAt (entryBlock e) 3 e.arrival := by
  obtain ⟨a, b, c, d, h, ht⟩ := time_bytes e.arrival
  unfold entryBlock
  rw [h, cause_byte, condition_byte]
  refine ⟨rfl, rfl, rfl, rfl, fun hlt => ?_⟩
  obtain ⟨rfl, rfl, rfl, rfl⟩ := ht hlt
  exact ⟨⟨rfl, rfl⟩, rfl, rfl⟩

/-- Each of READ_POINT's parts has its length whatever it holds. -/
theorem pointParts_length {s : State} {p : Point} {blk ent st : List Byte}
    (hblk : (s.find p = none → blk = zeros 27) ∧ ∀ x ∈ s.find p, blk = recordBlock x.1 (some x.2))
    (hent : (s.find p = none → ∀ e ∈ s.entryOf p, ent = entryBlock e) ∧
      ((s.find p = none → s.entryOf p = none) → ent = zeros 7))
    (hst : (∀ l, s.cfg.points[p].use = .line l →
        st = [bandByte s.lines[l].band, lineStateByte s.lines[l].candidate, lineStateByte s.lines[l].qualified]) ∧
      ((∀ l, s.cfg.points[p].use ≠ .line l) → st = [0xFF#8, 0xFF#8, 0xFF#8])) :
    blk.length = 27 ∧ ent.length = 7 ∧ st.length = 3 := by
  refine ⟨?_, ?_, ?_⟩
  · cases hf : s.find p with
    | none => rw [hblk.1 hf]; rfl
    | some x => rw [hblk.2 x hf]; exact recordBlock_length _ _
  · by_cases hf : s.find p = none → s.entryOf p = none
    · rw [hent.2 hf]; rfl
    · obtain ⟨hn, he⟩ := Classical.not_imp.1 hf
      obtain ⟨e, he⟩ := Option.ne_none_iff_exists'.1 he
      rw [hent.1 hn e he]
      exact (entryBlock_layout e).1
  · cases hu : s.cfg.points[p].use with
    | line l => rw [hst.1 l hu]; rfl
    | unused => rw [hst.2 fun l => by rw [hu]; exact PointUse.noConfusion]; rfl
    | link => rw [hst.2 fun l => by rw [hu]; exact PointUse.noConfusion]; rfl

theorem configLayout_append {p : Point} {x : PointConfig} {d : List Byte} (post : List Byte) (h : configLayout p x d) :
    configLayout p x (d ++ post) := by
  obtain ⟨h0, h1, h2, h3, h4, h5, h6, h7, h8⟩ := h
  have move : ∀ k n, byteAt d k n → byteAt (d ++ post) k n := fun k n hk =>
    byteAt_middle (pre := []) post (Nat.zero_add k).symm hk
  exact ⟨move _ _ h0, move _ _ h1, move _ _ h2, move _ _ h3, move _ _ h4, move _ _ h5, move _ _ h6, move _ _ h7,
    move _ _ h8⟩

theorem pointLayout_holds (s : State) (p : Point) : pointLayout s p (s.pointData p) := by
  obtain ⟨blk, ent, st, h, hb, he, hs⟩ := pointData_parts s p
  obtain ⟨lblk, lent, lst⟩ := pointParts_length hb he hs
  obtain ⟨hblk, hblk'⟩ := hb
  obtain ⟨hent, hent'⟩ := he
  have hl := pointBytes_length p s.cfg.points[p]
  have pre : (pointBytes p s.cfg.points[p] ++ [(s.statusOf p).byte]).length = 10 := by
    rw [List.length_append, hl, List.length_singleton]
  have status : ∀ n, (s.statusOf p).byte = BitVec.ofNat 8 n → byteAt (s.pointData p) 9 n := fun n hn => by
    rw [h, List.append_assoc, List.append_assoc]
    exact byteAt_middle _ (j := 0) (by omega) (by rw [hn]; rfl)
  have inBlock : ∀ k j n, k = 10 + j → byteAt blk j n → byteAt (s.pointData p) k n := fun k j n hk hj => by
    rw [h, List.append_assoc]
    exact byteAt_middle _ (by omega) hj
  have inEntry : ∀ k j n, k = 37 + j → byteAt ent j n → byteAt (s.pointData p) k n := fun k j n hk hj => by
    rw [h]
    exact byteAt_middle _ (by rw [List.length_append]; omega) hj
  have inState : ∀ k j n, k = 44 + j → byteAt st j n → byteAt (s.pointData p) k n := fun k j n hk hj => by
    rw [h]
    exact byteAt_append (by rw [List.length_append, List.length_append]; omega) hj
  have empty : blk = zeros 27 → zerosAt (s.pointData p) 10 27 := fun hz j =>
    inBlock _ _ _ rfl (by rw [hz]; exact zeros_at 27 j)
  have unqueued : ent = zeros 7 → zerosAt (s.pointData p) 37 7 := fun hz j =>
    inEntry _ _ _ rfl (by rw [hz]; exact zeros_at 7 j)
  refine ⟨?_, ?_, fun hf he => ⟨status 5 (by rw [statusOf_none hf he]; rfl), fun j => ?_⟩, fun hf e he => ?_,
    fun x hx => ⟨status _ ?_, ?_, unqueued (hent' fun hf => ?_)⟩, fun l hu => ?_, fun hu => ?_⟩
  · rw [h]
    simp only [List.length_append, List.length_singleton]
    omega
  · rw [h, List.append_assoc, List.append_assoc, List.append_assoc]
    exact configLayout_append _ (pointBytes_layout p _)
  · by_cases hj : j.val < 27
    · exact empty (hblk hf) ⟨j.val, hj⟩
    · have := unqueued (hent' fun _ => he) ⟨j.val - 27, by omega⟩
      rwa [show 37 + (j.val - 27) = 10 + j.val by omega] at this
  · obtain ⟨-, h0, h1, h2, h3⟩ := entryBlock_layout e
    rw [← hent hf e he] at h0 h1 h2 h3
    refine ⟨status 6 (by rw [statusOf_waiting hf he]; rfl), empty (hblk hf), inEntry _ 0 _ rfl h0, inEntry _ 1 _ rfl h1,
      inEntry _ 2 _ rfl h2, fun ht => ?_⟩
    obtain ⟨⟨w0, w1⟩, w2, w3⟩ := h3 ht
    exact ⟨⟨inEntry _ 3 _ rfl w0, inEntry _ 4 _ rfl w1⟩, inEntry _ 5 _ rfl w2, inEntry _ 6 _ rfl w3⟩
  · rw [statusOf_live hx]
    exact state_byte _
  · have := recordLayout_append (pre := pointBytes p s.cfg.points[p] ++ [(s.statusOf p).byte])
      (recordBlock_some x.1 x.2).2 (ent ++ st)
    rw [pre, ← hblk' x hx, ← List.append_assoc, ← h] at this
    exact this
  · rw [show s.find p = some x from hx] at hf
    exact absurd hf (by simp)
  · rw [hs.1 l hu, band_byte, lineState_byte, lineState_byte] at inState
    exact ⟨inState _ 0 _ rfl rfl, inState _ 1 _ rfl rfl, inState _ 2 _ rfl rfl⟩
  · rw [hs.2 hu] at inState
    exact ⟨inState _ 0 _ rfl rfl, inState _ 1 _ rfl rfl, inState _ 2 _ rfl rfl⟩

end Sys2Proof.Machine
end

section
/-! The layouts of the other reads, of an answer and of READ_CHANGES; the reads settled. -/

namespace Sys2Proof.Machine

/-! ### Consoles, parameters, status -/

theorem heldCount_eq (s : State) (c : Console) :
    s.heldCount c = (s.records.filter fun r => r.floodHeld = true ∧ r.route = some c).length := by
  simp only [State.heldCount, beq_eq_decide, Bool.decide_and, Bool.decide_eq_true]

theorem consoleLayout_holds (s : State) (c : Console) : consoleLayout s c (s.consoleData c) := by
  obtain ⟨a, b, h, hn, hs⟩ := span_bytes s.partTime s.consoles[c].session.graceEnd
  have e : s.consoleData c = [byteOf c.val, BitVec.ofNat 8 (flagCode s.cfg.enabled[c]),
      BitVec.ofNat 8 (linkCode s.consoles[c].link), byteOf s.consoles[c].count,
      BitVec.ofNat 8 (sessionCode s.consoles[c].session), BitVec.ofNat 8 (operatorCode s.consoles[c].session.inCharge)] ++
      [a, b] ++ [BitVec.ofNat 8 (flagCode s.consoles[c].hornFault), BitVec.ofNat 8 (flagCode s.consoles[c].underQualified),
        BitVec.ofNat 8 (patternCode s.consoles[c].pattern), BitVec.ofNat 8 (endCauseCode s.consoles[c].lastEnd),
        BitVec.ofNat 8 (s.consoles[c].load / 256), BitVec.ofNat 8 s.consoles[c].load,
        BitVec.ofNat 8 (flagCode s.consoles[c].flooded),
        byteOf (s.records.filter fun r => r.floodHeld = true ∧ r.route = some c).length,
        BitVec.ofNat 8 (phaseCode s.handovers[c].phase), BitVec.ofNat 8 (operatorCode s.handovers[c].phase.outgoing),
        BitVec.ofNat 8 (operatorCode s.handovers[c].phase.incoming), 0] := by
    unfold State.consoleData
    dsimp only
    rw [h, half_bytes, heldCount_eq]
    simp only [flag_byte, link_byte, session_byte, operator_byte, pattern_byte, endCause_byte, phase_byte]
    rfl
  rw [e]
  exact ⟨rfl, rfl, rfl, rfl, rfl, rfl, rfl, spanAt_of (pre := [_, _, _, _, _, _]) rfl hn hs, rfl, rfl, rfl, rfl,
    ⟨rfl, rfl⟩, rfl, rfl, rfl, rfl, rfl, rfl⟩

theorem parameterLayout_holds (p : Params) (x : Parameter) : parameterLayout p x (p.data x) := by
  unfold Params.data
  rw [half_bytes, half_bytes, values_eq, parameter_code]
  exact ⟨rfl, rfl, ⟨rfl, rfl⟩, rfl, rfl⟩

/-- Halves in a row: the half of each. -/
theorem flatMap_halves {n : Nat} (f : Fin n → Nat) (l : List (Fin n)) (k : Nat) (i : Fin n) (h : l[k]? = some i) :
    halfAt (l.flatMap fun j => bytesOf16 (f j)) (2 * k) (f i) := by
  induction l generalizing k with
  | nil => simp at h
  | cons j l ih =>
    rw [List.flatMap_cons, half_bytes]
    cases k with
    | zero =>
      obtain rfl : j = i := by simpa using h
      exact ⟨rfl, rfl⟩
    | succ k =>
      obtain ⟨h0, h1⟩ := ih k (by simpa using h)
      exact ⟨byteAt_append (by simp; omega) h0, byteAt_append (by simp; omega) h1⟩

theorem flatMap_halves_length {n : Nat} (f : Fin n → Nat) (l : List (Fin n)) :
    (l.flatMap fun j => bytesOf16 (f j)).length = 2 * l.length := by
  induction l with
  | nil => rfl
  | cons j l ih => rw [List.flatMap_cons, half_bytes, List.length_append, ih]; simp; omega

theorem statusLayout_holds (s : State) : statusLayout s s.statusData := by
  obtain ⟨a, b, c, d, h, ht⟩ := time_bytes s.partTime
  unfold State.statusData
  rw [h, half_bytes, half_bytes, half_bytes, half_bytes, flag_byte, flag_byte, flag_byte, flag_byte]
  refine ⟨?_, fun hlt => ?_, ⟨rfl, rfl⟩, rfl, rfl, rfl, rfl, rfl, rfl, ⟨rfl, rfl⟩, ⟨rfl, rfl⟩, ⟨rfl, rfl⟩, fun c => ?_⟩
  · rw [List.length_append, flatMap_halves_length]
    rfl
  · obtain ⟨rfl, rfl, rfl, rfl⟩ := ht hlt
    exact ⟨⟨rfl, rfl⟩, rfl, rfl⟩
  · obtain ⟨h0, h1⟩ := flatMap_halves (fun c : Console => s.portRx[c].discards) (List.finRange 8) c.val c (by simp)
    exact ⟨byteAt_append rfl h0, byteAt_append rfl h1⟩

/-! ### Operators and notes -/

theorem grantBytes_at (r : OperatorRecord) (a : Area) : byteAt (grantBytes r) a.val r.grants[a].val := by
  show (r.grants.toList.map _)[a.val]? = _
  simp [byteOf]

theorem grantBytes_length (r : OperatorRecord) : (grantBytes r).length = 12 := by simp [grantBytes]

/-- A roster record's bytes after the slot's own, wherever they stand: badge, grants and expiry. -/
theorem rosterLayout_of {o : Operator} {r : OperatorRecord} {pre mid post : List Byte} {number badge grants : Nat}
    (h : byteAt (pre ++ Bytes.ofBadge r.badge ++ mid ++ grantBytes r ++ expiryBytes r ++ post) number (o.val + 1))
    (hb : badge = pre.length) (hg : grants = pre.length + 3 + mid.length) :
    rosterLayout o r number badge grants
      (pre ++ Bytes.ofBadge r.badge ++ mid ++ grantBytes r ++ expiryBytes r ++ post) := by
  have hlen : (Bytes.ofBadge r.badge).length = 3 := by rw [badge_bytes]; rfl
  have inBadge : ∀ k j n, k = pre.length + j → byteAt (Bytes.ofBadge r.badge) j n →
      byteAt (pre ++ Bytes.ofBadge r.badge ++ mid ++ grantBytes r ++ expiryBytes r ++ post) k n := fun k j n hk hj => by
    rw [List.append_assoc _ mid, List.append_assoc _ (mid ++ _), List.append_assoc _ (mid ++ _ ++ _)]
    exact byteAt_middle _ hk hj
  have inExpiry : ∀ n, r.expiry.getD 0 = n →
      halfAt (pre ++ Bytes.ofBadge r.badge ++ mid ++ grantBytes r ++ expiryBytes r ++ post) (grants + 12) n := by
    rintro n rfl
    unfold expiryBytes
    rw [half_bytes]
    refine ⟨byteAt_middle post (j := 0) ?_ rfl, byteAt_middle post (j := 1) ?_ rfl⟩ <;>
      rw [List.length_append, List.length_append, List.length_append, hlen, grantBytes_length] <;> omega
  refine ⟨h, inBadge _ 0 _ (by omega) (by rw [badge_bytes]; rfl), ⟨inBadge _ 1 _ (by omega) (by rw [badge_bytes]; rfl),
    inBadge _ 2 _ (by omega) (by rw [badge_bytes]; rfl)⟩, fun a => ?_, fun hn => inExpiry _ (by rw [hn]; rfl),
    fun e he => inExpiry e (by rw [show r.expiry = some e from he]; rfl)⟩
  rw [List.append_assoc _ (expiryBytes r)]
  refine byteAt_middle _ ?_ (grantBytes_at r a)
  rw [List.length_append, List.length_append, hlen, hg]

theorem expired_code (r : OperatorRecord) (day : Nat) : flagByte (r.expired day) =
    BitVec.ofNat 8 (if day ≠ 0 ∧ ∃ e ∈ r.expiry, e < day then 1 else 0) := by
  unfold OperatorRecord.expired
  cases r.expiry with
  | none => simp [flagByte]
  | some e => simp [flag_byte, flagCode]

theorem placeSession_inCharge (s : State) (c : Console) {o : Operator} (h : s.consoles[c].session.inCharge = some o) :
    placeSession (.inCharge c (s.attachedAt c).isNone) = BitVec.ofNat 8 (sessionCode s.consoles[c].session) := by
  unfold State.attachedAt
  cases hx : s.consoles[c].session with
  | none => rw [hx] at h; exact absurd h (by simp [Session.inCharge])
  | attached p => rfl
  | detached p g => rfl

/-- Where an operator is, by the two searches of R122. -/
theorem placeOf_cases (s : State) (o : Operator) :
    (∃ c, s.consoles[c].session.inCharge = some o ∧ s.placeOf o = .inCharge c (s.attachedAt c).isNone) ∨
    ((∀ c : Console, s.consoles[c].session.inCharge ≠ some o) ∧
      ((∃ c, s.handovers[c].phase.incoming = some o ∧ s.placeOf o = .incoming c) ∨
        ((∀ c : Console, s.handovers[c].phase.incoming ≠ some o) ∧ s.placeOf o = .none))) := by
  unfold State.placeOf
  cases h : lowestWhere fun c => s.consoles[c].session.inCharge == some o with
  | some c => exact .inl ⟨c, by simpa using lowestWhere_some h, rfl⟩
  | none =>
    refine .inr ⟨fun c => by simpa using (lowestWhere_none _).1 h c, ?_⟩
    cases h' : lowestWhere fun c => s.handovers[c].phase.incoming == some o with
    | some c => exact .inl ⟨c, by simpa using lowestWhere_some h', rfl⟩
    | none => exact .inr ⟨fun c => by simpa using (lowestWhere_none _).1 h' c, rfl⟩

theorem placeLayout_of {s : State} {o : Operator} {d : List Byte} (h21 : d[21]? = some (placeCode (s.placeOf o)))
    (h22 : d[22]? = some (consoleByte (placeConsole (s.placeOf o)))) (h23 : d[23]? = some (placeSession (s.placeOf o))) :
    placeLayout s o d := by
  rcases placeOf_cases s o with ⟨c, hc, hp⟩ | ⟨hn, ⟨c, hc, hp⟩ | ⟨hm, hp⟩⟩ <;> rw [hp] at h21 h22 h23
  · rw [placeSession_inCharge s c hc] at h23
    exact ⟨fun _ => ⟨c, hc, h21, h22, h23⟩, fun hx => absurd hc (hx c)⟩
  · exact ⟨fun ⟨x, hx⟩ => absurd hx (hn x), fun _ => ⟨fun _ => ⟨c, hc, h21, h22⟩, fun hx => absurd hc (hx c)⟩⟩
  · exact ⟨fun ⟨x, hx⟩ => absurd hx (hn x), fun _ => ⟨fun ⟨x, hx⟩ => absurd hx (hm x), fun _ => ⟨h21, h22⟩⟩⟩

theorem operatorLayout_holds (s : State) (o : Operator) : operatorLayout s o (s.operatorData o) := by
  cases h : s.cfg.roster[o] with
  | none =>
    have e : s.operatorData o = [byteOf o.number, 0] ++ emptyBytes 0x15 22 := by unfold State.operatorData; rw [h]
    rw [e]
    exact ⟨by simp [emptyBytes], rfl, fun _ => rfl, fun r hr => absurd (h.symm.trans hr) (by simp)⟩
  | some r =>
    have e : s.operatorData o = [byteOf o.number, 1] ++ Bytes.ofBadge r.badge ++ [operatorStatusByte r.status] ++
        grantBytes r ++ expiryBytes r ++ [flagByte (r.expired s.day), placeCode (s.placeOf o),
          consoleByte (placeConsole (s.placeOf o)), placeSession (s.placeOf o)] := by unfold State.operatorData; rw [h]
    have lb : (Bytes.ofBadge r.badge).length = 3 := by rw [badge_bytes]; rfl
    have lx : (expiryBytes r).length = 2 := by unfold expiryBytes; rw [half_bytes]; rfl
    have last : ∀ k j x, k = 20 + j → ([flagByte (r.expired s.day), placeCode (s.placeOf o),
        consoleByte (placeConsole (s.placeOf o)), placeSession (s.placeOf o)] : List Byte)[j]? = some x →
        (s.operatorData o)[k]? = some x := fun k j x hk hj => by
      rw [e, List.getElem?_append_right] <;> simp only [List.length_append, lb, lx, grantBytes_length, List.length_cons,
        List.length_nil]
      · rw [hk, ← hj]; congr 1; omega
      · omega
    refine ⟨?_, by rw [e]; rfl, fun hn => absurd (h.symm.trans hn) (by simp), fun q hq => ?_⟩
    · rw [e]
      simp only [List.length_append, lb, lx, grantBytes_length, List.length_cons, List.length_nil]
    · obtain rfl := Option.some.inj (h.symm.trans hq)
      refine ⟨by rw [e]; rfl, by rw [e]; exact rosterLayout_of (pre := [_, _]) rfl rfl rfl, ?_,
        last 20 0 _ rfl (congrArg some (expired_code r s.day)), placeLayout_of (last 21 1 _ rfl rfl) (last 22 2 _ rfl rfl)
          (last 23 3 _ rfl rfl)⟩
      rw [e, operatorStatus_byte]
      rw [List.append_assoc _ (grantBytes r), List.append_assoc _ (grantBytes r ++ _)]
      exact byteAt_middle _ (j := 0) (by rw [List.length_append, lb]; rfl) rfl

theorem noteLayout_holds (s : State) (n : Note) : noteLayout s n (s.noteData n) := by
  cases h : s.cfg.notes[n] with
  | none =>
    have e : s.noteData n = [byteOf n.val, 0] ++ emptyBytes 0x16 6 := by unfold State.noteData; rw [h]
    rw [e]
    exact ⟨rfl, fun _ => ⟨by simp [emptyBytes], rfl⟩, fun r hr => absurd (h.symm.trans hr) (by simp)⟩
  | some r =>
    have e : s.noteData n = [byteOf n.val, 1, byteOf r.area.val, BitVec.ofNat 8 (noteKindCode r.kind),
        BitVec.ofNat 8 (operatorCode r.author), BitVec.ofNat 8 (r.entryDay / 256), BitVec.ofNat 8 r.entryDay,
        byteOf r.text.length] ++ r.text := by
      unfold State.noteData
      rw [h]
      dsimp only
      rw [half_bytes, noteKind_byte, operator_byte]
      rfl
    rw [e]
    refine ⟨rfl, fun hn => absurd (h.symm.trans hn) (by simp), fun q hq => ?_⟩
    obtain rfl := Option.some.inj (h.symm.trans hq)
    exact ⟨rfl, rfl, rfl, rfl, ⟨rfl, rfl⟩, rfl, rfl⟩

/-! ### Handovers -/

theorem item_bytes (s : State) (it : Item) : ∃ b, s.itemBytes it =
    [BitVec.ofNat 8 (itemKindCode it.ref), BitVec.ofNat 8 (itemNumber it.ref), b] ∧ b.getLsbD 0 = it.seen ∧
      b.getLsbD 1 = it.late := by
  unfold State.itemBytes
  refine ⟨s.itemBits it ++ BitVec.ofBool it.late ++ BitVec.ofBool it.seen, ?_, ?_, ?_⟩
  · cases it.ref <;> rfl
  · rw [BitVec.getLsbD_append]
    simp
  · rw [BitVec.getLsbD_append, BitVec.getLsbD_append]
    simp

theorem items_length (s : State) (l : List Item) : (l.flatMap s.itemBytes).length = 3 * l.length := by
  induction l with
  | nil => rfl
  | cons it l ih =>
    obtain ⟨b, h, -⟩ := item_bytes s it
    rw [List.flatMap_cons, List.length_append, ih, h]
    simp
    omega

/-- An item of a page stands at three times its place. -/
theorem items_at (s : State) (l : List Item) (j : Nat) (it : Item) (h : l[j]? = some it) :
    byteAt (l.flatMap s.itemBytes) (3 * j) (itemKindCode it.ref) ∧
      byteAt (l.flatMap s.itemBytes) (3 * j + 1) (itemNumber it.ref) ∧
      ∃ b ∈ (l.flatMap s.itemBytes)[3 * j + 2]?, b.getLsbD 0 = it.seen ∧ b.getLsbD 1 = it.late := by
  induction l generalizing j with
  | nil => simp at h
  | cons x l ih =>
    obtain ⟨b, hb, hseen, hlate⟩ := item_bytes s x
    rw [List.flatMap_cons, hb]
    cases j with
    | zero =>
      obtain rfl : x = it := by simpa using h
      exact ⟨rfl, rfl, b, rfl, hseen, hlate⟩
    | succ j =>
      obtain ⟨h0, h1, y, hy, hl⟩ := ih j (by simpa using h)
      refine ⟨byteAt_append (by simp; omega) h0, byteAt_append (by simp; omega) h1, y, ?_, hl⟩
      rw [show 3 * (j + 1) + 2 = (3 * j + 2) + 3 by omega]
      exact hy

theorem handoverLayout_holds (s : State) (c : Console) (g : Fin 6) : handoverLayout s c g (s.handoverData c g) := by
  obtain ⟨a, b, h, hn, hs⟩ := span_bytes s.partTime s.handovers[c].phase.deadline
  obtain ⟨l, hl⟩ : ∃ l, l = (s.handovers[c].phase.items.drop (16 * g.val)).take 16 := ⟨_, rfl⟩
  have len : l.length = min 16 (s.handovers[c].phase.items.length - 16 * g.val) := by
    rw [hl, List.length_take, List.length_drop]
  have e : s.handoverData c g = [byteOf c.val, BitVec.ofNat 8 (phaseCode s.handovers[c].phase),
      BitVec.ofNat 8 (operatorCode s.handovers[c].phase.outgoing),
      BitVec.ofNat 8 (operatorCode s.handovers[c].phase.incoming)] ++ [a, b] ++
      ([BitVec.ofNat 8 (outcomeCode s.handovers[c].lastOutcome), byteOf s.handovers[c].phase.items.length,
        byteOf (s.handovers[c].phase.items.filter fun it => it.seen = false).length,
        byteOf (s.handovers[c].phase.items.filter fun it => it.late = true).length, byteOf g.val, byteOf l.length] ++
      l.flatMap s.itemBytes) := by
    unfold State.handoverData
    dsimp only
    rw [h, ← hl, phase_byte, operator_byte, operator_byte, outcome_byte]
    simp only [Phase.unseen, Bool.decide_eq_true, Bool.decide_eq_false, List.append_assoc]
  rw [e]
  refine ⟨?_, rfl, rfl, rfl, rfl, spanAt_of rfl hn hs, rfl, rfl, rfl, rfl, rfl, ?_, fun j it hit => ?_⟩
  · simp only [List.length_append, List.length_cons, List.length_nil, items_length, len]
    omega
  · rw [← len]
    rfl
  · have hj : l[j.val]? = some it := by
      rw [hl, List.getElem?_take_of_lt j.isLt, List.getElem?_drop]
      exact hit
    obtain ⟨h0, h1, y, hy, hb⟩ := items_at s l j.val it hj
    have inItems : ∀ k x, (l.flatMap s.itemBytes)[k]? = some x → ∀ n, n = 12 + k →
        ([byteOf c.val, BitVec.ofNat 8 (phaseCode s.handovers[c].phase),
          BitVec.ofNat 8 (operatorCode s.handovers[c].phase.outgoing),
          BitVec.ofNat 8 (operatorCode s.handovers[c].phase.incoming)] ++ [a, b] ++
          ([BitVec.ofNat 8 (outcomeCode s.handovers[c].lastOutcome), byteOf s.handovers[c].phase.items.length,
            byteOf (s.handovers[c].phase.items.filter fun it => it.seen = false).length,
            byteOf (s.handovers[c].phase.items.filter fun it => it.late = true).length, byteOf g.val, byteOf l.length] ++
          l.flatMap s.itemBytes))[n]? = some x := by
      rintro k x hx n rfl
      rw [show 12 + k = k + 12 by omega]
      exact hx
    exact ⟨inItems _ _ h0 _ rfl, inItems _ _ h1 _ (by omega), y, inItems _ _ hy _ (by omega), hb⟩

/-! ### Answers and READ_CHANGES -/

theorem answerLayout_holds (a : Answer) : answerLayout a a.body := by
  have flags : flagByte a.storeFault ||| (flagByte a.storeLost <<< 1) =
      BitVec.ofNat 8 (flagCode a.storeFault + 2 * flagCode a.storeLost) := by
    cases a.storeFault <;> cases a.storeLost <;> rfl
  unfold Answer.body
  rw [flags, result_byte]
  exact ⟨by simp; omega, rfl, rfl, rfl, rfl, rfl⟩

theorem refs_at (l : List Ref) (j : Nat) (r : Ref) (h : l[j]? = some r) :
    byteAt (l.flatMap Ref.bytes) (2 * j) (refKindCode r) ∧ byteAt (l.flatMap Ref.bytes) (2 * j + 1) (refNumber r) := by
  induction l generalizing j with
  | nil => simp at h
  | cons x l ih =>
    rw [List.flatMap_cons, ref_bytes]
    cases j with
    | zero =>
      obtain rfl : x = r := by simpa using h
      exact ⟨rfl, rfl⟩
    | succ j =>
      obtain ⟨h0, h1⟩ := ih j (by simpa using h)
      exact ⟨byteAt_append (by simp; omega) h0, byteAt_append (by simp; omega) h1⟩

theorem refs_length (l : List Ref) : (l.flatMap Ref.bytes).length = 2 * l.length := by
  induction l with
  | nil => rfl
  | cons x l ih => rw [List.flatMap_cons, ref_bytes, List.length_append, ih]; simp; omega

theorem changesLayout_holds (batch left : List Ref) : changesLayout batch left (changesData batch left) := by
  unfold changesData
  rw [half_bytes]
  refine ⟨?_, rfl, ⟨rfl, rfl⟩, fun j => ?_⟩
  · rw [List.length_append, refs_length]
    simp [Nat.add_comm]
  · obtain ⟨h0, h1⟩ := refs_at batch j.val batch[j] (by simp)
    exact ⟨byteAt_append (by simp [Nat.add_comm]) h0, byteAt_append (by simp; omega) h1⟩

/-! ### The reads -/

theorem read_answers {i : Instr} {code seq : Byte} {α : Type} {field : Option α} {data : State → α → List Byte} {s : State}
    {x : α} (h : exec i s = readOf code seq field data s) (hx : field = some x) (hl : s.linkReady = true) :
    ∃ t, exec i s = .next t ∧ onlyAnswered s t code seq none (data s.plantHunting x) :=
  request_unchanged (f := fun v => .unchanged (data v x)) (by rw [h, hx]; rfl) hl rfl

/-- Settles O59: each read answers its data as they stand, and the data are in the layout of 11.3. -/
theorem readsAnswerTheirData : Obligations.ReadsAnswerTheirData := by
  refine ⟨answerLayout_holds, fun seq x y s hl => ⟨fun l h => ⟨lineLayout_holds s l, ?_⟩,
    fun a h => ⟨areaLayout_holds s a, ?_⟩, fun i h => ⟨slotLayout_holds s i, ?_⟩, fun p h => ⟨pointLayout_holds s p, ?_⟩,
    fun o h => ⟨operatorLayout_holds s o, ?_⟩, fun c h => ⟨consoleLayout_holds s c, ?_⟩,
    fun n h => ⟨noteLayout_holds s n, ?_⟩, fun c g hc hg => ⟨handoverLayout_holds s c g, ?_⟩,
    fun p h => ⟨parameterLayout_holds _ p, ?_⟩, statusLayout_holds s, ?_⟩⟩
  · exact read_answers (data := State.lineData) rfl h hl
  · exact read_answers (data := State.areaData) rfl h hl
  · exact read_answers (data := fun s i => recordBlock i s.live[i]) rfl h hl
  · exact read_answers (data := State.pointData) rfl h hl
  · exact read_answers (data := State.operatorData) rfl h hl
  · exact read_answers (data := State.consoleData) rfl h hl
  · exact read_answers (data := State.noteData) rfl h hl
  · have e : exec (.readHandover seq x y) s = readOf 0x17 seq (some (c, g)) (fun s x => s.handoverData x.1 x.2) s := by
      show execReadHandover seq x y s = _
      unfold execReadHandover
      rw [hc, hg]
    exact read_answers e rfl hl
  · exact read_answers (data := fun s p => s.cfg.params.data p) rfl h hl
  · exact read_answers (data := fun s _ => s.statusData) (x := ()) rfl rfl hl

/-! ### READ_CHANGES -/

theorem execReadChanges_ready (seq : Byte) {s : State} (hl : s.linkReady = true) : exec (.readChanges seq) s = .next
    ((s.plantHunting.takeChanges seq).2.answer 0x05 seq
      (.ok (changesData (s.plantHunting.takeChanges seq).1 (s.plantHunting.takeChanges seq).2.changeSet))) := by
  show execReadChanges seq s = _
  unfold execReadChanges
  rw [if_pos hl]

theorem takeChanges_fresh {s : State} {seq : Byte} (h : ∀ batch, s.lastBatch ≠ some (seq, batch)) :
    s.takeChanges seq = s.takeFresh seq := by
  unfold State.takeChanges
  cases hb : s.lastBatch with
  | none => rfl
  | some x =>
    have hx : x.1 ≠ seq := fun e => h x.2 (by rw [hb, ← e])
    exact if_neg hx

theorem takeFresh_changesOnly (s : State) (seq : Byte) : changesOnly s (s.takeFresh seq).2 [.changes, .batch] := by
  intro p hp
  cases p <;> simp_all [State.same, sameAt, State.takeFresh]

theorem takeChanges_again {s : State} {seq : Byte} {batch : List Ref} (h : s.lastBatch = some (seq, batch)) :
    s.takeChanges seq = (batch, s) := by
  unfold State.takeChanges
  rw [h]
  exact if_pos rfl

/-- Settles O60: a new sequence number takes the front of the set; the last one brings the last batch. -/
theorem changesAreReadOnce : Obligations.ChangesAreReadOnce := by
  refine ⟨changesLayout_holds, fun seq s hl => ⟨fun h => ?_, fun batch h => ?_⟩⟩
  · have e := execReadChanges_ready seq hl
    rw [takeChanges_fresh (s := s.plantHunting) h] at e
    refine ⟨_, e, rfl, rfl, rfl, ⟨rfl, rfl⟩, changesOnly_mono (changesOnly_trans (changesOnly_trans
      (changesOnly_plantHunting s) (takeFresh_changesOnly _ seq)) (changesOnly_answer _ _ _ _)) ?_⟩
    decide
  · have e := execReadChanges_ready seq hl
    rw [takeChanges_again (s := s.plantHunting) h] at e
    exact ⟨_, e, onlyAnswered_of s _ _ _⟩

end Sys2Proof.Machine
end

section
/-! Panel telegrams (8.5, 11.4): their bytes, their slots, what the ports make of a body, and what an unlinked console
ignores. -/

namespace Sys2Proof.Machine

/-! ### The bytes of a telegram -/

theorem cadence_byte (p : Pattern) : p.cadenceByte = BitVec.ofNat 8 (cadenceCode p) := by
  cases p with
  | silent => rfl
  | sounding q => cases q <;> rfl

theorem source_code (src : ResultSource) : src.code = sourceCode src := by
  cases src with
  | key k => cases k <;> rfl
  | badge => rfl
  | undefinedTelegram => rfl

theorem lamp_byte (a b c d e : Bool) : flagByte a ||| (flagByte b <<< 1) ||| (flagByte c <<< 2) ||| (flagByte d <<< 3) |||
    (flagByte e <<< 4) =
    BitVec.ofNat 8 (flagCode a + 2 * flagCode b + 4 * flagCode c + 8 * flagCode d + 16 * flagCode e) := by
  revert a b c d e
  decide

theorem telegramLayout_holds (x : Telegram) : telegramLayout x x.bytes := by
  unfold Telegram.bytes
  dsimp only
  rw [lamp_byte, cadence_byte]
  refine ⟨rfl, rfl, rfl, rfl, rfl, ?_, rfl, fun h => ?_, fun y h => ?_⟩
  · cases x.handover <;> cases x.link <;> rfl
  · rw [h]
    exact ⟨rfl, rfl⟩
  · rw [show x.lastResult = some (y.1, y.2) from h]
    exact ⟨congrArg (fun n => some (byteOf n)) (source_code y.1), congrArg some (result_byte y.2)⟩

/-! ### Bodies -/

/-- A key body names no key exactly when its code is 0 or above 7. -/
theorem decodeTelegram_key (c : Console) (x : Byte) :
    decodeTelegram c [2, x] = .undefinedTelegram c [2, x] ↔ x = 0 ∨ 7 < x.toNat := by
  have zero : x = 0 ↔ x.toNat = 0 := BitVec.toNat_inj.symm
  rw [zero]
  show (match x.toNat with
    | 1 => Instr.ackKey c | 2 => .silenceKey c | 3 => .resetKey c | 4 => .handoverKey c | 5 => .seenKey c
    | 6 => .acceptKey c | 7 => .signOutKey c | _ => .undefinedTelegram c [2, x]) = _ ↔ _
  split <;> simp_all
  omega

theorem decodeTelegram_undefined (c : Console) (body : List Byte) :
    decodeTelegram c body = .undefinedTelegram c body ↔
      (∀ x, body ≠ [1, x]) ∧ (∀ x, body = [2, x] → x = 0 ∨ 7 < x.toNat) ∧ ∀ x y z, body ≠ [3, x, y, z] := by
  match body with
  | [] => simp [decodeTelegram]
  | [a] => simp [decodeTelegram]
  | [a, b] =>
    by_cases h1 : a = 1#8
    · subst h1
      simp [decodeTelegram]
    · by_cases h2 : a = 2#8
      · subst h2
        rw [show [2#8, b] = [2, b] from rfl, decodeTelegram_key]
        simp
      · simp [decodeTelegram, h1, h2]
  | [a, b, d] => simp [decodeTelegram]
  | [a, b, d, e] =>
    by_cases h3 : a = 3#8
    · subst h3
      simp [decodeTelegram]
    · simp [decodeTelegram, h3]
  | a :: b :: d :: e :: f :: l => simp [decodeTelegram]

/-! ### Keys and badges are panel telegrams -/

theorem exec_ackKey (c : Console) (s : State) :
    exec (.ackKey c) s = panelTelegram c (.key .ack) (fun v => v.ackKey c) s := rfl

theorem exec_silenceKey (c : Console) (s : State) :
    exec (.silenceKey c) s = panelTelegram c (.key .silence) (fun v => v.silenceKey c) s := rfl

theorem exec_resetKey (c : Console) (s : State) :
    exec (.resetKey c) s = panelTelegram c (.key .reset) (fun v => v.resetKey c) s := rfl

theorem exec_handoverKey (c : Console) (s : State) :
    exec (.handoverKey c) s = panelTelegram c (.key .handover) (fun v => v.handoverKey c) s := rfl

theorem exec_seenKey (c : Console) (s : State) :
    exec (.seenKey c) s = panelTelegram c (.key .seen) (fun v => v.seenKey c) s := rfl

theorem exec_acceptKey (c : Console) (s : State) :
    exec (.acceptKey c) s = panelTelegram c (.key .accept) (fun v => v.acceptKey c) s := rfl

theorem exec_signOutKey (c : Console) (s : State) :
    exec (.signOutKey c) s = panelTelegram c (.key .signOut) (fun v => v.signOutKey c) s := rfl

theorem exec_badge (c : Console) (n : Badge) (s : State) :
    exec (.badge c n) s = panelTelegram c .badge (fun v => v.badge c n) s := rfl

/-! ### Slots -/

theorem setConsole_at (s : State) (c : Console) (f : ConsoleRecord → ConsoleRecord) :
    (s.setConsole c f).consoles[c] = f s.consoles[c] := upd_get_same ..

theorem setConsole_other (s : State) {c d : Console} (f : ConsoleRecord → ConsoleRecord) (h : d ≠ c) :
    (s.setConsole c f).consoles[d] = s.consoles[d] := upd_get_other _ _ _ _ h

theorem setConsole_id {s : State} {c : Console} {f : ConsoleRecord → ConsoleRecord}
    (h : f s.consoles[c] = s.consoles[c]) : s.setConsole c f = s := by
  have e : upd s.consoles c f = s.consoles := Vector.ext fun d hd => by
    rw [upd_get _ c ⟨d, hd⟩]
    split
    · next he => subst he; exact h
    · rfl
  unfold State.setConsole
  rw [e]


theorem execTelegramSent_powered (c : Console) {s : State} (h : s.powered = true) :
    exec (.telegramSent c) s = .next (s.setConsole c ConsoleRecord.telegramSent) := if_pos h

theorem telegramSent_idle {k : ConsoleRecord} (h : k.inFlight = none) : k.telegramSent = k := by
  simp [ConsoleRecord.telegramSent, h]

/-! ### Ports that are not linked -/

theorem panelTelegram_ignored {i : Instr} {c : Console} {src : ResultSource} {act : State → Effect} {s : State}
    (h : exec i s = panelTelegram c src act s) (hu : s.linkUp c = false) :
    ∃ t, exec i s = .next t ∧ changesOnly s t [.portReceivers] := by
  unfold panelTelegram at h
  split at h
  · have hn : ¬(s.portHunting c).linkUp c = true := by rw [show (s.portHunting c).linkUp c = false from hu]; simp
    dsimp only at h
    rw [if_neg hn] at h
    exact ⟨_, h, changesOnly_portHunting s c⟩
  · exact ⟨_, h, changesOnly_refl s _⟩

theorem execUndefinedTelegram_of {c : Console} {body : List Byte}
    (h : decodeTelegram c body = .undefinedTelegram c body) (s : State) : exec (.undefinedTelegram c body) s =
      panelTelegram c .undefinedTelegram (fun _ => Effect.refuse .badRequest) s := if_pos h

/-- Settles O48, clause by clause from the lemmas above. -/
theorem panelTelegrams : Obligations.PanelTelegrams := by
  refine ⟨telegramLayout_holds, fun c x y z => ⟨rfl, rfl, rfl, rfl, rfl, rfl, rfl, rfl, rfl⟩, decodeTelegram_undefined,
    ⟨fun c x s hp hx => ?_, fun c s hp hx => ?_⟩, fun c body s hb hh hu => ?_, fun c i s hu hi => ?_⟩
  · refine ⟨_, execTelegramSent_powered c hp, fun hw => ?_, fun hw => ?_, fun d hd => ?_, changesOnly_telegramSent s c⟩
    · rw [setConsole_at]
      simp only [ConsoleRecord.telegramSent, hx, hw, Option.isNone_some, Bool.false_eq_true, if_false, if_true]
      exact ⟨trivial, trivial⟩
    · rw [setConsole_at]
      simp only [ConsoleRecord.telegramSent, hx, hw, Option.isNone_some, Option.isSome_none, Bool.false_eq_true, if_false]
      exact ⟨trivial, trivial⟩
    · rw [setConsole_other _ _ hd]
  · refine ⟨_, execTelegramSent_powered c hp, ?_⟩
    rw [setConsole_id (telegramSent_idle hx)]
    exact changesOnly_refl s []
  · exact key_refuses (execUndefinedTelegram_of hb s) hh hu rfl
  · rcases hi with rfl | rfl | rfl | rfl | rfl | rfl | rfl | ⟨n, rfl⟩ | ⟨body, rfl⟩
    · exact panelTelegram_ignored (exec_ackKey c s) hu
    · exact panelTelegram_ignored (exec_silenceKey c s) hu
    · exact panelTelegram_ignored (exec_resetKey c s) hu
    · exact panelTelegram_ignored (exec_handoverKey c s) hu
    · exact panelTelegram_ignored (exec_seenKey c s) hu
    · exact panelTelegram_ignored (exec_acceptKey c s) hu
    · exact panelTelegram_ignored (exec_signOutKey c s) hu
    · exact panelTelegram_ignored (exec_badge c n s) hu
    · by_cases hb : decodeTelegram c body = .undefinedTelegram c body
      · exact panelTelegram_ignored (execUndefinedTelegram_of hb s) hu
      · exact ⟨s, if_neg hb, changesOnly_refl s _⟩

end Sys2Proof.Machine
end

section
/-! Supervised lines (chapter 2): band changes, blanking and LINE_WRITE; what a store write leaves. -/

namespace Sys2Proof.Machine

/-! ### A chain of checks, one at a time -/

theorem firstRefusal_fail {b : Bool} {r : Reason} (l : List (Bool × Reason)) (h : ¬b = true) :
    firstRefusal ((b, r) :: l) = some r := if_neg h

theorem firstRefusal_pass {b : Bool} {r : Reason} (l : List (Bool × Reason)) (h : b = true) :
    firstRefusal ((b, r) :: l) = firstRefusal l := if_pos h

theorem check_fail {b : Bool} {r : Reason} (l : List (Bool × Reason)) (v : Verdict) (h : ¬b = true) :
    Verdict.check (firstRefusal ((b, r) :: l)) v = .refuse r := by
  rw [firstRefusal_fail l h]
  rfl

theorem check_pass {b : Bool} {r : Reason} (l : List (Bool × Reason)) (v : Verdict) (h : b = true) :
    Verdict.check (firstRefusal ((b, r) :: l)) v = Verdict.check (firstRefusal l) v := by
  rw [firstRefusal_pass l h]

/-! ### Store writes and marks -/

theorem stored_of {s t : State} (h : t.store = s.store.write s.draws t.cfg) (hd : t.draws = s.draws + 1) : stored s t :=
  ⟨h, h ▸ write_wroteImage _ _ _, hd⟩

/-- A request whose effect ends in its one store write has written the contents as they stand. -/
theorem Concludes.stored {s u t : State} (h : Concludes u.storeWrite t) (hs : u.store = s.store) (hd : u.draws = s.draws) :
    stored s t := by
  refine stored_of ?_ ?_
  · rw [h.store, h.cfg, ← hs, ← hd]
    rfl
  · rw [h.draws, ← hd]
    rfl

theorem changesOnly_storeWrite (s : State) : changesOnly s s.storeWrite [.store, .draws] := by
  intro p hp
  cases p <;> simp_all [State.same, sameAt, State.storeWrite]

theorem changesOnly_markAll (s : State) (l : List Ref) : changesOnly s (s.markAll l) [.changes] := by
  intro p hp
  cases p <;> simp_all [State.same, sameAt, State.markAll]

/-! ### Band changes (R26, R192) -/

theorem bandChanged_lines (s : State) (l : Line) (b : Band) : (s.bandChanged l b).lines = upd s.lines l fun x =>
    { band := b, candidate := s.cfg.lines[l].read b, appeared := s.appearance s.cfg.lines[l] (s.cfg.lines[l].read b),
      qualified := x.qualified } := rfl

theorem bandChanged_changesOnly (s : State) (l : Line) (b : Band) : changesOnly s (s.bandChanged l b) [.lines] := by
  intro p hp
  cases p <;> simp_all [State.same, sameAt, State.bandChanged, State.setLine]

theorem loops_changesOnly (s : State) (l : Line) (ohms : Nat) :
    changesOnly s { s with loops := s.loops.set l.val ohms l.isLt } [.loops] := by
  intro p hp
  cases p <;> simp_all [State.same, sameAt]

theorem exec_bandChange_measured {l : Line} {ohms : Nat} {s : State} (hp : s.powered = true)
    (hb : bandOf ohms ≠ s.lines[l].band) : exec (.bandChange l ohms) s = .next
      (settle { s with loops := s.loops.set l.val ohms l.isLt }
        (({ s with loops := s.loops.set l.val ohms l.isLt } : State).bandChanged l (bandOf ohms)) none) :=
  if_pos (by simpa [hp] using hb)

theorem exec_bandChange_quiet {l : Line} {ohms : Nat} {s : State} (h : s.powered = false ∨ bandOf ohms = s.lines[l].band) :
    exec (.bandChange l ohms) s = .next { s with loops := s.loops.set l.val ohms l.isLt } :=
  if_neg (by rcases h with h | h <;> simp_all)

theorem bandOf_rows (ohms : Nat) : (ohms < 400 → bandOf ohms = .short) ∧
    (400 ≤ ohms → ohms < 2200 → bandOf ohms = .closed) ∧ (2200 ≤ ohms → ohms < 12000 → bandOf ohms = .opened) ∧
    (12000 ≤ ohms → bandOf ohms = .broken) := by
  unfold bandOf
  refine ⟨fun h => if_pos h, fun h1 h2 => ?_, fun h1 h2 => ?_, fun h => ?_⟩
  · rw [if_neg (by omega), if_pos h2]
  · rw [if_neg (by omega), if_neg (by omega), if_pos h2]
  · rw [if_neg (by omega), if_neg (by omega), if_neg (by omega)]

theorem read_rows (k : LineConfig) : (k.supervised = true → k.read .short = .fault ∧ k.read .broken = .fault) ∧
    (k.supervised = false → k.read .short = k.read .closed ∧ k.read .broken = k.read .opened) ∧
    (k.sense = .closeToAlarm → k.read .closed = .active ∧ k.read .opened = .normal) ∧
    (k.sense = .openToAlarm → k.read .closed = .normal ∧ k.read .opened = .active) := by
  refine ⟨fun h => ?_, fun h => ?_, fun h => ?_, fun h => ?_⟩ <;> simp [LineConfig.read, Sense.read, h]

theorem appearance_deferred {s : State} {k : LineConfig} {g : Group} {e : Nat} (hg : k.group = some g)
    (he : s.blankEnds[g] = some e) : s.appearance k .active = e := by
  have : s.blankEndFor k = some e := by unfold State.blankEndFor; rw [hg]; exact he
  unfold State.appearance
  rw [this]

theorem appearance_now {s : State} {k : LineConfig} {x : LineState}
    (h : x ≠ .active ∨ ∀ g, k.group = some g → s.blankEnds[g] = none) : s.appearance k x = s.partTime := by
  unfold State.appearance
  cases x with
  | active =>
    have : s.blankEndFor k = none := by
      unfold State.blankEndFor
      cases hg : k.group with
      | none => rfl
      | some g => exact (h.resolve_left (fun e => e rfl)) g hg
    rw [this]
  | normal => rfl
  | fault => rfl

/-- Settles O26: the band change is the one measured, and the rows are the tables. -/
theorem bandChangeSetsTheCandidate : Obligations.BandChangeSetsTheCandidate := by
  refine ⟨fun l ohms s => ⟨fun hp hb => ?_, fun h => ⟨_, exec_bandChange_quiet h, rfl, loops_changesOnly s l ohms⟩⟩,
    bandOf_rows, read_rows, fun s k x => ⟨?_, appearance_now⟩⟩
  · refine ⟨_, exec_bandChange_measured hp hb, ?_, ?_, ?_⟩
    · exact (settle_concludes _ _ none).only .loops (by decide)
    · exact (settle_concludes _ _ none).lines
    · exact changesOnly_trans (changesOnly_trans (loops_changesOnly s l ohms) (bandChanged_changesOnly _ _ _))
        (changesOnly_settle _ _ none)
  · rintro g e rfl hg he
    exact appearance_deferred hg he

/-! ### Blanking (R30 to R32) -/

section Blanking

variable {seq x : Byte} {w : Acting} {c : Console} {o : Option Operator} {g : Group} {s : State}

theorem exec_blankGroup (hw : decodeEngineer w = some (c, o)) (hg : decodeNumber 4 x = some g) :
    exec (.blankGroup seq w x) s = request 0x24 seq (some fun v => v.blankGroup c o g) s := by
  show execBlankGroup seq w x s = _
  unfold execBlankGroup
  rw [hw, hg]
  rfl

theorem mem_groupAreas (s : State) (g : Group) (a : Area) : a ∈ s.groupAreas g ↔
    ∃ l : Line, s.cfg.lines[l].group = some g ∧ ∃ p ∈ s.boundPoint l, s.cfg.points[p].area = a := by
  simp [State.groupAreas, State.linesOf, mem_numbersWhere]

theorem blank_authority (s : State) (g : Group) (op : Operator) :
    s.levelInAll op 3 (s.groupAreas g) = true ↔ s.mayBlank g op := by
  rw [levelInAll_iff, List.eq_nil_iff_forall_not_mem]
  simp only [mem_groupAreas, State.mayBlank]
  refine and_congr ⟨fun h l hl p hp => h _ ⟨l, hl, p, hp, rfl⟩, ?_⟩ (imp_congr_left ⟨fun h l hl => ?_, ?_⟩)
  · rintro h a ⟨l, hl, p, hp, rfl⟩
    exact h l hl p hp
  · cases hb : s.boundPoint l with
    | none => rfl
    | some p => exact absurd ⟨l, hl, p, hb, rfl⟩ (h _)
  · rintro h a ⟨l, hl, p, hp, -⟩
    rw [h l hl] at hp
    exact absurd hp (by simp)

theorem blank_line (s : State) (g : Group) (finish : Nat) (l : Line) : (s.blank g finish).lines[l] =
    if s.cfg.lines[l].group = some g ∧ s.lines[l].candidate = .active ∧ s.lines[l].qualified ≠ .active then
      { s.lines[l] with appeared := finish }
    else s.lines[l] := by
  simp [State.blank, and_assoc]

theorem blank_changesOnly (s : State) (g : Group) (finish : Nat) :
    changesOnly s (s.blank g finish) [.blanking, .lines] := by
  intro p hp
  cases p <;> simp_all [State.same, sameAt, State.blank]

theorem exec_blankEnd {e : Nat} (hp : s.powered = true) (hb : s.blankEnds[g] = some e) (he : e ≤ s.partTime) :
    exec (.blankEnd g) s = .next { s with blankEnds := s.blankEnds.set g.val none g.isLt } :=
  if_pos (by rw [hp, hb]; simpa [reached] using he)

theorem blankGroup_refused (h : ¬s.mayEngineer c o (s.mayBlank g)) : s.blankGroup c o g = .refuse .noAuthority :=
  check_fail [] _ (mt (engineer_congr s c o (blank_authority s g)).1 h)

theorem blankGroup_accepted (h : s.mayEngineer c o (s.mayBlank g)) : s.blankGroup c o g =
    .accept (s.blank g (s.partTime + 10 * s.cfg.params.blankTime[g]))
      (bytesOfSpan s.partTime (some (s.partTime + 10 * s.cfg.params.blankTime[g]))) :=
  check_pass [] _ ((engineer_congr s c o (blank_authority s g)).2 h)

end Blanking

/-- Settles O28: the authority is LEAD in the group's areas, and the effect is the one of `State.blank`. -/
theorem blankingDefersAlarms : Obligations.BlankingDefersAlarms := by
  refine ⟨fun seq w x c o g s hl hw hg hm => ?_, fun seq w x c o g s hl hw hg hm => ?_, fun g e s hp hb he => ?_⟩
  · exact request_refuses (exec_blankGroup hw hg) hl (blankGroup_refused (s := s.plantHunting) hm)
  · have hf := blankGroup_accepted (s := s.plantHunting) hm
    obtain ⟨t, ht, -, hend, hacc⟩ := request_accepts [.blanking, .lines] (exec_blankGroup hw hg) hl hf
      (changesOnly_mono (blank_changesOnly _ _ _) (by decide)) (by decide)
    refine ⟨t, ht, hend.blankEnds, fun l => ?_, _, ?_, ?_, hacc⟩
    · rw [hend.lines]
      exact blank_line _ _ _ l
    · obtain ⟨a, b, h, -⟩ := span_bytes s.partTime (some (s.partTime + 10 * s.cfg.params.blankTime[g]))
      exact (congrArg List.length h).trans rfl
    · obtain ⟨a, b, h, hn, hs⟩ := span_bytes s.partTime (some (s.partTime + 10 * s.cfg.params.blankTime[g]))
      refine (congrArg (fun d => spanAt d 0 s.partTime _) h).mpr ?_
      exact spanAt_of (pre := []) (post := []) rfl hn hs
  · refine ⟨_, exec_blankEnd hp hb he, rfl, fun p hp => ?_⟩
    cases p <;> simp_all [State.same, sameAt]

/-! ### LINE_WRITE (R25) -/

section LineWrite

variable {seq x x1 x2 x3 x4 : Byte} {w : Acting} {c : Console} {o : Option Operator} {l : Line} {new : LineConfig}
  {s : State}

theorem exec_lineWrite (hw : decodeEngineer w = some (c, o)) (hl : decodeNumber 32 x = some l)
    (hn : decodeLineConfig x1 x2 x3 x4 = some new) :
    exec (.lineWrite seq w x x1 x2 x3 x4) s = request 0x21 seq (some fun v => v.writeLine c o l new) s := by
  show execLineWrite seq w x x1 x2 x3 x4 s = _
  unfold execLineWrite
  rw [hw, hl, hn]
  rfl

theorem lineWrite_authority (s : State) (l : Line) (op : Operator) :
    s.lineWriteMeets l op = true ↔ s.mayWriteLine l op := by
  unfold State.lineWriteMeets State.mayWriteLine
  cases s.boundPoint l with
  | none => simp [supervisorSomewhere_iff]
  | some p => simp [supervisorIn_iff]

theorem lineIdle_iff (s : State) (l : Line) :
    s.lineIdle l = true ↔ ∀ p, s.boundPoint l = some p → s.statusOf p = .normal := by
  unfold State.lineIdle
  cases s.boundPoint l <;> simp

theorem restartLine_lines (s : State) (l : Line) (new : LineConfig) : (s.restartLine l new).lines = upd s.lines l fun y =>
    { band := y.band, candidate := new.read y.band, appeared := s.appearance new (new.read y.band),
      qualified := .normal } := rfl

theorem restartLine_cfg (s : State) (l : Line) (new : LineConfig) :
    (s.restartLine l new).cfg = { s.cfg with lines := s.cfg.lines.set l.val new l.isLt } := rfl

theorem restartLine_changesOnly (s : State) (l : Line) (new : LineConfig) :
    changesOnly s (s.restartLine l new) [.settings, .lines] := by
  intro p hp
  cases p <;> simp_all [State.same, sameAt, State.restartLine, State.setLine, State.setLineConfig]

theorem writeLine_refused (h : ¬s.mayEngineer c o (s.mayWriteLine l)) : s.writeLine c o l new = .refuse .noAuthority :=
  check_fail _ _ (mt (engineer_congr s c o (lineWrite_authority s l)).1 h)

section Allowed

variable (h : s.mayEngineer c o (s.mayWriteLine l))

include h

theorem writeLine_busy (hp : ∃ p, s.boundPoint l = some p ∧ s.statusOf p ≠ .normal) :
    s.writeLine c o l new = .refuse .wrongState := by
  obtain ⟨p, hb, hs⟩ := hp
  exact (check_pass _ _ ((engineer_congr s c o (lineWrite_authority s l)).2 h)).trans
    (check_fail _ _ fun hi => hs ((lineIdle_iff s l).1 hi p hb))

theorem writeLine_allowed (hp : ∀ p, s.boundPoint l = some p → s.statusOf p = .normal) : s.writeLine c o l new =
    if new = s.cfg.lines[l] then .unchanged (byteOf l.val :: lineConfigBytes new)
    else .accept (((s.restartLine l new).markAll ((s.boundPoint l).toList.map Ref.point)).storeWrite)
      (byteOf l.val :: lineConfigBytes new) :=
  (check_pass _ _ ((engineer_congr s c o (lineWrite_authority s l)).2 h)).trans
    (check_pass _ _ ((lineIdle_iff s l).2 hp))

end Allowed

end LineWrite

/-- Settles O33: the two checks in order, then one store write of the restarted line. -/
theorem lineWriteRestartsTheLine : Obligations.LineWriteRestartsTheLine := by
  refine ⟨fun l x => ⟨rfl, lineConfigLayout_holds l x⟩, fun seq w x x1 x2 x3 x4 c o l new s hr hw hx hn => ?_⟩
  have hexec := exec_lineWrite (seq := seq) (s := s) hw hx hn
  refine ⟨fun hm => ?_, fun hm hp => ?_, fun hm hp => ⟨fun he => ?_, fun he => ?_⟩⟩
  · exact request_refuses hexec hr (writeLine_refused (s := s.plantHunting) hm)
  · exact request_refuses hexec hr (writeLine_busy (s := s.plantHunting) hm hp)
  · exact request_unchanged hexec hr ((writeLine_allowed (s := s.plantHunting) hm hp).trans (if_pos he))
  · have hu := changesOnly_trans (changesOnly_trans (restartLine_changesOnly s.plantHunting l new)
      (changesOnly_markAll _ ((s.boundPoint l).toList.map Ref.point))) (changesOnly_storeWrite _)
    obtain ⟨t, ht, -, hend, hacc⟩ := request_accepts (storeParts ++ [.lines]) hexec hr
      ((writeLine_allowed (s := s.plantHunting) hm hp).trans (if_neg he)) (changesOnly_mono hu (by decide)) (by decide)
    refine ⟨t, ht, hend.cfg, hend.stored rfl rfl, hend.lines, fun p hb => hend.marks _ ?_, hacc⟩
    have hb' : s.plantHunting.boundPoint l = some p := hb
    rw [hb']
    exact markAll_marked _ (by simp)

end Sys2Proof.Machine
end

section
/-! What annunciation, admission and removal leave of the table, the queue, the loads and the item lists, in the words
of the claims (`annunciatedAt`, `listsAre`, `removedAt`). -/

namespace Sys2Proof.Machine

/-! ### Claims about the table follow it -/

theorem hasTable_refl (s : State) : hasTable s s := ⟨rfl, rfl, fun _ => rfl, rfl⟩

theorem hasTable_trans {s t u : State} (h : hasTable s t) (h' : hasTable t u) : hasTable s u := by
  obtain ⟨hl, hw, hc, hh⟩ := h
  obtain ⟨hl', hw', hc', hh'⟩ := h'
  exact ⟨hl'.trans hl, hw'.trans hw, fun c => (hc' c).trans (hc c), hh'.trans hh⟩

theorem Concludes.hasTable {u t : State} (h : Concludes u t) : hasTable u t := ⟨h.live, h.waiting, h.loads, h.handovers⟩

theorem listsAre_of_hasTable {s u t : State} {f : Console → List Item → List Item} (h : hasTable u t)
    (hf : listsAre s u f) : listsAre s t f := by
  intro d
  obtain ⟨-, -, -, hh⟩ := h
  rw [hh]
  exact hf d

theorem weighed_of_hasTable {s u t : State} {r : Record} {held : Bool} (h : hasTable u t) (hr : weighed s u r held) :
    weighed s t r held := by
  intro c
  obtain ⟨-, -, hc, -⟩ := h
  obtain ⟨h1, h2, h3, h4⟩ := hr c
  have e := hc c
  simp only [Prod.mk.injEq] at e
  obtain ⟨e1, e2, e3, e4⟩ := e
  exact ⟨e1.trans h1, e2.trans h2, e4.trans h3, e3.trans h4⟩

theorem annunciatedAt_of_hasTable {s u t : State} {i : Slot} {r : Record} (h : hasTable u t) (hr : annunciatedAt s u i r) :
    annunciatedAt s t i r := by
  obtain ⟨held, hh, hl, hw⟩ := hr
  exact ⟨held, hh, h.1.trans hl, weighed_of_hasTable h hw⟩

theorem removedAt_of_hasTable {s u t : State} {i : Slot} {r : Record} (h : hasTable u t) (hr : removedAt s u i r) :
    removedAt s t i r := by
  unfold removedAt at hr ⊢
  have ⟨hl, hw, hc, _⟩ := h
  cases hq : s.waiting with
  | nil =>
    rw [hq] at hr
    obtain ⟨h1, h2, h3, h4⟩ := hr
    exact ⟨hl.trans h1, hw.trans h2, fun c => (hc c).trans (h3 c), listsAre_of_hasTable h h4⟩
  | cons e es =>
    rw [hq] at hr
    obtain ⟨h1, h2, h3⟩ := hr
    exact ⟨annunciatedAt_of_hasTable h h1, hw.trans h2, listsAre_of_hasTable h h3⟩

/-! ### Annunciation (R49, R100, R105) -/

theorem high_iff (p : Priority) : p.high = false ↔ p = .p3 ∨ p = .p4 := by cases p <;> decide

theorem holds_heldBack (s : State) (r : Record) : s.holds r s.routes[r.area] = true ↔ heldBack s r := by
  rw [holds_iff, high_iff]

theorem weight_eq (p : Priority) : p.weight = weightOf p := by cases p <;> rfl

theorem annunciated_eq (s : State) (r : Record) : s.annunciated r = annunciation s r (s.holds r s.routes[r.area]) := rfl

theorem annunciate_console (s : State) (i : Slot) (r : Record) (c : Console) : (s.annunciate i r).consoles[c] =
    if s.routes[r.area] = some c ∧ s.holds r s.routes[r.area] = false then
      s.consoles[c].addWeight (weightOf r.priority) else s.consoles[c] := by
  unfold State.annunciate State.countsToward
  cases hh : s.holds r s.routes[r.area] with
  | true => simp
  | false =>
    cases hr : s.routes[r.area] with
    | none => simp
    | some d =>
      simp only [Bool.false_eq_true, if_false, Fin.getElem_fin, upd_get, Option.some.injEq, and_true, weight_eq]
      by_cases hd : c = d
      · rw [if_pos hd, if_pos hd.symm, hd]
      · rw [if_neg hd, if_neg (Ne.symm hd)]

theorem annunciate_weighed (s : State) (i : Slot) (r : Record) :
    weighed s (s.annunciate i r) r (s.holds r s.routes[r.area]) := fun c => by
  rw [annunciate_console]
  split <;> exact ⟨rfl, rfl, rfl, rfl⟩

theorem annunciatedAt_annunciate (s : State) (i : Slot) (r : Record) : annunciatedAt s (s.annunciate i r) i r :=
  ⟨_, holds_heldBack s r, rfl, annunciate_weighed s i r⟩

/-! ### Item lists (R172) -/

theorem withItems_withItems (p : Phase) (l m : List Item) : (p.withItems l).withItems m = p.withItems m := by
  cases p <;> rfl

theorem withItems_inReview (p : Phase) (l : List Item) : (p.withItems l).inReview = p.inReview := by cases p <;> rfl

theorem withItems_congr {p : Phase} {l m : List Item} (h : p.active = true → l = m) : p.withItems l = p.withItems m := by
  cases p with
  | none => rfl
  | offered o d x => rw [h rfl]
  | review o i d x => rw [h rfl]

theorem listsAre_refl (s : State) : listsAre s s fun _ l => l := fun d => by rw [withItems_items]

theorem listsAre_of_handovers {s t : State} (h : t.handovers = s.handovers) : listsAre s t fun _ l => l := fun d => by
  rw [h, withItems_items]

theorem listsAre_congr {s t : State} {f g : Console → List Item → List Item} (h : listsAre s t f)
    (hfg : ∀ d, f d s.handovers[d].phase.items = g d s.handovers[d].phase.items) : listsAre s t g := fun d => by
  rw [h d, hfg d]

theorem listsAre_trans {s u t : State} {f g : Console → List Item → List Item} (h : listsAre s u f)
    (h' : listsAre u t g) : listsAre s t fun d l => g d (f d l) := fun d => by
  rw [h' d, h d]
  dsimp only
  rw [withItems_withItems]
  refine congrArg (fun p => ({ s.handovers[d] with phase := p } : Handover)) (withItems_congr fun ha => ?_)
  rw [items_withItems, if_pos ha]

/-- A list that an event has made of the one before is in REVIEW where that one was. -/
theorem listsAre_inReview {s u : State} {f : Console → List Item → List Item} (h : listsAre s u f) (d : Console) :
    u.handovers[d].phase.inReview = s.handovers[d].phase.inReview := by
  rw [h d]
  exact withItems_inReview _ _

theorem mapPhases_lists (s : State) (f : Console → Phase → Phase) (g : Console → List Item → List Item)
    (h : ∀ d, f d s.handovers[d].phase = s.handovers[d].phase.withItems (g d s.handovers[d].phase.items)) :
    listsAre s (s.mapPhases f) g := fun d => by
  rw [← h d]
  simp [State.mapPhases]

theorem appendItem_lists (s : State) (a : Area) (ref : ItemRef) :
    listsAre s (s.appendItem a ref) fun d l => joined s a ref d l := by
  refine mapPhases_lists s _ _ fun d => ?_
  unfold joined
  by_cases h : s.cfg.areas[a].owner = some d
  · rw [if_pos h, if_pos (by simpa using h)]
    rfl
  · rw [if_neg h, if_neg (by simpa using h), withItems_items]

theorem unseeItem_lists (s : State) (ref : ItemRef) : listsAre s (s.unseeItem ref) fun _ l => unseenAgain ref l :=
  mapPhases_lists s _ _ fun _ => rfl

theorem dropItem_lists (s : State) (ref : ItemRef) : listsAre s (s.dropItem ref) fun _ l => dropped ref l := by
  refine mapPhases_lists s _ _ fun d => ?_
  unfold dropped
  refine congrArg (fun l => s.handovers[d].phase.withItems l) ?_
  refine List.filter_congr fun it _ => ?_
  simp [bne, beq_eq_decide]

theorem joined_congr {s u : State} {f : Console → List Item → List Item} (h : listsAre s u f) (hc : u.cfg = s.cfg)
    (a : Area) (ref : ItemRef) : joined u a ref = joined s a ref := by
  funext d l
  unfold joined
  rw [hc, listsAre_inReview h d]

/-! ### The same ground -/

section Ground

variable {s u t : State} (h : SameGround s u)

include h

theorem SameGround.entryRecord (e : Entry) : entryRecord u e = entryRecord s e := by
  unfold Sys2Proof.Machine.entryRecord newRecord
  rw [h.cfg, h.time]

theorem SameGround.annunciation (r : Record) (held : Bool) : annunciation u r held = annunciation s r held := by
  unfold Sys2Proof.Machine.annunciation
  rw [h.routes, h.time]

theorem SameGround.heldBack (r : Record) : heldBack u r ↔ heldBack s r := by
  unfold Sys2Proof.Machine.heldBack
  rw [h.routes]
  refine and_congr_right fun _ => and_congr_right fun _ => exists_congr fun c => ?_
  rw [h.flooded c]

/-- An annunciation on the same ground, with the loads as they were, is one of the state before. -/
theorem SameGround.annunciatedAt (hc : s.same u .loads) {i : Slot}
    (hl : ∀ x, u.live.set i.val x i.isLt = s.live.set i.val x i.isLt) {r : Record} (hr : annunciatedAt u t i r) :
    annunciatedAt s t i r := by
  obtain ⟨held, hh, ht, hw⟩ := hr
  refine ⟨held, hh.trans (h.heldBack r), ?_, fun c => ?_⟩
  · rw [ht, hl, h.annunciation]
  · have e := hc c
    simp only [Prod.mk.injEq] at e
    obtain ⟨e1, e2, e3, e4⟩ := e
    obtain ⟨h1, h2, h3, h4⟩ := hw c
    rw [h.routes, e3] at h4
    exact ⟨h1.trans e1, h2.trans e2, h3.trans e4, h4⟩

end Ground

/-! ### Admission and removal (R51, R54, R55) -/

theorem recordOfEntry_eq (s : State) (e : Entry) : s.recordOfEntry e = entryRecord s e := by
  unfold State.recordOfEntry entryRecord newRecord
  cases e.condition <;> rfl

theorem freshRecord_eq (s : State) (p : Point) (k : Cause) : s.freshRecord p k = newRecord s p k .active 1 s.partTime := rfl

theorem admitRecord_annunciates (s : State) (i : Slot) (r : Record) : annunciatedAt s (s.admitRecord i r) i r :=
  ⟨_, holds_heldBack s r, rfl, annunciate_weighed s i r⟩

theorem admitRecord_lists (s : State) (i : Slot) (r : Record) :
    listsAre s (s.admitRecord i r) fun d l => joined s r.area (.alarm r.point) d l := by
  have h := appendItem_lists (s.annunciate i r) r.area (.alarm r.point)
  exact h

theorem admitEntry_annunciates (s : State) (i : Slot) (e : Entry) (l : List Entry) :
    annunciatedAt s (State.admitEntry { s with waiting := l } i e) i (entryRecord s e) := by
  rw [← recordOfEntry_eq]
  exact ⟨_, holds_heldBack s _, admitEntry_live s i e l, annunciate_weighed { s with waiting := l } i (s.recordOfEntry e)⟩

theorem admitEntry_lists (s : State) (i : Slot) (e : Entry) (l : List Entry) :
    listsAre s (State.admitEntry { s with waiting := l } i e) fun d m =>
      joined s s.cfg.points[e.point].area (.alarm e.point) d m := by
  have h := admitRecord_lists { s with waiting := l } i (s.recordOfEntry e)
  exact h

theorem remove_table (s : State) (i : Slot) (r : Record) : (s.remove i r).live = s.live.set i.val none i.isLt ∧
    (s.remove i r).waiting = s.waiting ∧ (s.remove i r).consoles = s.consoles ∧ (s.remove i r).cfg = s.cfg ∧
    (s.remove i r).routes = s.routes ∧ (s.remove i r).partTime = s.partTime := ⟨rfl, rfl, rfl, rfl, rfl, rfl⟩

theorem remove_lists (s : State) (i : Slot) (r : Record) :
    listsAre s (s.remove i r) fun _ l => dropped (.alarm r.point) l := by
  have h := dropItem_lists ((s.setSlot i none).markAll [.point r.point, .area r.area]) (.alarm r.point)
  exact h

/-- The records after one has left. -/
theorem remove_lowestEmpty {s : State} {i : Slot} (r : Record) (hfull : ∀ j : Slot, s.live[j] ≠ none) :
    (s.remove i r).lowestEmpty = some i := by
  obtain ⟨hl, -⟩ := remove_table s i r
  cases h : (s.remove i r).lowestEmpty with
  | none =>
    refine absurd ?_ (lowestEmpty_none.1 h i)
    rw [hl]
    simp
  | some j =>
    have hj := lowestEmpty_live h
    rw [hl] at hj
    by_cases hji : j = i
    · rw [hji]
    · refine absurd ?_ (hfull j)
      simpa [set_get, hji] using hj

/-- With the slots full but for the one freed, the head of the queue takes it and no other entry moves. -/
theorem fill_one {s : State} {i : Slot} {e : Entry} {es : List Entry} (hw : s.waiting = e :: es)
    (hi : s.lowestEmpty = some i) (hfull : ∀ j : Slot, j ≠ i → s.live[j] ≠ none) :
    s.fill = State.admitEntry { s with waiting := es } i e := by
  unfold State.fill
  rw [hw]
  unfold State.fillFrom
  rw [hi]
  dsimp only
  have hnone : (State.admitEntry { s with waiting := es } i e).lowestEmpty = none := by
    refine lowestEmpty_none.2 fun j => ?_
    by_cases hj : j = i
    · subst hj
      rw [admitEntry_live]
      simp
    · simpa [admitEntry_live, set_get, hj] using hfull j hj
  cases es with
  | nil => rfl
  | cons x xs =>
    unfold State.fillFrom
    rw [hnone]

/-- A removal under the law of the table (R51, R54). -/
theorem removedAt_removeAndFill {s : State} (ht : s.waiting ≠ [] → s.lowestEmpty = none) (i : Slot) (r : Record) :
    removedAt s (s.removeAndFill i r) i r := by
  unfold removedAt State.removeAndFill
  obtain ⟨hl, hw, hc, hcfg, hroutes, htime⟩ := remove_table s i r
  cases hq : s.waiting with
  | nil =>
    have hfill : (s.remove i r).fill = s.remove i r := by
      unfold State.fill
      rw [hw, hq]
      rfl
    dsimp only
    rw [hfill]
    exact ⟨hl, hw.trans hq, fun _ => rfl, remove_lists s i r⟩
  | cons e es =>
    have hfull : ∀ j : Slot, s.live[j] ≠ none := lowestEmpty_none.1 (ht (by rw [hq]; simp))
    have hfill := fill_one (hw.trans hq) (remove_lowestEmpty (i := i) r hfull) fun j hj => by
      rw [hl]
      simpa [set_get, hj] using hfull j
    dsimp only
    rw [hfill]
    have hg : SameGround s (s.remove i r) := ⟨hcfg, hroutes, htime, fun _ => rfl⟩
    refine ⟨?_, rfl, ?_⟩
    · have hx := admitEntry_annunciates (s.remove i r) i e es
      rw [hg.entryRecord] at hx
      exact hg.annunciatedAt (fun _ => rfl) (fun x => by rw [hl, Vector.set_set]) hx
    · have hx := listsAre_trans (remove_lists s i r) (admitEntry_lists (s.remove i r) i e es)
      rw [joined_congr (remove_lists s i r) hcfg, hcfg] at hx
      exact hx

end Sys2Proof.Machine
end

section
/-! A raise and a clear leave what the claims `State.raised` and `State.cleared` spell; the parts each operation on the
table changes. -/

namespace Sys2Proof.Machine

/-! ### Numbers -/

/-- The lowest number that has a property. -/
theorem lowestWhere_eq_some_iff {n : Nat} {p : Fin n → Bool} {i : Fin n} :
    lowestWhere p = some i ↔ p i = true ∧ ∀ j < i, p j = false := by
  constructor
  · intro h
    refine ⟨lowestWhere_some h, fun j hj => ?_⟩
    by_contra hp
    exact absurd (lowestWhere_least h (by simpa using hp)) (not_le.2 hj)
  · rintro ⟨hp, hn⟩
    cases h : lowestWhere p with
    | none => rw [(lowestWhere_none p).1 h i] at hp; cases hp
    | some j =>
      have hji : j ≤ i := lowestWhere_least h hp
      rcases lt_or_eq_of_le hji with hlt | rfl
      · have := lowestWhere_some h
        rw [hn j hlt] at this
        cases this
      · rfl

theorem lowestEmpty_some_iff {s : State} {i : Slot} :
    s.lowestEmpty = some i ↔ s.live[i] = none ∧ ∀ j : Slot, j < i → s.live[j] ≠ none := by
  unfold State.lowestEmpty
  rw [lowestWhere_eq_some_iff, Option.isNone_iff_eq_none]
  refine and_congr_right fun _ => forall₂_congr fun j _ => ?_
  cases s.live[j] <;> simp

/-! ### The parts that table operations change -/

/-- Nothing of a console record but its second's sum has changed. -/
def SumsOnly (s t : State) : Prop := ∀ c : Console, ∃ n, t.consoles[c] = { s.consoles[c] with secondSum := n }

section Sums

variable {s t u : State}

theorem SumsOnly.refl (s : State) : SumsOnly s s := fun c => ⟨s.consoles[c].secondSum, rfl⟩

theorem SumsOnly.trans (h : SumsOnly s t) (h' : SumsOnly t u) : SumsOnly s u := fun c => by
  obtain ⟨n, hn⟩ := h c
  obtain ⟨m, hm⟩ := h' c
  exact ⟨m, by rw [hm, hn]⟩

theorem SumsOnly.of_consoles (h : t.consoles = s.consoles) : SumsOnly s t := fun c => ⟨s.consoles[c].secondSum, by rw [h]⟩

theorem SumsOnly.sameAt {α : Type} {g : ConsoleRecord → α} (h : SumsOnly s t)
    (hg : ∀ (k : ConsoleRecord) n, g { k with secondSum := n } = g k) : sameAt g s t := fun c => by
  obtain ⟨n, hn⟩ := h c
  rw [hn, hg]

/-- The parts that console records hold beside the loads. -/
def seatParts : List Part := [.links, .sessions, .flags, .results, .telegrams, .horns]

/-- An operation that moves sums alone leaves the other fields of the consoles. -/
theorem changesOnly_of_sums {parts : List Part} (h : SumsOnly s t)
    (hp : ∀ p, p ∉ parts → p ∉ seatParts → s.same t p) : changesOnly s t parts := fun p hn => by
  by_cases hs : p ∈ seatParts
  · cases p with
    | links => exact h.sameAt (g := fun k => (k.link, k.count)) fun _ _ => rfl
    | sessions => exact h.sameAt (g := fun k => (k.session, k.lastEnd)) fun _ _ => rfl
    | flags => exact h.sameAt (g := fun k => (k.hornFault, k.underQualified)) fun _ _ => rfl
    | results => exact h.sameAt (g := fun k => (k.resultNumber, k.lastResult)) fun _ _ => rfl
    | telegrams => exact h.sameAt (g := fun k => (k.inFlight, k.pendingTelegram)) fun _ _ => rfl
    | horns => exact h.sameAt (g := fun k => k.pattern) fun _ _ => rfl
    | _ => exact absurd hs (by decide)
  · exact hp p hn hs

theorem annunciate_sums (s : State) (i : Slot) (r : Record) : SumsOnly s (s.annunciate i r) := fun c => by
  rw [annunciate_console]
  split
  · exact ⟨_, rfl⟩
  · exact ⟨s.consoles[c].secondSum, rfl⟩

theorem admitEntry_sums (s : State) (i : Slot) (e : Entry) (l : List Entry) :
    SumsOnly s (State.admitEntry { s with waiting := l } i e) :=
  annunciate_sums { s with waiting := l } i (s.recordOfEntry e)

theorem fillFrom_sums (l : List Entry) (s : State) : SumsOnly s (State.fillFrom l s) := by
  induction l generalizing s with
  | nil => exact .refl s
  | cons e es ih =>
    unfold State.fillFrom
    split
    · exact (admitEntry_sums s _ e es).trans (ih _)
    · exact .refl s

end Sums

section Parts

variable (s : State) (i : Slot) (r : Record)

theorem setSlot_changesOnly (x : Option Record) : changesOnly s (s.setSlot i x) [.table] := by
  intro p hp
  cases p <;> simp_all [State.same, Sys2Proof.Machine.sameAt, State.setSlot]

theorem waiting_changesOnly (l : List Entry) : changesOnly s { s with waiting := l } [.queue] := by
  intro p hp
  cases p <;> simp_all [State.same, Sys2Proof.Machine.sameAt]

theorem annunciate_changesOnly : changesOnly s (s.annunciate i r) [.table, .loads] := by
  refine changesOnly_of_sums (annunciate_sums s i r) fun p hp hs => ?_
  cases p <;> simp_all [State.same, seatParts, State.annunciate]

theorem mapPhases_changesOnly (f : Console → Phase → Phase) : changesOnly s (s.mapPhases f) [.handovers] := by
  intro p hp
  cases p <;> simp_all [State.same, Sys2Proof.Machine.sameAt, State.mapPhases]

theorem admitRecord_changesOnly : changesOnly s (s.admitRecord i r) [.table, .loads, .handovers] :=
  changesOnly_trans (annunciate_changesOnly s i r) (mapPhases_changesOnly _ _)

theorem reraise_changesOnly (k : Cause) : changesOnly s (s.reraise i r k) [.table, .loads, .handovers] :=
  changesOnly_trans (annunciate_changesOnly s i _) (mapPhases_changesOnly _ _)

theorem remove_changesOnly : changesOnly s (s.remove i r) [.table, .handovers, .changes] := by
  refine changesOnly_mono (changesOnly_trans (changesOnly_trans (changesOnly_trans (setSlot_changesOnly s i none)
    (changesOnly_markAll _ [.point r.point, .area r.area])) (mapPhases_changesOnly _ _)) (changesOnly_markAll _ _)) ?_
  decide

theorem fill_changesOnly : changesOnly s s.fill [.table, .queue, .loads, .handovers, .changes] := by
  refine changesOnly_of_sums (fillFrom_sums _ s) fun p hp hs => ?_
  cases p <;> simp_all [State.same, seatParts]

theorem removeAndFill_changesOnly :
    changesOnly s (s.removeAndFill i r) [.table, .queue, .loads, .handovers, .changes] :=
  changesOnly_mono (changesOnly_trans (remove_changesOnly s i r) (fill_changesOnly _)) (by decide)

end Parts

/-! ### Raises (3.3) -/

theorem insertEntry_eq (e : Entry) (l : List Entry) : insertEntry e l =
    (l.takeWhile fun x => x.priority.rank ≤ e.priority.rank) ++
      e :: l.dropWhile fun x => x.priority.rank ≤ e.priority.rank := by
  induction l with
  | nil => rfl
  | cons x xs ih =>
    unfold insertEntry
    by_cases h : x.priority.rank ≤ e.priority.rank
    · rw [if_pos h, ih, List.takeWhile_cons_of_pos (by simpa using h), List.dropWhile_cons_of_pos (by simpa using h)]
      rfl
    · rw [if_neg h, List.takeWhile_cons_of_neg (by simpa using h), List.dropWhile_cons_of_neg (by simpa using h)]
      rfl

section Raise

variable {s : State} {p : Point} {i : Slot} {r : Record} {k : Cause}

theorem raisePoint_record (hf : s.find p = some (i, r)) : s.raisePoint p k = s.raiseRecord i r k := by
  unfold State.raisePoint
  rw [hf]

theorem raisePoint_entry {e : Entry} (hf : s.find p = none) (he : s.entryOf p = some e) : s.raisePoint p k =
    .accept (s.setEntry p fun y => { y with condition := .active, cause := k, occurrences := bumped y.occurrences }) := by
  unfold State.raisePoint
  rw [hf, he]

theorem raisePoint_normal (h : s.statusOf p = .normal) : s.raisePoint p k = .accept (s.raiseNormal p k) := by
  obtain ⟨hf, he⟩ := statusOf_normal h
  unfold State.raisePoint
  rw [hf, he]

theorem raiseRecord_standing (h : r.state = .raisedUnack ∨ r.state = .acked ∨ r.state = .shelved ∧ r.condition = .active) :
    s.raiseRecord i r k = s.raiseStanding i r k := by
  unfold State.raiseRecord
  rcases h with h | h | ⟨h, hc⟩
  · rw [h]
  · rw [h]
  · rw [h, hc]

theorem raiseRecord_cleared (h : r.state = .clearedUnack ∨ r.state = .resetWait) :
    s.raiseRecord i r k = .accept (s.reraise i r k) := by
  unfold State.raiseRecord
  rcases h with h | h <;> rw [h]

theorem raiseRecord_shelved (h : r.state = .shelved) (hc : r.condition = .gone) : s.raiseRecord i r k = .accept
    (s.setSlot i (some { r with condition := .active, cause := k, occurrences := bumped r.occurrences })) := by
  unfold State.raiseRecord
  rw [h, hc]

/-- A standing alarm with the cause it has stands as it was. -/
theorem setSlot_same (hl : s.live[i] = some r) : s.live.set i.val (some r) i.isLt = s.live := by
  refine Vector.ext fun j hj => ?_
  rw [Vector.getElem_set]
  split
  · next e => subst e; exact hl.symm
  · rfl

theorem raiseStanding_live (hl : s.live[i] = some r) :
    ((s.raiseStanding i r k).after s).live = s.live.set i.val (some { r with cause := k }) i.isLt := by
  unfold State.raiseStanding
  split
  · next h =>
    subst h
    exact (setSlot_same hl).symm
  · rfl

theorem raiseStanding_changesOnly : changesOnly s ((s.raiseStanding i r k).after s) [.table] := by
  unfold State.raiseStanding
  split
  · exact changesOnly_refl s _
  · exact setSlot_changesOnly s i _

theorem raiseNormal_some (hi : s.lowestEmpty = some i) : s.raiseNormal p k = s.admitRecord i (s.freshRecord p k) := by
  unfold State.raiseNormal
  rw [hi]

theorem raiseNormal_none (hi : s.lowestEmpty = none) :
    s.raiseNormal p k = { s with waiting := insertEntry (s.freshEntry p k) s.waiting } := by
  unfold State.raiseNormal
  rw [hi]

/-- An operation that left queue, loads and lists alone, in the words of the claims. -/
theorem quiet_of {t : State} (h : changesOnly s t [.table]) : t.waiting = s.waiting ∧ s.same t .loads ∧
    t.handovers = s.handovers := ⟨h .queue (by decide), h .loads (by decide), h .handovers (by decide)⟩

/-- A raise leaves what `State.raised` spells. -/
theorem raised_raisePoint (s : State) (p : Point) (k : Cause) : s.raised ((s.raisePoint p k).after s) p k where
  standing i r hf hr := by
    rw [raisePoint_record hf, raiseRecord_standing hr]
    exact ⟨raiseStanding_live (find_live hf), quiet_of raiseStanding_changesOnly⟩
  again i r hf hr := by
    rw [raisePoint_record hf, raiseRecord_cleared hr]
    exact ⟨annunciatedAt_annunciate s i _, rfl, unseeItem_lists (s.annunciate i _) _⟩
  shelved i r hf hr hc := by
    rw [raisePoint_record hf, raiseRecord_shelved hr hc]
    exact ⟨rfl, quiet_of (setSlot_changesOnly s i _)⟩
  entry e hf he := by
    rw [raisePoint_entry hf he]
    exact ⟨rfl, rfl, fun _ => rfl, rfl⟩
  fresh i hn hi := by
    rw [raisePoint_normal hn, raiseNormal_some hi]
    exact ⟨admitRecord_annunciates s i _, rfl, admitRecord_lists s i _⟩
  queued hn hi := by
    rw [raisePoint_normal hn, raiseNormal_none hi]
    exact ⟨insertEntry_eq _ _, rfl, fun _ => rfl, rfl⟩

theorem raised_of_hasTable {u t : State} (h : hasTable u t) (hr : s.raised u p k) : s.raised t p k := by
  have ⟨hl, hw, hc, hh⟩ := h
  have loads : s.same u .loads → s.same t .loads := fun hs c => (hc c).trans (hs c)
  exact {
    standing := fun i r hf hx => by
      obtain ⟨h1, h2, h3, h4⟩ := hr.standing i r hf hx
      exact ⟨hl.trans h1, hw.trans h2, loads h3, hh.trans h4⟩
    again := fun i r hf hx => by
      obtain ⟨h1, h2, h3⟩ := hr.again i r hf hx
      exact ⟨annunciatedAt_of_hasTable h h1, hw.trans h2, listsAre_of_hasTable h h3⟩
    shelved := fun i r hf hx hc => by
      obtain ⟨h1, h2, h3, h4⟩ := hr.shelved i r hf hx hc
      exact ⟨hl.trans h1, hw.trans h2, loads h3, hh.trans h4⟩
    entry := fun e hf he => by
      obtain ⟨h1, h2, h3, h4⟩ := hr.entry e hf he
      exact ⟨hw.trans h1, hl.trans h2, loads h3, hh.trans h4⟩
    fresh := fun i hn hi => by
      obtain ⟨h1, h2, h3⟩ := hr.fresh i hn hi
      exact ⟨annunciatedAt_of_hasTable h h1, hw.trans h2, listsAre_of_hasTable h h3⟩
    queued := fun hn hi => by
      obtain ⟨h1, h2, h3, h4⟩ := hr.queued hn hi
      exact ⟨hw.trans h1, hl.trans h2, loads h3, hh.trans h4⟩ }

end Raise

/-! ### Clears (3.4) -/

section Clear

variable {s : State} {p : Point} {i : Slot} {r : Record}

theorem clearPoint_record (hf : s.find p = some (i, r)) : s.clearPoint p = s.clearRecord i r := by
  unfold State.clearPoint
  rw [hf]

theorem clearPoint_entry {e : Entry} (hf : s.find p = none) (he : s.entryOf p = some e) :
    s.clearPoint p = s.clearEntry p e := by
  unfold State.clearPoint
  rw [hf, he]

theorem clearPoint_normal (h : s.statusOf p = .normal) : s.clearPoint p = .refuse .alreadyDone := by
  obtain ⟨hf, he⟩ := statusOf_normal h
  unfold State.clearPoint
  rw [hf, he]

theorem clearRecord_removed (h : r.state = .raisedUnack ∧ r.cls = .selfClearing ∨ r.state = .acked ∧ r.cls ≠ .held) :
    s.clearRecord i r = .accept (s.removeAndFill i r) := by
  unfold State.clearRecord
  rcases h with ⟨h, hc⟩ | ⟨h, hc⟩
  · rw [h, hc]
  · rw [h]
    cases hk : r.cls with
    | held => exact absurd hk hc
    | selfClearing => rfl
    | locking => rfl

theorem clearRecord_stays (h : r.state = .raisedUnack) (hc : r.cls ≠ .selfClearing) :
    s.clearRecord i r = .accept (s.setSlot i (some (s.clearedRecord r))) := by
  unfold State.clearRecord
  rw [h]
  cases hk : r.cls with
  | selfClearing => exact absurd hk hc
  | held => rfl
  | locking => rfl

theorem clearRecord_waits (h : r.state = .acked) (hc : r.cls = .held) :
    s.clearRecord i r = .accept (s.setSlot i (some { r with state := .resetWait, condition := .gone })) := by
  unfold State.clearRecord
  rw [h, hc]

theorem clearRecord_shelved (h : r.state = .shelved) (hc : r.condition = .active) :
    s.clearRecord i r = .accept (s.setSlot i (some { r with condition := .gone })) := by
  unfold State.clearRecord
  rw [h, hc]

theorem clearRecord_done (h : r.state = .clearedUnack ∨ r.state = .resetWait ∨ r.state = .shelved ∧ r.condition = .gone) :
    s.clearRecord i r = .refuse .alreadyDone := by
  unfold State.clearRecord
  rcases h with h | h | ⟨h, hc⟩
  · rw [h]
  · rw [h]
  · rw [h, hc]

theorem clearEntry_done {e : Entry} (h : e.condition = .gone) : s.clearEntry p e = .refuse .alreadyDone := by
  unfold State.clearEntry
  rw [h]

theorem clearEntry_leaves {e : Entry} (h : e.condition = .active) (hc : s.cfg.points[p].cls = .selfClearing) :
    s.clearEntry p e = .accept { s with waiting := s.waiting.filter fun x => x.point != p } := by
  unfold State.clearEntry
  rw [h, hc]

theorem clearEntry_stays {e : Entry} (h : e.condition = .active) (hc : s.cfg.points[p].cls ≠ .selfClearing) :
    s.clearEntry p e = .accept (s.setEntry p fun x => { x with condition := .gone }) := by
  unfold State.clearEntry
  rw [h]
  dsimp only
  cases hk : s.cfg.points[p].cls with
  | selfClearing => exact absurd hk hc
  | held => rfl
  | locking => rfl

theorem clearEntry_changesOnly (s : State) (p : Point) (e : Entry) :
    changesOnly s ((s.clearEntry p e).after s) [.queue] := by
  cases hc : e.condition with
  | gone =>
    rw [clearEntry_done hc]
    exact changesOnly_refl s _
  | active =>
    by_cases hk : s.cfg.points[p].cls = .selfClearing
    · rw [clearEntry_leaves hc hk]
      exact waiting_changesOnly s _
    · rw [clearEntry_stays hc hk]
      exact waiting_changesOnly s _

theorem clearedRecord_eq (s : State) (r : Record) : s.clearedRecord r = if r.floodHeld then
    { r with state := .clearedUnack, condition := .gone, floodHeld := false, annunciatedAt := s.partTime,
             silencedAtRoute := false, silencedAtSupervisor := false, stage := 0 }
    else { r with state := .clearedUnack, condition := .gone } := rfl

/-- A clear under the law of the table leaves what `State.cleared` spells. -/
theorem cleared_clearPoint {s : State} (ht : s.waiting ≠ [] → s.lowestEmpty = none) (p : Point) : s.cleared ((s.clearPoint p).after s) p where
  removed i r hf hr := by
    rw [clearPoint_record hf, clearRecord_removed hr]
    exact removedAt_removeAndFill ht i r
  stays i r hf hr hc := by
    rw [clearPoint_record hf, clearRecord_stays hr hc]
    exact ⟨rfl, quiet_of (setSlot_changesOnly s i _)⟩
  waits i r hf hr hc := by
    rw [clearPoint_record hf, clearRecord_waits hr hc]
    exact ⟨rfl, quiet_of (setSlot_changesOnly s i _)⟩
  shelved i r hf hr := by
    rw [clearPoint_record hf]
    cases hc : r.condition with
    | active =>
      rw [clearRecord_shelved hr hc]
      exact ⟨rfl, quiet_of (setSlot_changesOnly s i _)⟩
    | gone =>
      rw [clearRecord_done (.inr (.inr ⟨hr, hc⟩))]
      refine ⟨?_, rfl, fun _ => rfl, rfl⟩
      rw [← hc]
      exact (setSlot_same (find_live hf)).symm
  gone i r hf hr := by
    rw [clearPoint_record hf, clearRecord_done (hr.imp_right .inl)]
    exact hasTable_refl s
  entry e hf he := by
    rw [clearPoint_entry hf he]
    have only := clearEntry_changesOnly s p e
    refine ⟨only .table (by decide), only .loads (by decide), only .handovers (by decide), fun hc => ?_, fun hc hk => ?_, fun hc hk => ?_⟩
    · rw [clearEntry_done hc]
      rfl
    · rw [clearEntry_leaves hc hk]
      rfl
    · rw [clearEntry_stays hc hk]
      rfl
  normal hn := by
    rw [clearPoint_normal hn]
    exact hasTable_refl s

theorem cleared_of_hasTable {u t : State} (h : hasTable u t) (hr : s.cleared u p) : s.cleared t p := by
  have ⟨hl, hw, hc, hh⟩ := h
  have loads : s.same u .loads → s.same t .loads := fun hs c => (hc c).trans (hs c)
  exact {
    removed := fun i r hf hx => removedAt_of_hasTable h (hr.removed i r hf hx)
    stays := fun i r hf hx hk => by
      obtain ⟨h1, h2, h3, h4⟩ := hr.stays i r hf hx hk
      exact ⟨hl.trans h1, hw.trans h2, loads h3, hh.trans h4⟩
    waits := fun i r hf hx hk => by
      obtain ⟨h1, h2, h3, h4⟩ := hr.waits i r hf hx hk
      exact ⟨hl.trans h1, hw.trans h2, loads h3, hh.trans h4⟩
    shelved := fun i r hf hx => by
      obtain ⟨h1, h2, h3, h4⟩ := hr.shelved i r hf hx
      exact ⟨hl.trans h1, hw.trans h2, loads h3, hh.trans h4⟩
    gone := fun i r hf hx => by
      obtain ⟨h1, h2, h3, h4⟩ := hr.gone i r hf hx
      exact ⟨hl.trans h1, hw.trans h2, loads h3, hh.trans h4⟩
    entry := fun e hf he => by
      obtain ⟨h1, h2, h3, h4, h5, h6⟩ := hr.entry e hf he
      exact ⟨hl.trans h1, loads h2, hh.trans h3, fun hc => hw.trans (h4 hc), fun hc hk => hw.trans (h5 hc hk),
        fun hc hk => hw.trans (h6 hc hk)⟩
    normal := fun hn => by
      obtain ⟨h1, h2, h3, h4⟩ := hr.normal hn
      exact ⟨hl.trans h1, hw.trans h2, loads h3, hh.trans h4⟩ }

/-- A raise changes the table, the queue, the loads and the lists alone. -/
theorem raisePoint_changesOnly (s : State) (p : Point) (k : Cause) :
    changesOnly s ((s.raisePoint p k).after s) [.table, .queue, .loads, .handovers] := by
  cases hf : s.find p with
  | some x =>
    obtain ⟨i, r⟩ := x
    rw [raisePoint_record hf]
    by_cases hs : r.state = .raisedUnack ∨ r.state = .acked ∨ r.state = .shelved ∧ r.condition = .active
    · rw [raiseRecord_standing hs]
      exact changesOnly_mono raiseStanding_changesOnly (by decide)
    · by_cases hc : r.state = .clearedUnack ∨ r.state = .resetWait
      · rw [raiseRecord_cleared hc]
        exact changesOnly_mono (reraise_changesOnly s i r k) (by decide)
      · have hsh : r.state = .shelved := by cases hx : r.state <;> simp_all
        have hg : r.condition = .gone := by cases hx : r.condition <;> simp_all
        rw [raiseRecord_shelved hsh hg]
        exact changesOnly_mono (setSlot_changesOnly s i _) (by decide)
  | none =>
    cases he : s.entryOf p with
    | some e =>
      rw [raisePoint_entry hf he]
      exact changesOnly_mono (waiting_changesOnly s _) (by decide)
    | none =>
      rw [raisePoint_normal (statusOf_none hf he)]
      cases hi : s.lowestEmpty with
      | some i =>
        rw [raiseNormal_some hi]
        exact changesOnly_mono (admitRecord_changesOnly s i _) (by decide)
      | none =>
        rw [raiseNormal_none hi]
        exact changesOnly_mono (waiting_changesOnly s _) (by decide)

/-- A clear changes the table, the queue, the loads and the lists, with the marks of a removal. -/
theorem clearPoint_changesOnly (s : State) (p : Point) :
    changesOnly s ((s.clearPoint p).after s) [.table, .queue, .loads, .handovers, .changes] := by
  cases hf : s.find p with
  | some x =>
    obtain ⟨i, r⟩ := x
    rw [clearPoint_record hf]
    unfold State.clearRecord
    have slot (y : Option Record) : changesOnly s (s.setSlot i y) [.table, .queue, .loads, .handovers, .changes] :=
      changesOnly_mono (setSlot_changesOnly s i y) (by decide)
    cases r.state with
    | raisedUnack =>
      cases r.cls with
      | selfClearing => exact removeAndFill_changesOnly s i r
      | locking => exact slot _
      | held => exact slot _
    | acked =>
      cases r.cls with
      | selfClearing => exact removeAndFill_changesOnly s i r
      | locking => exact removeAndFill_changesOnly s i r
      | held => exact slot _
    | clearedUnack => exact changesOnly_refl s _
    | resetWait => exact changesOnly_refl s _
    | shelved =>
      cases r.condition with
      | active => exact slot _
      | gone => exact changesOnly_refl s _
  | none =>
    cases he : s.entryOf p with
    | some e =>
      rw [clearPoint_entry hf he]
      exact changesOnly_mono (clearEntry_changesOnly s p e) (by decide)
    | none =>
      rw [clearPoint_normal (statusOf_none hf he)]
      exact changesOnly_refl s _

end Clear

end Sys2Proof.Machine
end

section
/-! RAISE, CLEAR and the qualification of a line settled (chapters 2 and 3). -/

namespace Sys2Proof.Machine

/-! ### What a raise marks -/

theorem find_of_live {s : State} {i : Slot} {r : Record} (h : s.live[i] = some r) : s.find r.point ≠ none := fun hn =>
  find_none hn r ((mem_records s r).2 ⟨i, h⟩) rfl

theorem settled_find (u : State) (p : Point) : u.rehorn.rerelay.find p = u.find p := rfl

/-- A point that had no record and has one is marked. -/
theorem viewDiffers_point_of_live {s u : State} {p : Point} (hf : s.find p = none) (hu : u.find p ≠ none) :
    viewDiffers s u.rehorn.rerelay (.point p) := fun h => by
  have hr : s.recordOf p = u.recordOf p := congrArg PointView.record h
  unfold State.recordOf at hr
  rw [hf, Option.map_none, eq_comm, Option.map_eq_none_iff] at hr
  exact hu hr

theorem viewDiffers_point_of_entry {s u : State} {p : Point} (h : s.entryOf p ≠ u.entryOf p) :
    viewDiffers s u.rehorn.rerelay (.point p) := fun hv => h (congrArg PointView.entry hv)

theorem areaCounts_fst (s : State) (a : Area) : (s.areaCounts a).1 = s.live.toList.countP fun o => o.any fun r => r.area == a := by
  unfold State.areaCounts State.records
  dsimp only
  rw [← List.countP_eq_length_filter, List.countP_filterMap]
  refine List.countP_congr fun o _ => ?_
  cases o <;> simp

/-- An area with one record more is marked. -/
theorem viewDiffers_area_of_live {s u : State} {i : Slot} {r : Record} (hn : s.live[i] = none)
    (hl : u.live = s.live.set i.val (some r) i.isLt) : viewDiffers s u.rehorn.rerelay (.area r.area) := fun h => by
  have hc : (s.areaCounts r.area).1 = (u.areaCounts r.area).1 := congrArg (fun x => x.2.2.1) h
  rw [areaCounts_fst, areaCounts_fst, hl, Vector.toList_set, List.countP_set (by simp)] at hc
  simp [show s.live[i.val] = none from hn] at hc

theorem marked_cons {u : State} {r : Ref} {l : List Ref} (h : marked u [r]) (h' : marked u l) : marked u (r :: l) :=
  ⟨fun q hq => (List.mem_cons.1 hq).elim (fun e => e ▸ h.1 r (List.mem_singleton_self r)) (h'.1 q), h.2⟩

theorem marked_answer {u : State} {refs : List Ref} (h : marked u refs) (code seq : Byte) (reply : Reply) :
    marked (u.answer code seq reply) refs := marked_of_same rfl rfl h

/-! ### RAISE (R33) -/

section Raise

variable {seq x : Byte} {p : Point} {s : State}

/-- RAISE of a point of the plant link. -/
theorem exec_raise_link (hx : decodeNumber 256 x = some p) : ∃ f, exec (.raise seq x) s = request 0x01 seq (some f) s ∧
    ∀ v : State, v.cfg.points[p].use = .link → f v = (v.raisePoint p .alarm).verdict [] := by
  refine ⟨_, congrArg (fun d => request 0x01 seq (Option.map _ d) s) hx, fun v hv => ?_⟩
  dsimp only
  rw [hv]

variable (hl : s.linkReady = true) (hx : decodeNumber 256 x = some p) (hu : s.cfg.points[p].use = .link)

include hl hx hu

/-- A raise that takes effect. -/
theorem raise_accepts {u : State} (parts : List Part) (he : s.plantHunting.raisePoint p .alarm = .accept u)
    (hc : changesOnly s.plantHunting u parts) (hp : Part.plantReceiver ∉ parts) :
    ∃ t, exec (.raise seq x) s = .next t ∧ t = (settle s.plantHunting u none).answer 0x01 seq (.ok []) ∧
      Concludes u t ∧ accepted s t 0x01 seq [] parts := by
  obtain ⟨f, hexec, hf⟩ := exec_raise_link (seq := seq) (s := s) hx
  refine request_accepts parts hexec hl ((hf s.plantHunting hu).trans (by rw [he]; rfl))
    (changesOnly_mono hc fun q hq => List.mem_append_right _ hq) ?_
  simpa [derivedParts] using hp

end Raise

/-- Settles O29: a raise of a NORMAL point is an admission to the lowest empty slot or an insertion into the queue. -/
theorem raiseOfANormalPoint : Obligations.RaiseOfANormalPoint := by
  refine ⟨fun s i => lowestEmpty_some_iff, fun seq x p s hl hx hu hn => ⟨fun i hi => ?_, fun hi => ?_⟩⟩
  · have he : s.plantHunting.raisePoint p .alarm = .accept (s.plantHunting.admitRecord i (s.freshRecord p .alarm)) := by
      rw [raisePoint_normal (s := s.plantHunting) hn, raiseNormal_some (s := s.plantHunting) hi]
      rfl
    obtain ⟨t, ht, rfl, hend, hacc⟩ := raise_accepts (seq := seq) hl hx hu [.table, .loads, .handovers] he
      (admitRecord_changesOnly _ i _) (by decide)
    refine ⟨_, ht, annunciatedAt_of_hasTable hend.hasTable (admitRecord_annunciates s.plantHunting i _), ?_,
      listsAre_of_hasTable hend.hasTable (admitRecord_lists s.plantHunting i _), hacc⟩
    have hlive : (s.plantHunting.admitRecord i (s.freshRecord p .alarm)).live =
      s.live.set i.val (some (s.annunciated (s.freshRecord p .alarm))) i.isLt := rfl
    have hat : (s.plantHunting.admitRecord i (s.freshRecord p .alarm)).live[i] =
      some (s.annunciated (s.freshRecord p .alarm)) := by rw [hlive]; simp
    obtain ⟨hf, -⟩ := statusOf_normal hn
    have hpoint := settle_marked s.plantHunting (s.plantHunting.admitRecord i (s.freshRecord p .alarm)) none
      (viewDiffers_point_of_live (s := s.plantHunting) hf (find_of_live hat))
    have harea := settle_marked s.plantHunting (s.plantHunting.admitRecord i (s.freshRecord p .alarm)) none
      (viewDiffers_area_of_live (s := s.plantHunting) (lowestEmpty_live hi) hlive)
    exact marked_answer (marked_cons hpoint harea) _ _ _
  · have he : s.plantHunting.raisePoint p .alarm =
        .accept { s.plantHunting with waiting := insertEntry (s.freshEntry p .alarm) s.waiting } := by
      rw [raisePoint_normal (s := s.plantHunting) hn, raiseNormal_none (s := s.plantHunting) hi]
      rfl
    obtain ⟨t, ht, rfl, hend, hacc⟩ := raise_accepts (seq := seq) hl hx hu [.queue] he (waiting_changesOnly _ _) (by decide)
    refine ⟨_, ht, hend.waiting.trans (insertEntry_eq _ _), ?_, hacc⟩
    obtain ⟨-, hq⟩ := statusOf_normal hn
    refine marked_answer (settle_marked s.plantHunting _ none (viewDiffers_point_of_entry fun h => ?_)) _ _ _
    exact entryOf_none (h.symm.trans hq) (s.freshEntry p .alarm) ((mem_insertEntry _ _ _).2 (.inl rfl)) rfl

/-! ### A raise of a point that stands in the table -/

section Standing

variable {seq x : Byte} {p : Point} {s : State} {i : Slot} {r : Record}

/-- A standing alarm takes a new cause, and the answer is ALREADY_DONE either way. -/
theorem raise_standing (hl : s.linkReady = true) (hx : decodeNumber 256 x = some p) (hu : s.cfg.points[p].use = .link)
    (hf : s.find p = some (i, r))
    (hr : r.state = .raisedUnack ∨ r.state = .acked ∨ r.state = .shelved ∧ r.condition = .active) :
    ∃ t, exec (.raise seq x) s = .next t ∧ t.live = s.live.set i.val (some { r with cause := .alarm }) i.isLt ∧
      answered s t 0x01 seq (some .alreadyDone) [] ∧
      changesOnly s t (linkParts ++ if r.cause = .alarm then [] else .table :: derivedParts) := by
  obtain ⟨f, hexec, hf'⟩ := exec_raise_link (seq := seq) (s := s) hx
  have he : f s.plantHunting = (s.plantHunting.raiseStanding i r .alarm).verdict [] := by
    rw [hf' s.plantHunting hu, raisePoint_record (s := s.plantHunting) hf, raiseRecord_standing hr]
  unfold State.raiseStanding at he
  by_cases hc : r.cause = .alarm
  · rw [if_pos hc] at he
    obtain ⟨t, ht, hans, honly⟩ := request_refuses hexec hl he
    refine ⟨t, ht, (honly .table (by decide)).trans ?_, hans, by rwa [if_pos hc, List.append_nil]⟩
    rw [← hc]
    exact (setSlot_same (find_live hf)).symm
  · rw [if_neg hc] at he
    have hs := setSlot_changesOnly s.plantHunting i (some { r with cause := .alarm })
    refine ⟨_, hexec.trans (request_accepted hl he), (answer_concludes _ _ _ _ _ _).live,
      answered_settled (hs .plantReceiver (by decide)), ?_⟩
    rw [if_neg hc]
    exact changesOnly_mono (changesOnly_settled hs) (by decide)

end Standing

/-- Settles O30, by the state of the record, and for an entry. -/
theorem raiseOfAStandingAlarm : Obligations.RaiseOfAStandingAlarm := by
  refine fun seq x p s hl hx hu => ⟨fun i r hf => ⟨raise_standing hl hx hu hf, fun hr => ?_, fun hr hc => ?_⟩,
    fun e hf he => ?_⟩
  · have he : s.plantHunting.raisePoint p .alarm = .accept (s.plantHunting.reraise i r .alarm) := by
      rw [raisePoint_record (s := s.plantHunting) hf, raiseRecord_cleared hr]
    obtain ⟨t, ht, -, hend, hacc⟩ := raise_accepts (seq := seq) hl hx hu [.table, .loads, .handovers] he
      (reraise_changesOnly _ i r _) (by decide)
    exact ⟨t, ht, annunciatedAt_of_hasTable hend.hasTable (annunciatedAt_annunciate s.plantHunting i _),
      listsAre_of_hasTable hend.hasTable (unseeItem_lists (s.plantHunting.annunciate i _) _), hacc⟩
  · have he := (raisePoint_record (s := s.plantHunting) (k := .alarm) hf).trans (raiseRecord_shelved hr hc)
    obtain ⟨t, ht, -, hend, hacc⟩ := raise_accepts (seq := seq) hl hx hu [.table] he (setSlot_changesOnly _ i _) (by decide)
    exact ⟨t, ht, hend.live, hacc⟩
  · have hw := raisePoint_entry (s := s.plantHunting) (k := .alarm) hf he
    obtain ⟨t, ht, -, hend, hacc⟩ := raise_accepts (seq := seq) hl hx hu [.queue] hw (waiting_changesOnly _ _) (by decide)
    exact ⟨t, ht, hend.waiting, hacc⟩

/-! ### CLEAR (R34) -/

section Clear

variable {seq x : Byte} {p : Point} {s : State}

/-- CLEAR of a point of the plant link. -/
theorem exec_clear_link (hx : decodeNumber 256 x = some p) : ∃ f, exec (.clear seq x) s = request 0x02 seq (some f) s ∧
    ∀ v : State, v.cfg.points[p].use = .link → f v = (v.clearPoint p).verdict [] := by
  refine ⟨_, congrArg (fun d => request 0x02 seq (Option.map _ d) s) hx, fun v hv => ?_⟩
  dsimp only
  rw [hv]

variable (hl : s.linkReady = true) (hx : decodeNumber 256 x = some p) (hu : s.cfg.points[p].use = .link)

include hl hx hu

theorem clear_accepts {u : State} (parts : List Part) (he : s.plantHunting.clearPoint p = .accept u)
    (hc : changesOnly s.plantHunting u (derivedParts ++ parts)) (hp : Part.plantReceiver ∉ parts) :
    ∃ t, exec (.clear seq x) s = .next t ∧ Concludes u t ∧ accepted s t 0x02 seq [] parts := by
  obtain ⟨f, hexec, hf⟩ := exec_clear_link (seq := seq) (s := s) hx
  obtain ⟨t, ht, -, hend, hacc⟩ := request_accepts parts hexec hl ((hf s.plantHunting hu).trans (by rw [he]; rfl)) hc
    (by simpa [derivedParts] using hp)
  exact ⟨t, ht, hend, hacc⟩

theorem clear_done (he : s.plantHunting.clearPoint p = .refuse .alreadyDone) :
    ∃ t, exec (.clear seq x) s = .next t ∧ onlyAnswered s t 0x02 seq (some .alreadyDone) [] := by
  obtain ⟨f, hexec, hf⟩ := exec_clear_link (seq := seq) (s := s) hx
  exact request_refuses hexec hl ((hf s.plantHunting hu).trans (by rw [he]; rfl))

/-- A clear that leaves a record in its slot. -/
theorem clear_leaves {i : Slot} {y : Option Record}
    (he : s.plantHunting.clearPoint p = .accept (s.plantHunting.setSlot i y)) :
    ∃ t, exec (.clear seq x) s = .next t ∧ t.live = s.live.set i.val y i.isLt ∧ accepted s t 0x02 seq [] [.table] := by
  obtain ⟨t, ht, hend, hacc⟩ := clear_accepts (seq := seq) hl hx hu [.table] he
    (changesOnly_mono (setSlot_changesOnly _ i _) (by decide)) (by decide)
  exact ⟨t, ht, hend.live, hacc⟩

/-- A clear that leaves an entry in the queue or takes it out. -/
theorem clear_queue {q : List Entry} (he : s.plantHunting.clearPoint p = .accept { s.plantHunting with waiting := q }) :
    ∃ t, exec (.clear seq x) s = .next t ∧ t.waiting = q ∧ accepted s t 0x02 seq [] [.queue] := by
  obtain ⟨t, ht, hend, hacc⟩ := clear_accepts (seq := seq) hl hx hu [.queue] he
    (changesOnly_mono (waiting_changesOnly _ _) (by decide)) (by decide)
  exact ⟨t, ht, hend.waiting, hacc⟩

end Clear

/-- A removal has marked its point and its area. -/
theorem removeAndFill_marked (s : State) (i : Slot) (r : Record) :
    marked (s.removeAndFill i r) [.point r.point, .area r.area] := by
  have h := markAll_marked (s.setSlot i none) (refs := [.point r.point, .area r.area]) (by simp)
  exact (((Marks.refl _).dropItem (.alarm r.point)).fill).marked h

/-- Settles O31, by state and class. -/
theorem clearByStateAndClass : Obligations.ClearByStateAndClass := by
  refine fun seq x p s hl hx hu ht => ⟨fun i r hf => ?_, fun hn => ?_, fun e hf he => ⟨fun hc => ?_, fun hc hk => ?_, fun hc hk => ?_⟩⟩
  · have hp := clearPoint_record (s := s.plantHunting) hf
    refine ⟨fun hr => ?_, fun hr hc => ?_, fun hr hc => ?_, fun hr hc => ?_, fun hr => ?_⟩
    · obtain ⟨t, ht', hend, hacc⟩ := clear_accepts (seq := seq) hl hx hu [.table, .queue, .loads, .handovers]
        (hp.trans (clearRecord_removed hr)) (changesOnly_mono (removeAndFill_changesOnly _ i r) (by decide)) (by decide)
      obtain ⟨-, hpoint⟩ := find_some hf
      refine ⟨t, ht', removedAt_of_hasTable hend.hasTable (removedAt_removeAndFill (s := s.plantHunting) ?_ i r), ?_, hacc⟩
      · exact ht.full
      · rw [← hpoint]
        exact hend.marks _ (removeAndFill_marked _ i r)
    · exact clear_leaves hl hx hu (hp.trans (clearRecord_stays hr hc))
    · exact clear_leaves hl hx hu (hp.trans (clearRecord_waits hr hc))
    · exact clear_leaves hl hx hu (hp.trans (clearRecord_shelved hr hc))
    · exact clear_done hl hx hu (hp.trans (clearRecord_done hr))
  · exact clear_done hl hx hu (clearPoint_normal (s := s.plantHunting) hn)
  · exact clear_done hl hx hu ((clearPoint_entry (s := s.plantHunting) hf he).trans (clearEntry_done hc))
  · exact clear_queue hl hx hu ((clearPoint_entry (s := s.plantHunting) hf he).trans (clearEntry_leaves hc hk))
  · exact clear_queue hl hx hu ((clearPoint_entry (s := s.plantHunting) hf he).trans (clearEntry_stays hc hk))

end Sys2Proof.Machine
end

section
/-! The qualification of a line and POINT_WRITE settled (chapter 2): the events of a point that come by a line. -/

namespace Sys2Proof.Machine

theorem boundPoint_eq_some_iff {s : State} {l : Line} {p : Point} : s.boundPoint l = some p ↔
    s.cfg.points[p].use = .line l ∧ ∀ q : Point, q < p → s.cfg.points[q].use ≠ .line l := by
  unfold State.boundPoint
  rw [lowestWhere_eq_some_iff, beq_iff_eq]
  refine and_congr_right fun _ => forall₂_congr fun q _ => ?_
  rw [beq_eq_false_iff_ne]

/-! ### A line's own record and the events of the table do not meet -/

section Lines

variable (s : State) (l : Line) (f : LineLive → LineLive)

theorem fillFrom_setLine (q : List Entry) : State.fillFrom q (s.setLine l f) = (State.fillFrom q s).setLine l f := by
  induction q generalizing s with
  | nil => rfl
  | cons e es ih =>
    unfold State.fillFrom
    rw [show (s.setLine l f).lowestEmpty = s.lowestEmpty from rfl]
    cases s.lowestEmpty with
    | none => rfl
    | some i => exact ih (State.admitEntry { s with waiting := es } i e)

theorem removeAndFill_setLine (i : Slot) (r : Record) :
    (s.setLine l f).removeAndFill i r = (s.removeAndFill i r).setLine l f :=
  fillFrom_setLine (s.remove i r) l f _

theorem clearRecord_setLine (i : Slot) (r : Record) :
    ((s.setLine l f).clearRecord i r).after (s.setLine l f) = ((s.clearRecord i r).after s).setLine l f := by
  unfold State.clearRecord
  cases r.state with
  | raisedUnack =>
    cases r.cls with
    | selfClearing => exact removeAndFill_setLine s l f i r
    | locking => rfl
    | held => rfl
  | acked =>
    cases r.cls with
    | selfClearing => exact removeAndFill_setLine s l f i r
    | locking => exact removeAndFill_setLine s l f i r
    | held => rfl
  | clearedUnack => rfl
  | resetWait => rfl
  | shelved => cases r.condition <;> rfl

theorem clearPoint_setLine (p : Point) :
    ((s.setLine l f).clearPoint p).after (s.setLine l f) = ((s.clearPoint p).after s).setLine l f := by
  unfold State.clearPoint
  rw [show (s.setLine l f).find p = s.find p from rfl, show (s.setLine l f).entryOf p = s.entryOf p from rfl]
  cases s.find p with
  | some x => exact clearRecord_setLine s l f x.1 x.2
  | none =>
    cases s.entryOf p with
    | none => rfl
    | some e =>
      dsimp only
      unfold State.clearEntry
      rw [show (s.setLine l f).cfg.points[p].cls = s.cfg.points[p].cls from rfl]
      cases e.condition with
      | gone => rfl
      | active => cases s.cfg.points[p].cls <;> rfl

theorem setLine_table : hasTable s (s.setLine l f) := ⟨rfl, rfl, fun _ => rfl, rfl⟩

theorem clearPoint_setLine_table (p : Point) :
    hasTable ((s.clearPoint p).after s) ((s.setLine l f).lineEvent p .normal) := by
  unfold State.lineEvent
  rw [clearPoint_setLine]
  exact setLine_table _ l f

variable {s l f} in
theorem raised_setLine {t : State} {p : Point} {k : Cause} (h : (s.setLine l f).raised t p k) : s.raised t p k :=
  ⟨h.standing, h.again, h.shelved, h.entry, h.fresh, h.queued⟩

end Lines

/-! ### Qualification (R28, R29) -/

section Qualify

variable {s : State} {l : Line} {p : Point}

/-- The line with its candidate qualified. -/
def State.qualified (s : State) (l : Line) : State := s.setLine l fun x => { x with qualified := s.lines[l].candidate }

theorem qualify_unbound (h : s.boundPoint l = none) : s.qualify l = s.qualified l := by
  unfold State.qualify
  dsimp only
  rw [show (s.setLine l fun x => { x with qualified := s.lines[l].candidate }).boundPoint l = s.boundPoint l from rfl, h]
  rfl

theorem qualify_bound (h : s.boundPoint l = some p) : s.qualify l = (s.qualified l).lineEvent p s.lines[l].candidate := by
  unfold State.qualify
  dsimp only
  rw [show (s.setLine l fun x => { x with qualified := s.lines[l].candidate }).boundPoint l = s.boundPoint l from rfl, h]
  rfl

theorem qualified_lines (s : State) (l : Line) : (s.qualified l).lines = upd s.lines l fun x => { x with qualified := x.candidate } := by
  refine Vector.ext fun j hj => ?_
  show (upd s.lines l _)[j] = _
  rw [upd_get _ l ⟨j, hj⟩, upd_get _ l ⟨j, hj⟩]
  rfl

theorem setLine_changesOnly (s : State) (l : Line) (f : LineLive → LineLive) : changesOnly s (s.setLine l f) [.lines] := by
  intro q hq
  cases q <;> simp_all [State.same, sameAt, State.setLine]

theorem lineEvent_changesOnly (s : State) (p : Point) (x : LineState) :
    changesOnly s (s.lineEvent p x) [.table, .queue, .loads, .handovers, .changes] := by
  cases x with
  | active => exact changesOnly_mono (raisePoint_changesOnly s p _) (by decide)
  | fault => exact changesOnly_mono (raisePoint_changesOnly s p _) (by decide)
  | normal => exact clearPoint_changesOnly s p

theorem qualify_changesOnly (s : State) (l : Line) :
    changesOnly s (s.qualify l) [.lines, .table, .queue, .loads, .handovers, .changes] := by
  cases h : s.boundPoint l with
  | none =>
    rw [qualify_unbound h]
    exact changesOnly_mono (setLine_changesOnly s l _) (by decide)
  | some p =>
    rw [qualify_bound h]
    exact changesOnly_trans (setLine_changesOnly s l _) (lineEvent_changesOnly _ p _)

theorem qualify_lines (s : State) (l : Line) : (s.qualify l).lines = (s.qualified l).lines := by
  cases h : s.boundPoint l with
  | none => rw [qualify_unbound h]
  | some p =>
    rw [qualify_bound h]
    exact lineEvent_changesOnly _ p _ .lines (by decide)

end Qualify

/-- Settles O27. -/
theorem qualificationTakesTheCandidate : Obligations.QualificationTakesTheCandidate := by
  refine ⟨fun s l p => boundPoint_eq_some_iff, fun l s hp hc hd => ?_⟩
  have ht := timed_taken (i := .qualificationDeadline l) rfl hp ((qualification_reached s l).2 ⟨hc, hd⟩)
  have hend := settle_concludes s (s.qualify l) none
  refine ⟨_, ht, (hend.lines.trans (qualify_lines s l)).trans (qualified_lines s l), fun hb => ?_, fun p hb => ?_, ?_⟩
  · rw [qualify_unbound hb]
    exact changesOnly_settle_of (setLine_changesOnly s l _) none
  · have he := qualify_bound hb
    refine ⟨fun hx => ?_, fun hx => ?_, fun hx => ?_⟩
    · rw [hx] at he
      exact raised_of_hasTable (he ▸ hend.hasTable) (raised_setLine (raised_raisePoint (s.qualified l) p .alarm))
    · rw [hx] at he
      exact raised_of_hasTable (he ▸ hend.hasTable) (raised_setLine (raised_raisePoint (s.qualified l) p .lineFault))
    · rw [hx] at he
      have h : hasTable ((s.clearPoint p).after s) (s.qualify l) := by
        rw [he]
        exact clearPoint_setLine_table s l _ p
      have h' := hasTable_trans h hend.hasTable
      exact ⟨h', fun hlaw => cleared_of_hasTable h' (cleared_clearPoint hlaw.full p)⟩
  · exact changesOnly_mono (changesOnly_settle_of (qualify_changesOnly s l) none) (by decide)

end Sys2Proof.Machine
end

section
/-! POINT_WRITE settled (R20, R21). -/

namespace Sys2Proof.Machine

section Binding

variable {s : State} {p : Point} {old new : PointUse}

theorem bindingRaise_none (h : ∀ l, new = .line l → old = .line l ∨ s.lines[l].qualified = .normal) :
    s.bindingRaise p old new = s := by
  unfold State.bindingRaise
  cases new with
  | unused => rfl
  | link => rfl
  | line l =>
    dsimp only
    split
    · rfl
    · next hne =>
      rw [(h l rfl).resolve_left hne]

theorem bindingRaise_event {l : Line} (hn : new = .line l) (ho : old ≠ .line l) (hq : s.lines[l].qualified ≠ .normal) :
    s.bindingRaise p old new = s.lineEvent p s.lines[l].qualified := by
  subst hn
  unfold State.bindingRaise
  dsimp only
  rw [if_neg ho]
  cases h : s.lines[l].qualified with
  | normal => exact absurd h hq
  | active => rfl
  | fault => rfl

/-- The cause that a line's qualified state gives its point (R29). -/
def lineCause : LineState → Cause
  | .fault => .lineFault
  | _ => .alarm

theorem lineEvent_raised {x : LineState} (hx : x ≠ .normal) (s : State) (p : Point) :
    s.raised (s.lineEvent p x) p (lineCause x) := by
  cases x with
  | normal => exact absurd rfl hx
  | active => exact raised_raisePoint s p .alarm
  | fault => exact raised_raisePoint s p .lineFault

theorem bindingRaise_raised {l : Line} {x : LineState} (hn : new = .line l) (ho : old ≠ .line l)
    (hq : s.lines[l].qualified = x) (hx : x ≠ .normal) : s.raised (s.bindingRaise p old new) p (lineCause x) := by
  rw [bindingRaise_event hn ho (hq ▸ hx), hq]
  exact lineEvent_raised hx s p

theorem bindingRaise_changesOnly (s : State) (p : Point) (old new : PointUse) :
    changesOnly s (s.bindingRaise p old new) [.table, .queue, .loads, .handovers, .changes] := by
  by_cases h : ∀ l, new = .line l → old = .line l ∨ s.lines[l].qualified = .normal
  · rw [bindingRaise_none h]
    exact changesOnly_refl s _
  · simp only [not_forall, not_or] at h
    obtain ⟨l, hn, ho, hq⟩ := h
    rw [bindingRaise_event hn ho hq]
    exact lineEvent_changesOnly s p _

end Binding

theorem setPoint_changesOnly (s : State) (p : Point) (x : PointConfig) : changesOnly s (s.setPoint p x) [.settings] := by
  intro q hq
  cases q <;> simp_all [State.same, sameAt, State.setPoint]

theorem raised_markAll {s t : State} {l : List Ref} {p : Point} {k : Cause} (h : (s.markAll l).raised t p k) :
    s.raised t p k := ⟨h.standing, h.again, h.shelved, h.entry, h.fresh, h.queued⟩

theorem raised_setPoint_hunting {s t : State} {p q : Point} {x : PointConfig} {k : Cause}
    (h : (s.plantHunting.setPoint p x).raised t q k) : (s.setPoint p x).raised t q k :=
  ⟨h.standing, h.again, h.shelved, h.entry, h.fresh, h.queued⟩

theorem storeWrite_table (s : State) : hasTable s s.storeWrite := ⟨rfl, rfl, fun _ => rfl, rfl⟩

/-! ### The request -/

section Write

variable {seq x x1 x2 x3 x4 x5 x6 : Byte} {m : Half} {w : Acting} {c : Console} {o : Option Operator} {p : Point}
  {given : PointConfig} {s : State}

theorem exec_pointWrite (hw : decodeEngineer w = some (c, o)) (hx : decodeNumber 256 x = some p)
    (hg : decodePointConfig x1 x2 x3 x4 x5 x6 m = some given) : exec (.pointWrite seq w x x1 x2 x3 x4 x5 x6 m) s =
      request 0x20 seq (some fun v => v.writePoint c o p given) s := by
  show execPointWrite seq w x x1 x2 x3 x4 x5 x6 m s = _
  unfold execPointWrite
  rw [hw, hx, hg]
  rfl

theorem writePoint_refused {r : Reason} (h : s.pointWriteRefusal c o p given.corrected = some r) :
    s.writePoint c o p given = .refuse r := by
  unfold State.writePoint
  dsimp only
  rw [h]
  rfl

theorem writePoint_same (h : s.pointWriteRefusal c o p given.corrected = none) (hs : given.corrected = s.cfg.points[p]) :
    s.writePoint c o p given = .unchanged (pointBytes p given.corrected) := by
  unfold State.writePoint
  dsimp only
  rw [h, if_pos hs]
  rfl

theorem writePoint_written (h : s.pointWriteRefusal c o p given.corrected = none) (hs : given.corrected ≠ s.cfg.points[p]) :
    s.writePoint c o p given = .accept (((s.setPoint p given.corrected).markAll [.point p]).bindingRaise p
      s.cfg.points[p].use given.corrected.use).storeWrite (pointBytes p given.corrected) := by
  unfold State.writePoint
  dsimp only
  rw [h, if_neg hs]
  rfl

end Write

/-! ### The checks -/

section Checks

variable {s : State} {c : Console} {o : Option Operator} {p : Point} {new : PointConfig}

theorem pointWrite_authority (s : State) (p : Point) (new : PointConfig) (op : Operator) :
    (s.supervisorIn op s.cfg.points[p].area && s.supervisorIn op new.area) = true ↔
      s.effectiveLevel op s.cfg.points[p].area = 4 ∧ s.effectiveLevel op new.area = 4 := by
  rw [Bool.and_eq_true, supervisorIn_iff, supervisorIn_iff]

/-- POINT_WRITE's refusal by its authority check, and past it. -/
theorem pointWriteRefusal_authority {may : Prop} (hm : may ↔ s.mayEngineer c o fun op =>
      s.effectiveLevel op s.cfg.points[p].area = 4 ∧ s.effectiveLevel op new.area = 4) :
    (¬may → s.pointWriteRefusal c o p new = some .noAuthority) ∧ (may → s.pointWriteRefusal c o p new = firstRefusal
      [(s.statusOf p == .normal, .wrongState), (1 ≤ new.maxShelf && new.maxShelf ≤ 480, .badValue),
        (s.lineFree p new.use, .badValue)]) := by
  have auth := engineer_congr s c o (pointWrite_authority s p new)
  rw [← hm] at auth
  exact ⟨fun h => firstRefusal_fail _ (mt auth.1 h), fun h => firstRefusal_pass _ (auth.2 h)⟩

theorem lineFree_false (hu : ∃ l, new.use = .line l ∧ s.cfg.points[p].use ≠ .line l ∧
    ∃ q : Point, s.cfg.points[q].use = .line l) : ¬s.lineFree p new.use = true := by
  obtain ⟨l, hn, hp, q, hq⟩ := hu
  rw [hn]
  unfold State.lineFree
  dsimp only
  cases hb : s.boundPoint l with
  | none => exact absurd hq (by simpa using (lowestWhere_none _).1 hb q)
  | some y =>
    have hy := (boundPoint_eq_some_iff.1 hb).1
    rw [beq_iff_eq]
    rintro rfl
    exact hp hy

theorem lineFree_true (hu : ∀ (l : Line) (q : Point), new.use = .line l → s.cfg.points[q].use = .line l → q = p) :
    s.lineFree p new.use = true := by
  unfold State.lineFree
  cases hn : new.use with
  | unused => rfl
  | link => rfl
  | line l =>
    dsimp only
    cases hb : s.boundPoint l with
    | none => rfl
    | some y => exact beq_iff_eq.2 (hu l y hn (boundPoint_eq_some_iff.1 hb).1)

end Checks

/-- Settles O32: the checks in order; the write, with the raise of a standing line under the new configuration. -/
theorem pointWriteConfigures : Obligations.PointWriteConfigures := by
  refine ⟨fun seq w x x1 x2 x3 x4 x5 x6 m c o p given new s hl hw hx hg hn => ?_,
    fun p x => ⟨pointBytes_length p x, pointBytes_layout p x⟩, fun s c o p new may hm => ?_⟩
  · obtain rfl : new = given.corrected := hn
    have hexec := exec_pointWrite (seq := seq) (s := s) hw hx hg
    refine ⟨fun r hr => ?_, fun hr hs => ?_, fun hr hs => ?_⟩
    · exact request_refuses hexec hl (writePoint_refused (s := s.plantHunting) hr)
    · exact request_unchanged hexec hl (writePoint_same (s := s.plantHunting) hr hs)
    · have hraise := bindingRaise_changesOnly ((s.plantHunting.setPoint p given.corrected).markAll [.point p]) p
        s.cfg.points[p].use given.corrected.use
      have hmark := markAll_marked (s.plantHunting.setPoint p given.corrected) (refs := [.point p]) (by simp)
      have hu := changesOnly_trans (changesOnly_trans (changesOnly_trans
        (setPoint_changesOnly s.plantHunting p given.corrected) (changesOnly_markAll _ [.point p])) hraise)
        (changesOnly_storeWrite _)
      obtain ⟨t, ht, rfl, hend, hacc⟩ := request_accepts (storeParts ++ [.table, .queue, .loads, .handovers]) hexec hl
        (writePoint_written (s := s.plantHunting) hr hs) (changesOnly_mono hu (by decide)) (by decide)
      have htable := hasTable_trans (storeWrite_table _) hend.hasTable
      refine ⟨_, ht, hend.cfg.trans (hraise .settings (by decide)), hend.stored (hraise .store (by decide))
        (hraise .draws (by decide)), hend.marks _ ((Marks.bindingRaise (Marks.refl _) p _ _).marked hmark),
        fun l hn ho hq => ?_, fun hn => ?_, hacc⟩
      · exact ⟨fun hx => raised_of_hasTable htable (raised_setPoint_hunting (raised_markAll
            (bindingRaise_raised hn ho (x := .active) hx (by simp)))),
          fun hx => raised_of_hasTable htable (raised_setPoint_hunting (raised_markAll
            (bindingRaise_raised hn ho (x := .fault) hx (by simp))))⟩
      · rw [bindingRaise_none (s := (s.plantHunting.setPoint p given.corrected).markAll [.point p])
          (old := s.plantHunting.cfg.points[p].use) hn]
        exact changesOnly_mono (changesOnly_settled (changesOnly_trans (changesOnly_trans
          (setPoint_changesOnly s.plantHunting p given.corrected) (changesOnly_markAll _ [.point p]))
          (changesOnly_storeWrite _))) (by decide)
  · obtain ⟨hno, hyes⟩ := pointWriteRefusal_authority hm
    refine ⟨hno, fun h hs => ?_, fun h hs hb => ?_, fun h hs h1 h2 => ⟨fun l hn hp hq => ?_, fun hu => ?_⟩⟩
    · rw [hyes h]
      exact firstRefusal_fail _ (by simpa using hs)
    · rw [hyes h, firstRefusal_pass _ (by simpa using hs)]
      exact firstRefusal_fail _ (by simp; omega)
    · rw [hyes h, firstRefusal_pass _ (by simpa using hs), firstRefusal_pass _ (by simp; omega)]
      exact firstRefusal_fail _ (lineFree_false ⟨l, hn, hp, hq⟩)
    · rw [hyes h, firstRefusal_pass _ (by simpa using hs), firstRefusal_pass _ (by simp; omega),
        firstRefusal_pass _ (lineFree_true hu)]
      rfl

end Sys2Proof.Machine
end

section
/-! Requests that name a point and act for a person (4.1): their checks in order, and what refuses them (R63). -/

namespace Sys2Proof.Machine

/-! ### The chain of checks -/

section Chain

variable {s : State} {c : Console} {o : Operator} {p : Point} {own : Result} {suits : PointStatus → Result}
  {config : PointConfig → Result} {required : AreaConfig → Level} {act : Slot → Record → Verdict} {z : Reason}

theorem namedRecord_unused (h : s.cfg.points[p].use = .unused) :
    s.namedRecord c o p own suits config required act = .refuse .unknownPoint := by
  unfold State.namedRecord
  rw [if_pos h]
  rfl

/-- Past the check of the point's use. -/
theorem namedRecord_used (h : s.cfg.points[p].use ≠ .unused) : s.namedRecord c o p own suits config required act =
    .check own (.check (suits (s.statusOf p)) (.check (config s.cfg.points[p]) (.check (s.pairRefusal c o)
      (match s.find p with
        | some (i, r) => .check (s.acceptance c o r (required s.cfg.areas[r.area])) (act i r)
        | none => .refuse .alreadyDone)))) := by
  unfold State.namedRecord
  rw [if_neg h]
  rfl

theorem namedRecord_own (h : s.cfg.points[p].use ≠ .unused) (ho : own = some z) :
    s.namedRecord c o p own suits config required act = .refuse z := by
  rw [namedRecord_used h, ho]
  rfl

theorem namedRecord_suits (h : s.cfg.points[p].use ≠ .unused) (ho : own = none) (hs : suits (s.statusOf p) = some z) :
    s.namedRecord c o p own suits config required act = .refuse z := by
  rw [namedRecord_used h, ho, hs]
  rfl

theorem namedRecord_config (h : s.cfg.points[p].use ≠ .unused) (ho : own = none) (hs : suits (s.statusOf p) = none)
    (hc : config s.cfg.points[p] = some z) : s.namedRecord c o p own suits config required act = .refuse z := by
  rw [namedRecord_used h, ho, hs, hc]
  rfl

/-- Past the checks of the point and its record. -/
theorem namedRecord_placed {i : Slot} {r : Record} (h : s.cfg.points[p].use ≠ .unused) (ho : own = none)
    (hs : suits (s.statusOf p) = none) (hc : config s.cfg.points[p] = none) (hf : s.find p = some (i, r)) :
    s.namedRecord c o p own suits config required act =
      .check (s.pairRefusal c o) (.check (s.acceptance c o r (required s.cfg.areas[r.area])) (act i r)) := by
  rw [namedRecord_used h, ho, hs, hc, hf]
  rfl

theorem pairRefusal_of_attached (h : s.attachedAt c = some o) : s.pairRefusal c o = none := by
  unfold State.pairRefusal
  rw [h]
  exact if_pos rfl

theorem namedRecord_turnsAway {i : Slot} {r : Record} (h : s.cfg.points[p].use ≠ .unused) (ho : own = none)
    (hs : suits (s.statusOf p) = none) (hc : config s.cfg.points[p] = none) (hf : s.find p = some (i, r))
    (ht : turnsAway s c o r (required s.cfg.areas[r.area]) z) :
    s.namedRecord c o p own suits config required act = .refuse z := by
  rw [namedRecord_placed h ho hs hc hf]
  rcases ht with ⟨ha, rfl⟩ | ⟨⟨q, ha, hq⟩, rfl⟩ | ⟨ha, hz⟩
  · unfold State.pairRefusal
    rw [ha]
    rfl
  · unfold State.pairRefusal
    rw [ha]
    dsimp only
    rw [if_neg hq]
    rfl
  · rw [pairRefusal_of_attached ha, hz]
    rfl

theorem namedRecord_acts {i : Slot} {r : Record} (h : s.cfg.points[p].use ≠ .unused) (ho : own = none)
    (hs : suits (s.statusOf p) = none) (hc : config s.cfg.points[p] = none) (hf : s.find p = some (i, r))
    (ha : s.attachedAt c = some o) (hz : s.acceptance c o r (required s.cfg.areas[r.area]) = none) :
    s.namedRecord c o p own suits config required act = act i r := by
  rw [namedRecord_placed h ho hs hc hf, pairRefusal_of_attached ha, hz]
  rfl

end Chain

/-! ### The four requests -/

section Requests

variable {seq x : Byte} {w : Acting} {c : Console} {o : Operator} {p : Point} {s : State}

theorem exec_named {i : Instr} {code : Byte} {decided : Console → Operator → Point → State → Verdict}
    (h : exec i s = onNamedPoint code seq w x decided s) (hw : decodePerson w = some (c, o))
    (hx : decodeNumber 256 x = some p) : exec i s = request code seq (some (decided c o p)) s := by
  rw [h]
  unfold onNamedPoint
  rw [hw, hx]
  rfl

theorem exec_ack (hw : decodePerson w = some (c, o)) (hx : decodeNumber 256 x = some p) :
    exec (.ack seq w x) s = request 0x30 seq (some fun v => v.ackNamed c o p) s :=
  exec_named (decided := fun c o p v => v.ackNamed c o p) rfl hw hx

theorem exec_resetHeld (hw : decodePerson w = some (c, o)) (hx : decodeNumber 256 x = some p) :
    exec (.resetHeld seq w x) s = request 0x31 seq (some fun v => v.resetNamed c o p) s :=
  exec_named (decided := fun c o p v => v.resetNamed c o p) rfl hw hx

theorem exec_shelve (m : Half) (hw : decodePerson w = some (c, o)) (hx : decodeNumber 256 x = some p) :
    exec (.shelve seq w x m) s = request 0x32 seq (some fun v => v.shelveNamed c o p m.toNat) s :=
  exec_named (decided := fun c o p v => v.shelveNamed c o p m.toNat) rfl hw hx

theorem exec_unshelve (hw : decodePerson w = some (c, o)) (hx : decodeNumber 256 x = some p) :
    exec (.unshelve seq w x) s = request 0x33 seq (some fun v => v.unshelveNamed c o p) s :=
  exec_named (decided := fun c o p v => v.unshelveNamed c o p) rfl hw hx

end Requests

/-! ### Points, records and entries (R40) -/

section Status

variable (s : State) (p : Point)

theorem find_none_iff : s.find p = none ↔ ∀ r ∈ s.records, r.point ≠ p := by
  refine ⟨find_none, fun h => ?_⟩
  cases hf : s.find p with
  | none => rfl
  | some x =>
    obtain ⟨hl, hp⟩ := find_some (i := x.1) (r := x.2) hf
    exact absurd hp (h x.2 (find_mem (i := x.1) hf))

theorem entryOf_some {e : Entry} (h : s.entryOf p = some e) : e ∈ s.waiting ∧ e.point = p :=
  ⟨List.mem_of_find?_eq_some h, by simpa using List.find?_some h⟩

theorem entryOf_none_iff : s.entryOf p = none ↔ ∀ e ∈ s.waiting, e.point ≠ p := by
  simp [State.entryOf]

theorem statusOf_live_iff (k : RecordState) : s.statusOf p = .live k ↔ ∃ i r, s.find p = some (i, r) ∧ r.state = k := by
  cases hf : s.find p with
  | some x =>
    rw [statusOf_live hf]
    simp [Prod.ext_iff, eq_comm]
  | none =>
    cases he : s.entryOf p with
    | some e => simp [statusOf_waiting hf he]
    | none => simp [statusOf_none hf he]

theorem statusOf_waiting_iff : s.statusOf p = .waiting ↔ s.find p = none ∧ s.entryOf p ≠ none := by
  cases hf : s.find p with
  | some x => simp [statusOf_live hf]
  | none =>
    cases he : s.entryOf p with
    | some e => simp [statusOf_waiting hf he]
    | none => simp [statusOf_none hf he]

theorem statusOf_normal_iff : s.statusOf p = .normal ↔ s.find p = none ∧ s.entryOf p = none :=
  ⟨statusOf_normal, fun ⟨hf, he⟩ => statusOf_none hf he⟩

end Status

/-! ### The acceptance test (R62) -/

theorem acceptance_rows (s : State) (c : Console) (o : Operator) (r : Record) (level : Level) (placed : Prop)
    (hp : placed ↔ r.route = some c ∨ c = 0 ∧ s.coHeard r) :
    (s.acceptance c o r level = none ↔
      placed ∧ level ≤ s.effectiveLevel o r.area ∨ c = 0 ∧ s.effectiveLevel o r.area = 4) ∧
    (s.acceptance c o r level = some .levelTooLow ↔
      placed ∧ s.effectiveLevel o r.area < level ∧ ¬(c = 0 ∧ s.effectiveLevel o r.area = 4)) ∧
    (s.acceptance c o r level = some .notRouted ↔ ¬placed ∧ ¬(c = 0 ∧ s.effectiveLevel o r.area = 4)) := by
  have hb : (r.route == some c || (c == 0 && s.coAnnunciated r)) = true ↔ placed := by
    rw [hp, Bool.or_eq_true, Bool.and_eq_true, beq_iff_eq, beq_iff_eq, coAnnunciated_iff]
  have hs : (c == 0 && s.effectiveLevel o r.area == 4) = true ↔ c = 0 ∧ s.effectiveLevel o r.area = 4 := by
    rw [Bool.and_eq_true, beq_iff_eq, beq_iff_eq]
  unfold State.acceptance
  dsimp only
  by_cases h4 : c = 0 ∧ s.effectiveLevel o r.area = 4
  · rw [if_pos (by rw [Bool.or_eq_true]; exact .inr (hs.2 h4))]
    simp [h4]
  · by_cases hpl : placed
    · by_cases hle : level ≤ s.effectiveLevel o r.area
      · rw [if_pos (by rw [Bool.or_eq_true, Bool.and_eq_true]; exact .inl ⟨hb.2 hpl, by simpa using hle⟩)]
        simp [hpl, hle]
      · rw [if_neg (by rw [Bool.or_eq_true, Bool.and_eq_true, hs]; simp [hle, h4]), if_pos (hb.2 hpl)]
        simp [hpl, h4, not_le.1 hle]
    · rw [if_neg (by rw [Bool.or_eq_true, Bool.and_eq_true, hs, hb]; simp [hpl, h4]), if_neg (mt hb.1 hpl)]
      simp [hpl, h4]

/-! ### RAISE and CLEAR of other points -/

section Sources

variable {seq x : Byte} {p : Point} {s : State} {z : Reason}

/-- What refuses RAISE and CLEAR by the source of the point's events (R33, R34). -/
def sourceRefusal (u : PointUse) (z : Reason) : Prop :=
  u = .unused ∧ z = .unknownPoint ∨ (∃ l, u = .line l) ∧ z = .wrongSource

theorem exec_raise_refused (hl : s.linkReady = true) (hx : decodeNumber 256 x = some p)
    (hu : sourceRefusal s.cfg.points[p].use z) :
    ∃ t, exec (.raise seq x) s = .next t ∧ onlyAnswered s t 0x01 seq (some z) [] := by
  have h : ∃ f, exec (.raise seq x) s = request 0x01 seq (some f) s ∧ f s.plantHunting = .refuse z := by
    refine ⟨_, congrArg (fun d => request 0x01 seq (Option.map _ d) s) hx, ?_⟩
    dsimp only
    rcases hu with ⟨hu, rfl⟩ | ⟨⟨l, hu⟩, rfl⟩
    · rw [show s.plantHunting.cfg.points[p].use = .unused from hu]
    · rw [show s.plantHunting.cfg.points[p].use = .line l from hu]
  obtain ⟨f, hexec, hf⟩ := h
  exact request_refuses hexec hl hf

theorem exec_clear_refused (hl : s.linkReady = true) (hx : decodeNumber 256 x = some p)
    (hu : sourceRefusal s.cfg.points[p].use z) :
    ∃ t, exec (.clear seq x) s = .next t ∧ onlyAnswered s t 0x02 seq (some z) [] := by
  have h : ∃ f, exec (.clear seq x) s = request 0x02 seq (some f) s ∧ f s.plantHunting = .refuse z := by
    refine ⟨_, congrArg (fun d => request 0x02 seq (Option.map _ d) s) hx, ?_⟩
    dsimp only
    rcases hu with ⟨hu, rfl⟩ | ⟨⟨l, hu⟩, rfl⟩
    · rw [show s.plantHunting.cfg.points[p].use = .unused from hu]
    · rw [show s.plantHunting.cfg.points[p].use = .line l from hu]
  obtain ⟨f, hexec, hf⟩ := h
  exact request_refuses hexec hl hf

end Sources

/-! ### What refuses each request -/

/-- The minutes a shelf is asked for, as its own check sees them. -/
def minutesRefusal (n : Nat) : Result := if n = 0 then some .badValue else none

theorem minutesRefusal_none {m : Half} (hm : m ≠ 0) : minutesRefusal m.toNat = none :=
  if_neg fun h => hm (BitVec.eq_of_toNat_eq h)

theorem shelveNamed_eq (s : State) (c : Console) (o : Operator) (p : Point) (n : Nat) : s.shelveNamed c o p n =
    s.namedRecord c o p (minutesRefusal n) shelveSuits (fun k => if k.shelvable then none else some .notShelvable)
      (·.shelveLevel) fun i r => .accept (s.setSlot i (some (r.shelve o (s.partTime + 600 * s.shelfMinutes p n))))
        (byteOf p.val :: bytesOf16 (s.shelfMinutes p n) ++ bytesOfTime (s.partTime + 600 * s.shelfMinutes p n)) := rfl

section Refusals

variable {seq x : Byte} {w : Acting} {m : Half} {c : Console} {o : Operator} {p : Point} {s : State}
  (hl : s.linkReady = true) (hw : decodePerson w = some (c, o)) (hx : decodeNumber 256 x = some p)

include hl hw hx

/-- A point that is not in use refuses all four. -/
theorem named_unused (hu : s.cfg.points[p].use = .unused) :
    (∃ t, exec (.ack seq w x) s = .next t ∧ onlyAnswered s t 0x30 seq (some .unknownPoint) []) ∧
    (∃ t, exec (.resetHeld seq w x) s = .next t ∧ onlyAnswered s t 0x31 seq (some .unknownPoint) []) ∧
    (∃ t, exec (.shelve seq w x m) s = .next t ∧ onlyAnswered s t 0x32 seq (some .unknownPoint) []) ∧
    ∃ t, exec (.unshelve seq w x) s = .next t ∧ onlyAnswered s t 0x33 seq (some .unknownPoint) [] :=
  ⟨request_refuses (exec_ack hw hx) hl (namedRecord_unused (s := s.plantHunting) hu),
    request_refuses (exec_resetHeld hw hx) hl (namedRecord_unused (s := s.plantHunting) hu),
    request_refuses (exec_shelve m hw hx) hl ((shelveNamed_eq ..).trans (namedRecord_unused (s := s.plantHunting) hu)),
    request_refuses (exec_unshelve hw hx) hl (namedRecord_unused (s := s.plantHunting) hu)⟩

variable (hu : s.cfg.points[p].use ≠ .unused)

include hu

theorem ack_unsuited {z : Reason} (h : ackSuits (s.statusOf p) = some z) :
    ∃ t, exec (.ack seq w x) s = .next t ∧ onlyAnswered s t 0x30 seq (some z) [] :=
  request_refuses (exec_ack hw hx) hl (namedRecord_suits (s := s.plantHunting) hu rfl h)

theorem resetHeld_unsuited {z : Reason} (h : resetSuits (s.statusOf p) = some z) :
    ∃ t, exec (.resetHeld seq w x) s = .next t ∧ onlyAnswered s t 0x31 seq (some z) [] :=
  request_refuses (exec_resetHeld hw hx) hl (namedRecord_suits (s := s.plantHunting) hu rfl h)

theorem unshelve_unsuited {z : Reason} (h : unshelveSuits (s.statusOf p) = some z) :
    ∃ t, exec (.unshelve seq w x) s = .next t ∧ onlyAnswered s t 0x33 seq (some z) [] :=
  request_refuses (exec_unshelve hw hx) hl (namedRecord_suits (s := s.plantHunting) hu rfl h)

theorem shelve_without_minutes :
    ∃ t, exec (.shelve seq w x 0) s = .next t ∧ onlyAnswered s t 0x32 seq (some .badValue) [] :=
  request_refuses (exec_shelve 0 hw hx) hl ((shelveNamed_eq ..).trans (namedRecord_own (s := s.plantHunting) hu rfl))

theorem shelve_unsuited (hm : m ≠ 0) {z : Reason} (h : shelveSuits (s.statusOf p) = some z) :
    ∃ t, exec (.shelve seq w x m) s = .next t ∧ onlyAnswered s t 0x32 seq (some z) [] :=
  request_refuses (exec_shelve m hw hx) hl ((shelveNamed_eq ..).trans
    (namedRecord_suits (s := s.plantHunting) hu (minutesRefusal_none hm) h))

theorem shelve_unshelvable (hm : m ≠ 0) (h : shelveSuits (s.statusOf p) = none)
    (hs : s.cfg.points[p].shelvable = false) :
    ∃ t, exec (.shelve seq w x m) s = .next t ∧ onlyAnswered s t 0x32 seq (some .notShelvable) [] :=
  request_refuses (exec_shelve m hw hx) hl ((shelveNamed_eq ..).trans
    (namedRecord_config (s := s.plantHunting) hu (minutesRefusal_none hm) h (if_neg (by simpa using hs))))

end Refusals

section TurnedAway

variable {seq x : Byte} {w : Acting} {m : Half} {c : Console} {o : Operator} {p : Point} {s : State} {i : Slot}
  {r : Record} {z : Reason} (hl : s.linkReady = true) (hw : decodePerson w = some (c, o))
  (hx : decodeNumber 256 x = some p) (hu : s.cfg.points[p].use ≠ .unused) (hf : s.find p = some (i, r))

include hl hw hx hu hf

theorem ack_turnsAway (hr : r.state = .raisedUnack ∨ r.state = .clearedUnack)
    (ht : turnsAway s c o r s.cfg.areas[r.area].ackLevel z) :
    ∃ t, exec (.ack seq w x) s = .next t ∧ onlyAnswered s t 0x30 seq (some z) [] :=
  request_refuses (exec_ack hw hx) hl (namedRecord_turnsAway (s := s.plantHunting) hu rfl
    (by rw [show s.plantHunting.statusOf p = .live r.state from statusOf_live hf]; rcases hr with hr | hr <;> rw [hr] <;> rfl)
    rfl hf ht)

theorem resetHeld_turnsAway (hr : r.state = .resetWait) (ht : turnsAway s c o r s.cfg.areas[r.area].resetLevel z) :
    ∃ t, exec (.resetHeld seq w x) s = .next t ∧ onlyAnswered s t 0x31 seq (some z) [] :=
  request_refuses (exec_resetHeld hw hx) hl (namedRecord_turnsAway (s := s.plantHunting) hu rfl
    (by rw [show s.plantHunting.statusOf p = .live r.state from statusOf_live hf, hr]; rfl) rfl hf ht)

theorem unshelve_turnsAway (hr : r.state = .shelved) (ht : turnsAway s c o r s.cfg.areas[r.area].shelveLevel z) :
    ∃ t, exec (.unshelve seq w x) s = .next t ∧ onlyAnswered s t 0x33 seq (some z) [] :=
  request_refuses (exec_unshelve hw hx) hl (namedRecord_turnsAway (s := s.plantHunting) hu rfl
    (by rw [show s.plantHunting.statusOf p = .live r.state from statusOf_live hf, hr]; rfl) rfl hf ht)

theorem shelve_turnsAway (hm : m ≠ 0) (hr : r.state = .raisedUnack ∨ r.state = .acked)
    (hs : s.cfg.points[p].shelvable = true) (ht : turnsAway s c o r s.cfg.areas[r.area].shelveLevel z) :
    ∃ t, exec (.shelve seq w x m) s = .next t ∧ onlyAnswered s t 0x32 seq (some z) [] :=
  request_refuses (exec_shelve m hw hx) hl ((shelveNamed_eq ..).trans (namedRecord_turnsAway (s := s.plantHunting) hu
    (minutesRefusal_none hm)
    (by rw [show s.plantHunting.statusOf p = .live r.state from statusOf_live hf]; rcases hr with hr | hr <;> rw [hr] <;> rfl)
    (if_pos hs) hf ht))

end TurnedAway

/-- Settles O38: the chain of checks, request by request, and the rows of the acceptance test. -/
theorem namedPointRefusals : Obligations.NamedPointRefusals := by
  refine ⟨mem_records, fun s p => ⟨fun i r => find_some, find_none_iff s p, fun e => entryOf_some s p, entryOf_none_iff s p,
    statusOf_live_iff s p, statusOf_waiting_iff s p, statusOf_normal_iff s p⟩, fun seq w x m c o p s hl hw hx =>
    ⟨fun hu => named_unused hl hw hx hu, fun hu => ⟨shelve_without_minutes hl hw hx hu, ?_⟩⟩,
    fun seq x p s hl hx => ⟨fun hu => ⟨exec_raise_refused hl hx (.inl ⟨hu, rfl⟩), exec_clear_refused hl hx (.inl ⟨hu, rfl⟩)⟩,
      fun l hu => ⟨exec_raise_refused hl hx (.inr ⟨⟨l, hu⟩, rfl⟩), exec_clear_refused hl hx (.inr ⟨⟨l, hu⟩, rfl⟩)⟩⟩,
    acceptance_rows⟩
  refine ⟨fun hm h => shelve_unsuited hl hw hx hu hm ?_, fun hm h => shelve_unsuited hl hw hx hu hm ?_,
    fun hm h hs => shelve_unshelvable hl hw hx hu hm ?_ hs, fun h => resetHeld_unsuited hl hw hx hu ?_,
    fun h h' => resetHeld_unsuited hl hw hx hu ?_, fun h => ack_unsuited hl hw hx hu ?_,
    fun h => ack_unsuited hl hw hx hu ?_, fun h => unshelve_unsuited hl hw hx hu ?_, fun i r z hf =>
      ⟨ack_turnsAway hl hw hx hu hf, resetHeld_turnsAway hl hw hx hu hf, shelve_turnsAway hl hw hx hu hf,
        unshelve_turnsAway hl hw hx hu hf⟩⟩
  · rcases h with h | h <;> rw [h] <;> rfl
  · rcases h with h | h | h <;> rw [h] <;> rfl
  · rcases h with h | h <;> rw [h] <;> rfl
  · rw [h]
    rfl
  · cases hs : s.statusOf p with
    | normal => exact absurd hs h
    | waiting => rfl
    | live k => cases k <;> first | rfl | exact absurd hs h'
  · rcases h with h | h <;> rw [h] <;> rfl
  · rcases h with h | h | h <;> rw [h] <;> rfl
  · cases hs : s.statusOf p with
    | normal => rfl
    | waiting => rfl
    | live k => cases k <;> first | rfl | exact absurd hs h


end Sys2Proof.Machine
end

section
/-! Acknowledging settled (4.2): the effect of an acknowledgement, and the choice of the ACK key. -/

namespace Sys2Proof.Machine

/-! ### An acknowledgement -/

section Acknowledge

variable {s t : State} {i : Slot} {r : Record} {o : Operator}

theorem acknowledge_removes (h : r.state = .clearedUnack ∧ r.cls ≠ .held) : s.acknowledge i r o = s.removeAndFill i r := by
  obtain ⟨h, hc⟩ := h
  unfold State.acknowledge
  rw [h]
  cases hk : r.cls with
  | held => exact absurd hk hc
  | selfClearing => rfl
  | locking => rfl

theorem acknowledge_keeps (h : ¬(r.state = .clearedUnack ∧ r.cls ≠ .held)) : s.acknowledge i r o =
    s.keepAcknowledged i r (if r.state = .clearedUnack then .resetWait else .acked) o := by
  unfold State.acknowledge
  cases hs : r.state with
  | clearedUnack =>
    cases hk : r.cls with
    | held => rfl
    | selfClearing => exact absurd ⟨hs, by rw [hk]; simp⟩ h
    | locking => exact absurd ⟨hs, by rw [hk]; simp⟩ h
  | _ => rfl

theorem keepAcknowledged_table (s : State) (i : Slot) (r : Record) (st : RecordState) (o : Operator) :
    hasTable (s.setSlot i (some (r.acknowledged st o))) (s.keepAcknowledged i r st o) :=
  ⟨rfl, rfl, fun _ => rfl, rfl⟩

theorem keepAcknowledged_changesOnly (s : State) (i : Slot) (r : Record) (st : RecordState) (o : Operator) :
    changesOnly s (s.keepAcknowledged i r st o) [.table, .changes] :=
  changesOnly_trans (setSlot_changesOnly s i _) (changesOnly_markAll _ _)

theorem acknowledge_changesOnly (s : State) (i : Slot) (r : Record) (o : Operator) :
    changesOnly s (s.acknowledge i r o) [.table, .queue, .loads, .handovers, .changes] := by
  by_cases h : r.state = .clearedUnack ∧ r.cls ≠ .held
  · rw [acknowledge_removes h]
    exact removeAndFill_changesOnly s i r
  · rw [acknowledge_keeps h]
    exact changesOnly_mono (keepAcknowledged_changesOnly s i r _ o) (by decide)

theorem acknowledge_marked (s : State) (i : Slot) (r : Record) (o : Operator) :
    marked (s.acknowledge i r o) [.point r.point] := by
  by_cases h : r.state = .clearedUnack ∧ r.cls ≠ .held
  · rw [acknowledge_removes h]
    exact marked_subset (removeAndFill_marked s i r) (by simp)
  · rw [acknowledge_keeps h]
    exact marked_subset (markAll_marked _ (by simp)) (by simp)

/-- An acknowledgement leaves what `acknowledgedAt` spells. -/
theorem acknowledgedAt_acknowledge (hfull : s.waiting ≠ [] → s.lowestEmpty = none) (h : hasTable (s.acknowledge i r o) t) :
    acknowledgedAt s t i r o := by
  unfold acknowledgedAt
  by_cases hr : r.state = .clearedUnack ∧ r.cls ≠ .held
  · rw [if_pos hr]
    rw [acknowledge_removes hr] at h
    exact removedAt_of_hasTable h (removedAt_removeAndFill hfull i r)
  · rw [if_neg hr]
    rw [acknowledge_keeps hr] at h
    exact hasTable_trans (keepAcknowledged_table s i r _ o) h

end Acknowledge

/-! ### The order of the ACK key (R66) -/

theorem ackBefore_iff (x y : Record) : x.ackBefore y = true ↔
    priorityCode x.priority < priorityCode y.priority ∨ priorityCode x.priority = priorityCode y.priority ∧
      (x.annunciatedAt < y.annunciatedAt ∨ x.annunciatedAt = y.annunciatedAt ∧ x.point.val < y.point.val) := by
  simp [Record.ackBefore, rank_eq]

/-- No record stands before one that stands before none of its equals. -/
theorem ackBefore_chain {x y z : Record} (h : ¬x.ackBefore y = true) (h' : ¬y.ackBefore z = true) :
    ¬x.ackBefore z = true := by
  rw [ackBefore_iff] at *
  omega

theorem noLater_iff (x y : Record) : noLater x y ↔ ¬y.ackBefore x = true := by
  rw [ackBefore_iff]
  show _ ∨ _ ∧ (_ ∨ _ ∧ x.point.val ≤ y.point.val) ↔ _
  omega

/-- What the fold of the ACK key has found among the slots it has seen: the best so far is a candidate, and no
candidate stands before it. -/
structure BestOf (keep : Record → Bool) (f : Slot → Option Record) (seen : List Slot) (best : Option (Slot × Record)) :
    Prop where
  candidate : ∀ x, best = some x → f x.1 = some x.2 ∧ keep x.2 = true
  first : ∀ i ∈ seen, ∀ r, f i = some r → keep r = true → ∃ x, best = some x ∧ ¬r.ackBefore x.2 = true

section Choice

variable {keep : Record → Bool} {f : Slot → Option Record} {seen : List Slot} {best : Option (Slot × Record)}

/-- A slot without a candidate changes nothing. -/
theorem BestOf.skip (h : BestOf keep f seen best) {i : Slot} (hi : ∀ r, f i = some r → keep r = false) :
    BestOf keep f (i :: seen) best := by
  refine ⟨h.candidate, fun j hj r hr hk => ?_⟩
  rcases List.mem_cons.1 hj with rfl | hj
  · rw [hi r hr] at hk
    cases hk
  · exact h.first j hj r hr hk

/-- A best that neither the new slot's candidate nor the best before it stands before. -/
theorem BestOf.take (h : BestOf keep f seen best) {i : Slot} {x : Slot × Record} (hx : f x.1 = some x.2 ∧ keep x.2 = true)
    (hi : ∀ r, f i = some r → ¬r.ackBefore x.2 = true) (hb : ∀ b, best = some b → ¬b.2.ackBefore x.2 = true) :
    BestOf keep f (i :: seen) (some x) := by
  refine ⟨fun y hy => ?_, fun j hj r hr hk => ⟨x, rfl, ?_⟩⟩
  · obtain rfl := Option.some.inj hy
    exact hx
  · rcases List.mem_cons.1 hj with rfl | hj
    · exact hi r hr
    · obtain ⟨b, hb', hrb⟩ := h.first j hj r hr hk
      exact ackBefore_chain hrb (hb b hb')

theorem ackBefore_irrefl (x : Record) : ¬x.ackBefore x = true := by
  rw [ackBefore_iff]
  omega

theorem ackBefore_asymm {x y : Record} (h : x.ackBefore y = true) : ¬y.ackBefore x = true := by
  rw [ackBefore_iff] at *
  omega

theorem BestOf.next (h : BestOf keep f seen best) (i : Slot) :
    BestOf keep f (i :: seen) (betterCandidate keep best (i, f i)) := by
  unfold betterCandidate
  dsimp only
  cases hi : f i with
  | none => exact h.skip fun r hr => by rw [hi] at hr; cases hr
  | some q =>
    have own : ∀ r, f i = some r → r = q := fun r hr => Option.some.inj (hr.symm.trans hi)
    dsimp only
    cases hq : keep q with
    | false => exact h.skip fun r hr => by rw [own r hr, hq]
    | true =>
      rw [if_pos rfl]
      have stays : ∀ r, f i = some r → ¬r.ackBefore q = true := fun r hr => by
        rw [own r hr]
        exact ackBefore_irrefl q
      cases hb : best with
      | none =>
        refine h.take (x := (i, q)) ⟨hi, hq⟩ stays fun b hb' => ?_
        rw [hb] at hb'
        cases hb'
      | some b =>
        dsimp only
        split
        · next hlt =>
          refine h.take (x := (i, q)) ⟨hi, hq⟩ stays fun b' hb' => ?_
          obtain rfl : b = b' := Option.some.inj (hb.symm.trans hb')
          exact ackBefore_asymm hlt
        · next hge =>
          refine h.take (h.candidate b hb) (fun r hr => by rw [own r hr]; exact hge) fun b' hb' => ?_
          obtain rfl : b = b' := Option.some.inj (hb.symm.trans hb')
          exact ackBefore_irrefl _

theorem BestOf.fold (l : List Slot) (h : BestOf keep f seen best) :
    BestOf keep f (l.reverse ++ seen) (l.foldl (fun b i => betterCandidate keep b (i, f i)) best) := by
  induction l generalizing seen best with
  | nil => exact h
  | cons i l ih =>
    rw [List.foldl_cons, List.reverse_cons, List.append_assoc]
    exact ih (h.next i)

end Choice

theorem waitsAt_iff (r : Record) (c : Console) : r.waitsAt c = true ↔ waitsFor c r := by
  simp [Record.waitsAt, unacknowledged_iff, and_assoc]

theorem ackCandidate_iff (s : State) (c : Console) (o : Operator) (r : Record) :
    s.ackCandidate c o r = true ↔ waitsFor c r ∧ s.mayAck o r := by
  unfold State.ackCandidate
  rw [Bool.and_eq_true, waitsAt_iff, decide_eq_true_iff]

section Key

variable {s : State} {c : Console} {o : Operator}

theorem ackChoice_best (s : State) (c : Console) (o : Operator) :
    BestOf (s.ackCandidate c o) (fun i => s.live[i]) (List.finRange 64) (s.ackChoice c o) := by
  have h := BestOf.fold (keep := s.ackCandidate c o) (f := fun i => s.live[i]) (seen := []) (best := none)
    (List.finRange 64) ⟨fun x hx => (by cases hx), fun i hi => absurd hi (by simp)⟩
  exact ⟨h.candidate, fun i _ => h.first i (by simp)⟩

theorem ackChoice_none (h : ∀ q ∈ s.records, waitsFor c q → ¬s.mayAck o q) : s.ackChoice c o = none := by
  cases hc : s.ackChoice c o with
  | none => rfl
  | some x =>
    obtain ⟨hl, hk⟩ := (ackChoice_best s c o).candidate x hc
    obtain ⟨hw, hm⟩ := (ackCandidate_iff s c o x.2).1 hk
    exact absurd hm (h x.2 ((mem_records s x.2).2 ⟨x.1, hl⟩) hw)

/-- Under the law of the table the key takes the candidate that no other stands before. -/
theorem ackChoice_some (ht : s.onceLive) {i : Slot} {r : Record} (hl : s.live[i] = some r) (hw : waitsFor c r)
    (hm : s.mayAck o r) (hfirst : ∀ q ∈ s.records, waitsFor c q → s.mayAck o q → noLater r q) :
    s.ackChoice c o = some (i, r) := by
  obtain ⟨x, hx, hrx⟩ := (ackChoice_best s c o).first i (by simp) r hl ((ackCandidate_iff s c o r).2 ⟨hw, hm⟩)
  obtain ⟨hxl, hxk⟩ := (ackChoice_best s c o).candidate x hx
  obtain ⟨hxw, hxm⟩ := (ackCandidate_iff s c o x.2).1 hxk
  have hxr := (noLater_iff _ _).1 (hfirst x.2 ((mem_records s x.2).2 ⟨x.1, hxl⟩) hxw hxm)
  have hpoint : r.point = x.2.point := by
    rw [ackBefore_iff] at hrx hxr
    exact Fin.ext (by omega)
  have hslot : i = x.1 := ht i x.1 r x.2 hl hxl hpoint
  have hrec : r = x.2 := Option.some.inj (hl.symm.trans (by rw [hslot]; exact hxl))
  rw [hx, hslot, hrec]

theorem ackKey_unstaffed (h : s.attachedAt c = none) : s.ackKey c = Effect.refuse .notStaffed := by
  unfold State.ackKey
  rw [h]

theorem ackKey_acknowledges {i : Slot} {r : Record} (h : s.attachedAt c = some o) (hc : s.ackChoice c o = some (i, r)) :
    s.ackKey c = (some (s.acknowledge i r o), none) := by
  unfold State.ackKey
  rw [h]
  dsimp only
  rw [hc]
  rfl

theorem ackKey_refuses (h : s.attachedAt c = some o) (hc : s.ackChoice c o = none) : s.ackKey c =
    Effect.refuse (if s.records.any (·.waitsAt c) then .levelTooLow else .nothingToDo) := by
  unfold State.ackKey
  rw [h]
  dsimp only
  rw [hc]

end Key

/-- Settles O34: the request by its chain of checks, the key by its choice. -/
theorem acknowledgementsByRequestAndKey : Obligations.AcknowledgementsByRequestAndKey := by
  refine ⟨fun seq w x c o p i r s hl hw hx ht hu hf hr ha hz => ?_, fun c s hh hu ha => ?_,
    fun c o s hh hu ha ht => ⟨fun i r hlive hwait hmay hfirst => ?_, fun hlow hsome => ?_, fun hnone => ?_⟩⟩
  · have hsuits : ackSuits (s.statusOf p) = none := by
      rw [statusOf_live hf]
      rcases hr with hr | hr <;> rw [hr] <;> rfl
    have hv := namedRecord_acts (s := s.plantHunting) (act := fun i r => .accept (s.plantHunting.acknowledge i r o) [])
      (required := (·.ackLevel)) hu rfl hsuits (config := fun _ => none) rfl hf ha hz
    obtain ⟨t, ht', -, hend, hacc⟩ := request_accepts [.table, .queue, .loads, .handovers] (exec_ack hw hx) hl hv
      (changesOnly_mono (acknowledge_changesOnly _ i r o) (by decide)) (by decide)
    obtain ⟨-, hp⟩ := find_some hf
    refine ⟨t, ht', acknowledgedAt_acknowledge (s := s.plantHunting) ht.full hend.hasTable, ?_, hacc⟩
    rw [← hp]
    exact hend.marks _ (acknowledge_marked _ i r o)
  · obtain ⟨t, ht, h⟩ := key_refuses (exec_ackKey c s) hh hu (ackKey_unstaffed (s := s.portHunting c) ha)
    exact ⟨t, ht, refused_keyed h⟩
  · have hc := ackChoice_some ((once_iff s).1 ht.once) hlive hwait hmay hfirst
    obtain ⟨t, ht', -, hend, hkeyed⟩ := key_accepts [.table, .queue, .loads, .handovers] (exec_ackKey c s) hh hu
      (ackKey_acknowledges (s := s.portHunting c) ha hc)
      (changesOnly_mono (acknowledge_changesOnly _ i r o) (by decide)) (by decide)
    exact ⟨t, ht', acknowledgedAt_acknowledge (s := s.portHunting c) ht.full hend.hasTable, hkeyed⟩
  · have hany : s.records.any (·.waitsAt c) = true := by
      obtain ⟨q, hq, hw⟩ := hsome
      exact List.any_eq_true.2 ⟨q, hq, (waitsAt_iff q c).2 hw⟩
    have hr := ackKey_refuses (s := s.portHunting c) ha (ackChoice_none hlow)
    rw [show (s.portHunting c).records.any (·.waitsAt c) = true from hany, if_pos rfl] at hr
    obtain ⟨t, ht', h⟩ := key_refuses (exec_ackKey c s) hh hu hr
    exact ⟨t, ht', refused_keyed h⟩
  · have hany : s.records.any (·.waitsAt c) = false :=
      List.any_eq_false.2 fun q hq hw => hnone q hq ((waitsAt_iff q c).1 hw)
    have hr := ackKey_refuses (s := s.portHunting c) ha (ackChoice_none fun q hq hw => absurd hw (hnone q hq))
    rw [show (s.portHunting c).records.any (·.waitsAt c) = false from hany, if_neg (by simp)] at hr
    obtain ⟨t, ht', h⟩ := key_refuses (exec_ackKey c s) hh hu hr
    exact ⟨t, ht', refused_keyed h⟩

end Sys2Proof.Machine
end

section
/-! The SILENCE key, shelves and the stage deadlines settled (4.3, 4.5, 5.2). -/

namespace Sys2Proof.Machine

/-! ### Silencing (R70, R71) -/

section Silence

variable (s : State) (c : Console)

theorem mapRecords_at (f : Record → Record) (i : Slot) : (s.mapRecords f).live[i] = s.live[i].map f := by
  simp [State.mapRecords]

theorem mapRecords_changesOnly (f : Record → Record) : changesOnly s (s.mapRecords f) [.table] := by
  intro p hp
  cases p <;> simp_all [State.same, sameAt, State.mapRecords]

/-- A flag that a condition adds to, where the condition is asked only of a flag not yet set. -/
theorem or_eq_ite {a b : Bool} {P : Prop} [Decidable P] (h : a = false → (b = true ↔ P)) :
    (a || b) = if P then true else a := by
  cases a with
  | true => simp
  | false =>
    by_cases hp : P
    · rw [if_pos hp, (h rfl).2 hp, Bool.or_true]
    · rw [if_neg hp, show b = false by simpa using mt (h rfl).1 hp, Bool.or_false]

theorem silenced_eq (r : Record) : s.silenced c r =
    { r with
      silencedAtRoute :=
        if r.route = some c ∧ r.state = .raisedUnack ∧ r.floodHeld = false then true else r.silencedAtRoute
      silencedAtSupervisor :=
        if c = 0 ∧ s.coHeard r ∧ r.state = .raisedUnack then true else r.silencedAtSupervisor } := by
  have hroute : r.silencedAtRoute = false → ((r.route == some c && r.soundsAtRoute) = true ↔
      r.route = some c ∧ r.state = .raisedUnack ∧ r.floodHeld = false) := fun h => by
    simp only [Record.soundsAtRoute, h, Bool.and_eq_true, beq_iff_eq, Bool.not_eq_true', and_true]
  have hsup : r.silencedAtSupervisor = false → ((c == 0 && s.soundsAtSupervisor r) = true ↔
      c = 0 ∧ s.coHeard r ∧ r.state = .raisedUnack) := fun h => by
    simp only [State.soundsAtSupervisor, h, Bool.and_eq_true, beq_iff_eq, Bool.not_eq_true', and_true, coAnnunciated_iff]
  unfold State.silenced
  rw [or_eq_ite hroute, or_eq_ite hsup]

/-- No record sounds at a console whose SILENCE key has been pressed. -/
theorem silenced_quiet (r : Record) : s.soundsAt c (s.silenced c r) = false := by
  have hco : s.coAnnunciated (s.silenced c r) = s.coAnnunciated r := rfl
  unfold State.soundsAt State.soundsAtSupervisor
  rw [hco]
  unfold State.silenced Record.soundsAtRoute State.soundsAtSupervisor
  dsimp only
  cases r.silencedAtRoute <;> cases r.silencedAtSupervisor <;> simp <;> grind

theorem mapRecords_soundsAt (f : Record → Record) (r : Record) : (s.mapRecords f).soundsAt c r = s.soundsAt c r := by
  simp only [State.soundsAt, State.soundsAtSupervisor, State.coAnnunciated, State.mapRecords_consoles]

theorem silenced_pattern : (s.mapRecords (s.silenced c)).patternOf c = .silent := by
  refine (patternOf_silent _ c).2 fun r hr => ?_
  obtain ⟨i, hi⟩ := (mem_records _ r).1 hr
  rw [mapRecords_at] at hi
  obtain ⟨q, -, rfl⟩ := Option.map_eq_some_iff.1 hi
  rw [mapRecords_soundsAt, silenced_quiet]

theorem silenceKey_unstaffed (h : s.attachedAt c = none) : s.silenceKey c = Effect.refuse .notStaffed := by
  unfold State.silenceKey
  rw [h]

variable {o : Operator} (h : s.attachedAt c = some o)

include h

theorem silenceKey_idle (hn : ∀ r ∈ s.records, s.soundsAt c r = false) :
    s.silenceKey c = Effect.refuse .nothingToDo := by
  unfold State.silenceKey
  rw [h]
  exact if_neg (by simpa using hn)

theorem silenceKey_silences (hs : ∃ r ∈ s.records, s.soundsAt c r = true) :
    s.silenceKey c = (some (s.mapRecords (s.silenced c)), none) := by
  unfold State.silenceKey
  rw [h]
  exact if_pos (by simpa using hs)

end Silence

theorem patternOf_withResult (u : State) (c d : Console) (src : ResultSource) (r : Result) :
    (u.withResult c src r).patternOf d = u.patternOf d := by
  have hflags := changesOnly_withResult u c src r .flags (by decide)
  exact patternOf_congr (s := u) (t := u.withResult c src r) rfl (fun e => congrArg Prod.fst (hflags e)) d

/-- Settles O35: nothing sounds where everything has been silenced. -/
theorem silenceKeyStopsTheHorn : Obligations.SilenceKeyStopsTheHorn := by
  refine ⟨fun c s hh hu ha => ?_, fun c o s hh hu ha => ⟨fun hs => ?_, fun hn => ?_⟩⟩
  · obtain ⟨t, ht, h⟩ := key_refuses (exec_silenceKey c s) hh hu (silenceKey_unstaffed (s.portHunting c) c ha)
    exact ⟨t, ht, refused_keyed h⟩
  · have honly := mapRecords_changesOnly (s.portHunting c) ((s.portHunting c).silenced c)
    obtain ⟨t, ht, rfl, hend, hkeyed⟩ := key_accepts [.table] (exec_silenceKey c s) hh hu
      (silenceKey_silences (s.portHunting c) c ha hs) (changesOnly_mono honly (by decide)) (by decide)
    refine ⟨_, ht, fun i => ?_, ?_, hkeyed⟩
    · rw [hend.live]
      exact (mapRecords_at _ _ i).trans (congrArg (fun f => s.live[i].map f) (funext (silenced_eq s c)))
    · refine (settle_pattern _ _ _ c).trans ?_
      rw [patternOf_withResult]
      exact silenced_pattern (s.portHunting c) c
  · obtain ⟨t, ht, h⟩ := key_refuses (exec_silenceKey c s) hh hu (silenceKey_idle (s.portHunting c) c ha hn)
    exact ⟨t, ht, refused_keyed h⟩

/-! ### Stage deadlines (R85 to R87) -/

section Stages

variable {s : State} {p : Point} {i : Slot} {r : Record}

theorem exec_reminderDeadline (hf : s.find p = some (i, r)) : exec (.reminderDeadline p) s =
    timed s (reached s.partTime (reminderDeadline s.cfg.params r)) (s.setSlot i (some r.remind)) := by
  show execReminderDeadline p s = _
  unfold execReminderDeadline
  rw [hf]

theorem exec_escalationDeadline (hf : s.find p = some (i, r)) : exec (.escalationDeadline p) s =
    timed s (reached s.partTime (escalationDeadline s.cfg.params r)) (s.setSlot i (some r.escalate)) := by
  show execEscalationDeadline p s = _
  unfold execEscalationDeadline
  rw [hf]

theorem exec_shelfExpiry (hf : s.find p = some (i, r)) : exec (.shelfExpiry p) s =
    timed s (r.state == .shelved && reached s.partTime r.shelfEnd) (s.endShelf i r) := by
  show execShelfExpiry p s = _
  unfold execShelfExpiry
  rw [hf]

theorem remind_eq (r : Record) : r.remind = reminded r := rfl

theorem escalate_eq (r : Record) : r.escalate = escalated r := rfl

end Stages

/-- Settles O39. -/
theorem stageDeadlines : Obligations.StageDeadlines := by
  refine ⟨fun p i r s hp hf hr => ?_, fun p i r s hp hf hr => ?_⟩
  · exact ⟨_, timed_taken (exec_reminderDeadline hf) hp ((reminder_reached _ _ r).2 hr), (settle_concludes s _ none).live,
      changesOnly_settle_of (setSlot_changesOnly s i _) none⟩
  · exact ⟨_, timed_taken (exec_escalationDeadline hf) hp ((escalation_reached _ _ r).2 hr),
      (settle_concludes s _ none).live, changesOnly_settle_of (setSlot_changesOnly s i _) none⟩

/-! ### Shelves (R76 to R81) -/

section Shelves

variable {s t : State} {p : Point} {i : Slot} {r : Record}

theorem endShelf_standing (h : r.condition = .active) : s.endShelf i r =
    (s.annunciate i { r with state := .raisedUnack, shelvedBy := none, shelfEnd := none }).unseeItem (.alarm r.point) := by
  unfold State.endShelf
  rw [h]

theorem endShelf_gone (h : r.condition = .gone) : s.endShelf i r = s.removeAndFill i r := by
  unfold State.endShelf
  rw [h]

theorem endShelf_changesOnly (s : State) (i : Slot) (r : Record) :
    changesOnly s (s.endShelf i r) [.table, .queue, .loads, .handovers, .changes] := by
  cases h : r.condition with
  | active =>
    rw [endShelf_standing h]
    exact changesOnly_mono (changesOnly_trans (annunciate_changesOnly s i _) (mapPhases_changesOnly _ _)) (by decide)
  | gone =>
    rw [endShelf_gone h]
    exact removeAndFill_changesOnly s i r

/-- What the end of a shelf leaves, by the condition (R79). -/
theorem endShelf_leaves (hfull : s.waiting ≠ [] → s.lowestEmpty = none) (h : hasTable (s.endShelf i r) t) :
    (r.condition = .active →
      annunciatedAt s t i { r with state := .raisedUnack, shelvedBy := none, shelfEnd := none } ∧
        t.waiting = s.waiting ∧ listsAre s t fun _ l => unseenAgain (.alarm r.point) l) ∧
    (r.condition = .gone → removedAt s t i r) := by
  refine ⟨fun hc => ?_, fun hc => ?_⟩
  · rw [endShelf_standing hc] at h
    have ⟨_, hw, _, _⟩ := h
    exact ⟨annunciatedAt_of_hasTable h (annunciatedAt_annunciate s i _), hw,
      listsAre_of_hasTable h (unseeItem_lists (s.annunciate i _) _)⟩
  · rw [endShelf_gone hc] at h
    exact removedAt_of_hasTable h (removedAt_removeAndFill hfull i r)

/-- A point whose record has changed in its slot is marked. -/
theorem viewDiffers_point_of_slot {u : State} (hf : s.find p = some (i, r)) (hu : u.live[i] ≠ some r) :
    viewDiffers s u.rehorn.rerelay (.point p) := fun h => by
  have hslot : (s.find p).map Prod.fst = (u.find p).map Prod.fst := congrArg PointView.slot h
  have hrec : (s.find p).map Prod.snd = (u.find p).map Prod.snd := congrArg PointView.record h
  rw [hf] at hslot hrec
  cases hx : u.find p with
  | none => rw [hx] at hslot; cases hslot
  | some x =>
    rw [hx] at hslot hrec
    refine hu ?_
    rw [show i = x.1 from Option.some.inj hslot, show r = x.2 from Option.some.inj hrec]
    exact find_live (i := x.1) hx

/-- The end of a shelf marks its point: by the removal, or by the new state. -/
theorem endShelf_marked (hf : s.find p = some (i, r)) (hr : r.state = .shelved) (x : Option Console) : marked (settle s (s.endShelf i r) x) [.point p] := by
  obtain ⟨-, hp⟩ := find_some hf
  cases hc : r.condition with
  | active =>
    refine settle_marked s _ x (viewDiffers_point_of_slot hf fun h => ?_)
    rw [endShelf_standing hc] at h
    have hat : some (s.annunciated { r with state := .raisedUnack, shelvedBy := none, shelfEnd := none }) = some r := by
      rw [← h]
      simp [State.annunciate]
    have hst := congrArg Record.state (Option.some.inj hat)
    rw [hr] at hst
    cases hst
  | gone =>
    rw [endShelf_gone hc, ← hp]
    exact (settle_concludes s _ x).marks _ (marked_subset (removeAndFill_marked s i r) (by simp))

/-- The data of a SHELVE: the point, the minutes applied and the shelf's end. -/
theorem shelf_data (p : Point) (n finish : Nat) : (byteOf p.val :: bytesOf16 n ++ bytesOfTime finish).length = 7 ∧
    byteAt (byteOf p.val :: bytesOf16 n ++ bytesOfTime finish) 0 p.val ∧
    halfAt (byteOf p.val :: bytesOf16 n ++ bytesOfTime finish) 1 n ∧
    timeAt (byteOf p.val :: bytesOf16 n ++ bytesOfTime finish) 3 finish := by
  obtain ⟨a, b, c, d, h, ht⟩ := time_bytes finish
  rw [h, half_bytes]
  refine ⟨rfl, rfl, ⟨rfl, rfl⟩, fun hlt => ?_⟩
  obtain ⟨rfl, rfl, rfl, rfl⟩ := ht hlt
  exact ⟨⟨rfl, rfl⟩, rfl, rfl⟩

theorem unshelvedStatus_byte (r : Record) : r.unshelvedStatus.byte = match r.condition with
    | .active => 0
    | .gone => 5 := by
  unfold Record.unshelvedStatus
  cases r.condition <;> rfl

end Shelves

/-- Settles O37: the shelf by its request, and its end by request and by deadline. -/
theorem shelvesStartAndEnd : Obligations.ShelvesStartAndEnd := by
  refine ⟨fun seq w x m c o p i r n s hl hw hx hm hn hu hs hf hr ha hz => ?_,
    fun seq w x c o p i r s hl hw hx ht hu hf hr ha hz => ?_, fun p i r e s hp ht hf hr he hle => ?_⟩
  · have hsuits : shelveSuits (s.statusOf p) = none := by
      rw [statusOf_live hf]
      rcases hr with hr | hr <;> rw [hr] <;> rfl
    have hv := (shelveNamed_eq s.plantHunting c o p m.toNat).trans (namedRecord_acts (s := s.plantHunting) hu
      (minutesRefusal_none hm) hsuits (if_pos hs) hf ha hz)
    obtain ⟨t, ht', -, hend, hacc⟩ := request_accepts [.table] (exec_shelve m hw hx) hl hv
      (changesOnly_mono (setSlot_changesOnly _ i _) (by decide)) (by decide)
    subst hn
    obtain ⟨h1, h2, h3, h4⟩ := shelf_data p (min m.toNat s.cfg.points[p].maxShelf)
      (s.partTime + 600 * min m.toNat s.cfg.points[p].maxShelf)
    exact ⟨t, ht', hend.live, _, h1, h2, h3, h4, hacc⟩
  · have hsuits : unshelveSuits (s.statusOf p) = none := by
      rw [statusOf_live hf, hr]
      rfl
    have hv := namedRecord_acts (s := s.plantHunting) (required := (·.shelveLevel))
      (act := fun i r => .accept (s.plantHunting.endShelf i r) [r.unshelvedStatus.byte]) hu rfl hsuits
      (config := fun _ => none) rfl hf ha hz
    obtain ⟨t, ht', heq, hend, hacc⟩ := request_accepts [.table, .queue, .loads, .handovers] (exec_unshelve hw hx) hl hv
      (changesOnly_mono (endShelf_changesOnly _ i r) (by decide)) (by decide)
    obtain ⟨hstands, hgone⟩ := endShelf_leaves (s := s.plantHunting) ht.full hend.hasTable
    have hmarked := marked_answer (endShelf_marked (s := s.plantHunting) hf hr none) 0x33 seq
      (.ok [r.unshelvedStatus.byte])
    rw [unshelvedStatus_byte] at hacc
    exact ⟨t, ht', hstands, hgone, heq ▸ hmarked, hacc⟩
  · have hd : (r.state == .shelved && reached s.partTime r.shelfEnd) = true := by
      rw [hr, he, Bool.and_eq_true]
      exact ⟨rfl, by simpa [reached] using hle⟩
    have hend := settle_concludes s (s.endShelf i r) none
    obtain ⟨hstands, hgone⟩ := endShelf_leaves ht.full hend.hasTable
    exact ⟨_, timed_taken (exec_shelfExpiry hf) hp hd, hstands, hgone, endShelf_marked hf hr none,
      changesOnly_mono (changesOnly_settle_of (endShelf_changesOnly s i r) none) (by decide)⟩

end Sys2Proof.Machine
end

section
/-! Resetting settled (4.4): several removals in one event, and the admissions that follow them in queue order. -/

namespace Sys2Proof.Machine

/-! ### The empty slots, in their order -/

/-- The empty slots, the lowest-numbered first (R37, R54). -/
def State.emptySlots (s : State) : List Slot := (List.finRange 64).filter fun i => s.live[i].isNone

theorem mem_emptySlots {s : State} {i : Slot} : i ∈ s.emptySlots ↔ s.live[i] = none := by
  simp [State.emptySlots]

theorem emptySlots_head (s : State) : s.emptySlots.head? = s.lowestEmpty := List.head?_filter ..

/-- The empty slots after the first of them has been filled. -/
theorem emptySlots_filled {s t : State} {i : Slot} {rest : List Slot} (h : s.emptySlots = i :: rest) {r : Record}
    (ht : t.live = s.live.set i.val (some r) i.isLt) : t.emptySlots = rest := by
  have hnodup : (i :: rest).Nodup := h ▸ (List.nodup_finRange 64).filter _
  have hstep : t.emptySlots = s.emptySlots.filter fun j => j ≠ i := by
    unfold State.emptySlots
    rw [List.filter_filter]
    refine List.filter_congr fun j _ => ?_
    rw [ht]
    simp only [Fin.getElem_fin, set_get]
    by_cases hj : j = i
    · simp [hj]
    · simp [hj]
  rw [hstep, h, List.filter_cons_of_neg (by simp)]
  refine List.filter_eq_self.2 fun j hj => ?_
  have hi : i ∉ rest := (List.nodup_cons.1 hnodup).1
  simpa using fun e : j = i => hi (e ▸ hj)

/-! ### Admissions in queue order (R54, R55) -/

/-- The record of an entry as its admission leaves it. -/
def admitted (s : State) (e : Entry) : Record := annunciation s (entryRecord s e) (heldBack s (entryRecord s e))

/-- What the admission of some entries makes of a console's second's sum (R100). -/
def sumAfter (s : State) (d : Console) (come : List Entry) (sum : Nat) : Nat :=
  ((come.map (entryRecord s)).filter fun q => s.routes[q.area] = some d ∧ ¬heldBack s q).foldl
    (fun sum q => min 65535 (sum + weightOf q.priority)) sum

/-- What the admission of some entries makes of a list (R172). -/
def listAfter (s : State) (d : Console) (come : List Entry) (l : List Item) : List Item :=
  come.foldl (fun l e => joined s s.cfg.points[e.point].area (.alarm e.point) d l) l

/-- The heads of a queue have taken the empty slots, in their order. -/
structure Filled (s t : State) : Prop where
  stands : ∀ i : Slot, s.live[i] ≠ none → t.live[i] = s.live[i]
  comes : ∀ (k : Nat) (i : Slot), s.emptySlots[k]? = some i →
    t.live[i] = (s.waiting.take s.emptySlots.length)[k]?.map (admitted s)
  rest : t.waiting = s.waiting.drop s.emptySlots.length
  loads : ∀ d : Console, t.consoles[d].load = s.consoles[d].load ∧ t.consoles[d].flooded = s.consoles[d].flooded ∧
    t.consoles[d].secondTaken = s.consoles[d].secondTaken ∧ t.consoles[d].secondSum =
      sumAfter s d (s.waiting.take s.emptySlots.length) s.consoles[d].secondSum
  lists : listsAre s t fun d l => listAfter s d (s.waiting.take s.emptySlots.length) l

section Ground

variable {s u : State} (h : SameGround s u)

include h

theorem SameGround.admitted_eq : admitted u = admitted s := by
  funext e
  have hheld : ∀ r, decide (Sys2Proof.Machine.heldBack u r) = decide (Sys2Proof.Machine.heldBack s r) :=
    fun r => decide_eq_decide.2 (h.heldBack r)
  unfold admitted
  rw [h.annunciation, hheld, h.entryRecord]

theorem SameGround.sumAfter_eq : sumAfter u = sumAfter s := by
  funext d come sum
  have hcounts : (fun q : Record => decide (u.routes[q.area] = some d ∧ ¬Sys2Proof.Machine.heldBack u q)) =
      fun q => decide (s.routes[q.area] = some d ∧ ¬Sys2Proof.Machine.heldBack s q) :=
    funext fun q => decide_eq_decide.2 (by rw [h.routes, h.heldBack])
  unfold sumAfter
  rw [hcounts, show Sys2Proof.Machine.entryRecord u = Sys2Proof.Machine.entryRecord s from funext h.entryRecord]

end Ground

theorem filled_none {s : State} (h : s.waiting = [] ∨ s.emptySlots = []) : Filled s s := by
  have hcome : s.waiting.take s.emptySlots.length = [] := by rcases h with h | h <;> simp [h]
  refine ⟨fun _ _ => rfl, fun k i hk => ?_, ?_, fun d => ?_, ?_⟩
  · rw [hcome, mem_emptySlots.1 (List.mem_of_getElem? hk)]
    rfl
  · rcases h with h | h <;> simp [h]
  · rw [hcome]
    exact ⟨rfl, rfl, rfl, rfl⟩
  · rw [hcome]
    exact listsAre_refl s

/-- One admission, then the rest. -/
theorem filled_cons {s t : State} {i : Slot} {slots : List Slot} {e : Entry} {es : List Entry}
    (hw : s.waiting = e :: es) (hs : s.emptySlots = i :: slots)
    (h : Filled (State.admitEntry { s with waiting := es } i e) t) : Filled s t := by
  obtain ⟨u, hu⟩ : ∃ u, u = State.admitEntry { s with waiting := es } i e := ⟨_, rfl⟩
  rw [← hu] at h
  have hg : SameGround s u := hu ▸ admitEntry_ground s i e es
  obtain ⟨held, hheld, hlive, hweigh⟩ := hu ▸ admitEntry_annunciates s i e es
  have hlists : listsAre s u _ := hu ▸ admitEntry_lists s i e es
  have huw : u.waiting = es := by rw [hu]; rfl
  have hslots : u.emptySlots = slots := emptySlots_filled hs hlive
  have hnodup : (i :: slots).Nodup := hs ▸ (List.nodup_finRange 64).filter _
  have hat : ∀ j : Slot, u.live[j] = if j = i then some (annunciation s (entryRecord s e) held) else s.live[j] :=
    fun j => by rw [hlive]; exact set_get ..
  have hadm : annunciation s (entryRecord s e) held = admitted s e := by
    unfold admitted
    congr 1
    rw [Bool.eq_iff_iff, decide_eq_true_iff]
    exact hheld
  have hcome : s.waiting.take s.emptySlots.length = e :: u.waiting.take u.emptySlots.length := by
    rw [hw, hs, huw, hslots]
    rfl
  refine ⟨fun j hj => ?_, fun k j hk => ?_, ?_, fun d => ?_, ?_⟩
  · have hji : j ≠ i := fun hji => hj (mem_emptySlots.1 (by rw [hs, hji]; exact List.mem_cons_self ..))
    have huj : u.live[j] = s.live[j] := by rw [hat, if_neg hji]
    rw [h.stands j (by rw [huj]; exact hj), huj]
  · rw [hcome]
    rw [hs] at hk
    cases k with
    | zero =>
      obtain rfl : i = j := by simpa using hk
      have hui : u.live[i] = some (admitted s e) := by rw [hat, if_pos rfl, hadm]
      rw [h.stands i (by rw [hui]; simp), hui]
      rfl
    | succ k =>
      rw [h.comes k j (by rw [hslots]; simpa using hk), hg.admitted_eq]
      rfl
  · rw [h.rest, hw, hs, huw, hslots]
    rfl
  · obtain ⟨h1, h2, h3, h4⟩ := h.loads d
    obtain ⟨w1, w2, w3, w4⟩ := hweigh d
    refine ⟨h1.trans w1, h2.trans w2, h3.trans w3, ?_⟩
    rw [h4, hcome, hg.sumAfter_eq, w4]
    unfold sumAfter
    rw [List.map_cons, List.filter_cons]
    have hcond : (s.routes[(entryRecord s e).area] = some d ∧ held = false) ↔
        (s.routes[(entryRecord s e).area] = some d ∧ ¬heldBack s (entryRecord s e)) := by
      rw [← hheld, Bool.not_eq_true]
    by_cases hc : s.routes[(entryRecord s e).area] = some d ∧ ¬heldBack s (entryRecord s e)
    · rw [if_pos (hcond.2 hc), if_pos (decide_eq_true hc)]
      rfl
    · rw [if_neg (mt hcond.1 hc), if_neg (by rw [decide_eq_true_iff]; exact hc)]
  · refine listsAre_congr (listsAre_trans hlists h.lists) fun d => ?_
    rw [hcome]
    unfold listAfter
    rw [List.foldl_cons]
    congr 1
    funext l x
    rw [joined_congr hlists hg.cfg, hg.cfg]

theorem filled_fillFrom (l : List Entry) (s : State) (hw : s.waiting = l) : Filled s (State.fillFrom l s) := by
  induction l generalizing s with
  | nil => exact filled_none (.inl hw)
  | cons e es ih =>
    unfold State.fillFrom
    have hhead := emptySlots_head s
    cases hi : s.lowestEmpty with
    | none =>
      rw [hi, List.head?_eq_none_iff] at hhead
      exact filled_none (.inr hhead)
    | some i =>
      rw [hi] at hhead
      obtain ⟨slots, hs⟩ := List.head?_eq_some_iff.1 hhead
      exact filled_cons hw hs (ih _ rfl)

theorem filled_fill (s : State) : Filled s s.fill := filled_fillFrom s.waiting s rfl

/-- Under the law of the table the fill has nothing to do. -/
theorem fill_of_full {s : State} (hfull : s.waiting ≠ [] → s.lowestEmpty = none) : s.fill = s := by
  unfold State.fill
  cases hw : s.waiting with
  | nil => rfl
  | cons e es =>
    unfold State.fillFrom
    rw [hfull (by rw [hw]; simp)]

/-! ### Several removals (R51) -/

/-- The records of some slots have left one after the other. -/
def State.cleared_of (s : State) (l : List (Slot × Record)) : State := l.foldl (fun t x => t.remove x.1 x.2) s

section Removals

theorem removals_ground (l : List (Slot × Record)) (s : State) : (s.cleared_of l).waiting = s.waiting ∧
    (s.cleared_of l).consoles = s.consoles ∧ SameGround s (s.cleared_of l) := by
  induction l generalizing s with
  | nil => exact ⟨rfl, rfl, .refl s⟩
  | cons x l ih =>
    obtain ⟨hw, hc, hg⟩ := ih (s.remove x.1 x.2)
    obtain ⟨-, rw, rc, rcfg, rroutes, rtime⟩ := remove_table s x.1 x.2
    exact ⟨hw.trans rw, hc.trans rc, SameGround.trans ⟨rcfg, rroutes, rtime, fun c => by rw [rc]⟩ hg⟩

theorem removals_live (l : List (Slot × Record)) (s : State) (i : Slot) :
    (s.cleared_of l).live[i] = if i ∈ l.map Prod.fst then none else s.live[i] := by
  induction l generalizing s with
  | nil => rfl
  | cons x l ih =>
    obtain ⟨hl, -⟩ := remove_table s x.1 x.2
    refine (ih (s.remove x.1 x.2)).trans ?_
    rw [hl, List.map_cons]
    simp only [Fin.getElem_fin, set_get, List.mem_cons]
    by_cases hx : i = x.1 <;> by_cases hm : i ∈ l.map Prod.fst <;> simp [hx, hm]

theorem removals_lists (l : List (Slot × Record)) (s : State) : listsAre s (s.cleared_of l) fun _ m =>
    m.filter fun it => ∀ x ∈ l, it.ref ≠ .alarm x.2.point := by
  induction l generalizing s with
  | nil => exact listsAre_congr (listsAre_refl s) fun d => by simp
  | cons x l ih =>
    refine listsAre_congr (listsAre_trans (remove_lists s x.1 x.2) (ih (s.remove x.1 x.2))) fun d => ?_
    unfold dropped
    rw [List.filter_filter]
    refine List.filter_congr fun it _ => ?_
    rw [Bool.eq_iff_iff, Bool.and_eq_true, decide_eq_true_iff, decide_eq_true_iff, decide_eq_true_iff,
      List.forall_mem_cons, and_comm]

theorem removals_marks (l : List (Slot × Record)) (s : State) : ∀ x ∈ l,
    marked (s.cleared_of l) [.point x.2.point, .area x.2.area] := by
  induction l generalizing s with
  | nil => exact fun x hx => absurd hx (by simp)
  | cons y l ih =>
    intro x hx
    rcases List.mem_cons.1 hx with rfl | hx
    · have h := markAll_marked (s.setSlot x.1 none) (refs := [.point x.2.point, .area x.2.area]) (by simp)
      have hkeep : Marks ((s.setSlot x.1 none).markAll [.point x.2.point, .area x.2.area]) (s.cleared_of (x :: l)) :=
        Marks.foldl (fun z hv => hv.remove z.1 z.2) l ((Marks.refl _).dropItem (.alarm x.2.point))
      exact hkeep.marked h
    · exact ih (s.remove y.1 y.2) x hx

end Removals

/-! ### The records that a RESET takes -/

section Reset

variable {s : State} {c : Console} {o : Operator}

/-- The records that the RESET key of a console removes. -/
def State.resets (s : State) (c : Console) (o : Operator) (r : Record) : Bool := resetWaitsAt c r ∧ s.hasResetLevel o r

theorem awaitsReset_iff (r : Record) : r.awaitsReset c = true ↔ resetWaitsAt c r := by simp [Record.awaitsReset]

theorem mayReset_iff (r : Record) : s.mayReset o r = true ↔ s.hasResetLevel o r := by simp [State.mayReset]

theorem mem_resettable (ht : s.onceLive) {i : Slot} {r : Record} :
    (i, r) ∈ s.resettable c o ↔ s.live[i] = some r ∧ s.resets c o r = true := by
  have hcond (q : Record) : (q.awaitsReset c && s.mayReset o q) = true ↔ s.resets c o q = true := by
    rw [Bool.and_eq_true, awaitsReset_iff, mayReset_iff, State.resets, decide_eq_true_iff]
  unfold State.resettable
  rw [List.mem_filterMap]
  constructor
  · rintro ⟨p, -, hp⟩
    cases hf : s.find p with
    | none => rw [hf] at hp; cases hp
    | some x =>
      rw [hf] at hp
      obtain ⟨hq, hx⟩ := Option.ite_none_right_eq_some.1 hp
      cases hx
      exact ⟨find_live (i := x.1) hf, (hcond x.2).1 hq⟩
  · rintro ⟨hl, hr⟩
    refine ⟨r.point, by simp, ?_⟩
    cases hf : s.find r.point with
    | none => exact absurd rfl (find_none hf r ((mem_records s r).2 ⟨i, hl⟩))
    | some x =>
      obtain ⟨hx, hp⟩ := find_some (i := x.1) (r := x.2) hf
      have hi : x.1 = i := ht x.1 i x.2 r hx hl hp
      have hrec : x.2 = r := Option.some.inj (hx.symm.trans (by rw [hi]; exact hl))
      dsimp only
      rw [hrec, hi, if_pos ((hcond r).2 hr)]

/-- The slots that are empty once they have left, in their order. -/
theorem emptySlots_resets (ht : s.onceLive) : (s.cleared_of (s.resettable c o)).emptySlots =
    (List.finRange 64).filter fun i => s.live[i].all (s.resets c o) := by
  refine List.filter_congr fun i _ => ?_
  rw [removals_live]
  cases hl : s.live[i] with
  | none => simp
  | some r =>
    have hmem : i ∈ (s.resettable c o).map Prod.fst ↔ s.resets c o r = true := by
      simp only [List.mem_map, Prod.exists, exists_and_right, exists_eq_right]
      refine ⟨fun ⟨q, hq⟩ => ?_, fun hr => ⟨r, (mem_resettable ht).2 ⟨hl, hr⟩⟩⟩
      obtain ⟨hql, hqr⟩ := (mem_resettable ht).1 hq
      rwa [Option.some.inj (hl.symm.trans hql)]
    rw [Option.all_some, Bool.eq_iff_iff, ← hmem]
    by_cases hm : i ∈ (s.resettable c o).map Prod.fst <;> simp [hm]

theorem removedAll_resets (ht : s.onceLive) : removedAll s (s.removeAll (s.resettable c o)) (s.resets c o) := by
  obtain ⟨hw, hc, hg⟩ := removals_ground (s.resettable c o) s
  have h : Filled (s.cleared_of (s.resettable c o)) (s.removeAll (s.resettable c o)) := filled_fill _
  have hslots := emptySlots_resets (c := c) (o := o) ht
  refine ⟨fun i r hl hr => ?_, fun k i hk => ?_, ?_, fun d => ?_, ?_⟩
  · have hv : (s.cleared_of (s.resettable c o)).live[i] = some r := by
      rw [removals_live, if_neg, hl]
      simp only [List.mem_map, Prod.exists, exists_and_right, exists_eq_right, not_exists]
      intro q hq
      obtain ⟨hql, hqr⟩ := (mem_resettable ht).1 hq
      rw [← Option.some.inj (hl.symm.trans hql), hr] at hqr
      cases hqr
    rw [h.stands i (by rw [hv]; simp), hv]
  · have := h.comes k i (by rw [hslots]; exact hk)
    rw [hslots, hw, hg.admitted_eq] at this
    exact this
  · rw [h.rest, hslots, hw]
  · have := h.loads d
    rw [hslots, hw, hg.sumAfter_eq, hc] at this
    exact this
  · have hlists := removals_lists (s.resettable c o) s
    refine listsAre_congr (listsAre_trans hlists h.lists) fun d => ?_
    rw [hslots, hw]
    unfold listAfter
    have hstep : (fun (l : List Item) (e : Entry) =>
        joined (s.cleared_of (s.resettable c o)) (s.cleared_of (s.resettable c o)).cfg.points[e.point].area
          (.alarm e.point) d l) = fun l e => joined s s.cfg.points[e.point].area (.alarm e.point) d l := by
      funext l e
      rw [joined_congr hlists hg.cfg, hg.cfg]
    rw [hstep]
    congr 1
    refine List.filter_congr fun it _ => decide_eq_decide.2 ⟨fun hx r hr hgo => ?_, fun hx x hxm => ?_⟩
    · obtain ⟨i, hi⟩ := (mem_records s r).1 hr
      exact hx (i, r) ((mem_resettable ht).2 ⟨hi, hgo⟩)
    · obtain ⟨hl, hgo⟩ := (mem_resettable (i := x.1) (r := x.2) ht).1 hxm
      exact hx x.2 ((mem_records s x.2).2 ⟨x.1, hl⟩) hgo

/-- No record of a point that has been reset is left, under the law of the table. -/
theorem resets_gone (hlaw : s.tableLaw) {r : Record} (hr : r ∈ s.records) (hgo : s.resets c o r = true) :
    ∀ q ∈ (s.removeAll (s.resettable c o)).records, q.point ≠ r.point := by
  have ht := (once_iff s).1 hlaw.once
  have h : Filled (s.cleared_of (s.resettable c o)) (s.removeAll (s.resettable c o)) := filled_fill _
  obtain ⟨hw, -, hg⟩ := removals_ground (s.resettable c o) s
  obtain ⟨i, hi⟩ := (mem_records s r).1 hr
  intro q hq hp
  obtain ⟨j, hj⟩ := (mem_records _ q).1 hq
  cases hv : (s.cleared_of (s.resettable c o)).live[j] with
  | some y =>
    rw [h.stands j (by rw [hv]; simp), removals_live] at hj
    split at hj
    · cases hj
    · next hm =>
      have hij : i = j := ht i j r q hi hj hp.symm
      refine hm (List.mem_map.2 ⟨(i, r), (mem_resettable ht).2 ⟨hi, hgo⟩, hij⟩)
  | none =>
    obtain ⟨k, hk⟩ := List.getElem?_of_mem (mem_emptySlots.2 hv)
    rw [h.comes k j hk, hw, hg.admitted_eq] at hj
    obtain ⟨e, he, rfl⟩ := Option.map_eq_some_iff.1 hj
    exact hlaw.apart e (List.mem_of_mem_take (List.mem_of_getElem? he)) r hr hp.symm

/-! ### The RESET key -/

theorem resetKey_unstaffed (h : s.attachedAt c = none) : s.resetKey c = Effect.refuse .notStaffed := by
  unfold State.resetKey
  rw [h]

theorem resetKey_idle (h : s.attachedAt c = some o) (hn : ∀ r ∈ s.records, ¬resetWaitsAt c r) :
    s.resetKey c = Effect.refuse .nothingToDo := by
  unfold State.resetKey
  rw [h]
  refine if_neg ?_
  rw [Bool.not_eq_true, List.any_eq_false]
  exact fun r hr ha => hn r hr ((awaitsReset_iff r).1 ha)

/-- The outcome of the RESET key where some record waits. -/
def resetOutcome (s : State) (c : Console) (o : Operator) : Result :=
  if ∃ r ∈ s.records, resetWaitsAt c r ∧ ¬s.hasResetLevel o r then some .levelTooLow else none

theorem resetKey_waits (h : s.attachedAt c = some o) (hs : ∃ r ∈ s.records, resetWaitsAt c r) : s.resetKey c =
    (if (s.resettable c o).isEmpty then none else some (s.removeAll (s.resettable c o)), resetOutcome s c o) := by
  have hany : s.records.any (·.awaitsReset c) = true := by
    obtain ⟨r, hr, hw⟩ := hs
    exact List.any_eq_true.2 ⟨r, hr, (awaitsReset_iff r).2 hw⟩
  have hlow : (s.records.any fun r => r.awaitsReset c && !s.mayReset o r) = true ↔
      ∃ r ∈ s.records, resetWaitsAt c r ∧ ¬s.hasResetLevel o r := by
    simp only [List.any_eq_true, Bool.and_eq_true, awaitsReset_iff, Bool.not_eq_true', ← Bool.not_eq_true, mayReset_iff]
  unfold State.resetKey resetOutcome
  rw [h]
  dsimp only
  rw [if_pos hany]
  by_cases hx : ∃ r ∈ s.records, resetWaitsAt c r ∧ ¬s.hasResetLevel o r
  · rw [if_pos hx, if_pos (hlow.2 hx)]
  · rw [if_neg hx, if_neg (mt hlow.1 hx)]

/-- Where none can be removed, some record waits for want of level. -/
theorem resetOutcome_low (ht : s.onceLive) (hs : ∃ r ∈ s.records, resetWaitsAt c r) (he : s.resettable c o = []) :
    resetOutcome s c o = some .levelTooLow := by
  obtain ⟨r, hr, hw⟩ := hs
  refine if_pos ⟨r, hr, hw, fun hm => ?_⟩
  obtain ⟨i, hi⟩ := (mem_records s r).1 hr
  have := (mem_resettable (c := c) (o := o) ht).2 ⟨hi, by unfold State.resets; exact decide_eq_true ⟨hw, hm⟩⟩
  rw [he] at this
  cases this

theorem removeAll_changesOnly (l : List (Slot × Record)) (s : State) :
    changesOnly s (s.removeAll l) [.table, .queue, .loads, .handovers, .changes] := by
  have h : changesOnly s (s.cleared_of l) [.table, .handovers, .changes] := by
    induction l generalizing s with
    | nil => exact changesOnly_refl s _
    | cons x l ih =>
      exact changesOnly_mono (changesOnly_trans (remove_changesOnly s x.1 x.2) (ih (s.remove x.1 x.2))) (by decide)
  exact changesOnly_mono (changesOnly_trans h (fill_changesOnly _)) (by decide)

end Reset

theorem removedAll_of_hasTable {s u t : State} {goes : Record → Bool} (h : hasTable u t) (hr : removedAll s u goes) :
    removedAll s t goes := by
  have ⟨hl, hw, hc, _⟩ := h
  obtain ⟨h1, h2, h3, h4, h5⟩ := hr
  refine ⟨fun i r hi hg => by rw [hl]; exact h1 i r hi hg, fun k i hk => by rw [hl]; exact h2 k i hk, hw.trans h3,
    fun d => ?_, listsAre_of_hasTable h h5⟩
  have e := hc d
  simp only [Prod.mk.injEq] at e
  obtain ⟨e1, e2, e3, e4⟩ := e
  obtain ⟨g1, g2, g3, g4⟩ := h4 d
  exact ⟨e1.trans g1, e2.trans g2, e4.trans g3, e3.trans g4⟩

theorem hasTable_of_only {s t : State} {parts : List Part} (h : changesOnly s t parts)
    (hp : ∀ p ∈ [Part.table, .queue, .loads, .handovers], p ∉ parts := by decide) : hasTable s t :=
  ⟨h .table (hp _ (by simp)), h .queue (hp _ (by simp)), h .loads (hp _ (by simp)), h .handovers (hp _ (by simp))⟩

/-- Settles O36. -/
theorem resetsRemoveTheRecords : Obligations.ResetsRemoveTheRecords := by
  refine ⟨fun seq w x c o p i r s hl hw hx ht hu hf hr ha hz => ?_, fun c s hh hu ha => ?_,
    fun c o s hh hu ha ht => ⟨fun hs => ?_, fun hn => ?_⟩⟩
  · have hsuits : resetSuits (s.statusOf p) = none := by
      rw [statusOf_live hf, hr]
      rfl
    have hv := namedRecord_acts (s := s.plantHunting) (act := fun i r => .accept (s.plantHunting.removeAndFill i r) [])
      (required := (·.resetLevel)) hu rfl hsuits (config := fun _ => none) rfl hf ha hz
    obtain ⟨t, ht', -, hend, hacc⟩ := request_accepts [.table, .queue, .loads, .handovers] (exec_resetHeld hw hx) hl hv
      (changesOnly_mono (removeAndFill_changesOnly _ i r) (by decide)) (by decide)
    obtain ⟨-, hp⟩ := find_some hf
    refine ⟨t, ht', removedAt_of_hasTable hend.hasTable (removedAt_removeAndFill (s := s.plantHunting) ht.full i r), ?_, hacc⟩
    rw [← hp]
    exact hend.marks _ (removeAndFill_marked _ i r)
  · obtain ⟨t, ht, h⟩ := key_refuses (exec_resetKey c s) hh hu (resetKey_unstaffed (s := s.portHunting c) ha)
    exact ⟨t, ht, refused_keyed h⟩
  · cases he : s.resettable c o with
    | nil =>
      have hr : (s.portHunting c).resetKey c = Effect.refuse .levelTooLow := by
        have h := resetKey_waits (s := s.portHunting c) ha hs
        rw [show (s.portHunting c).resettable c o = [] from he, resetOutcome_low (s := s.portHunting c) ((once_iff s).1 ht.once) hs he] at h
        exact h
      obtain ⟨t, ht', hkey⟩ := key_refuses (exec_resetKey c s) hh hu hr
      have hlow := resetOutcome_low (s := s) ((once_iff s).1 ht.once) hs he
      unfold resetOutcome at hlow
      rw [hlow]
      have hall := removedAll_resets (c := c) (o := o) ((once_iff s).1 ht.once)
      rw [he, show s.removeAll [] = s from fill_of_full ht.full] at hall
      refine ⟨t, ht', fun r hr hw hm => ?_, removedAll_of_hasTable (hasTable_of_only hkey.2) hall,
        hkey.1, changesOnly_mono hkey.2 (by decide)⟩
      obtain ⟨i, hi⟩ := (mem_records s r).1 hr
      have hin := (mem_resettable (o := o) ((once_iff s).1 ht.once)).2 ⟨hi, decide_eq_true ⟨hw, hm⟩⟩
      rw [he] at hin
      cases hin
    | cons x l =>
      have hr := resetKey_waits (s := s.portHunting c) ha hs
      rw [show (s.portHunting c).resettable c o = x :: l from he, List.isEmpty_cons, if_neg (by simp)] at hr
      obtain ⟨t, ht', -, hend, hkeyed⟩ := key_accepts [.table, .queue, .loads, .handovers] (exec_resetKey c s) hh hu hr
        (changesOnly_mono (removeAll_changesOnly _ _) (by decide)) (by decide)
      have hgone := fun r => resets_gone (s := s.portHunting c) (c := c) (o := o) (r := r) ⟨ht.once, ht.queued, ht.apart, ht.full, ht.ordered, ht.arrived⟩
      have hall := removedAll_resets (s := s.portHunting c) (c := c) (o := o) ((once_iff s).1 ht.once)
      rw [show (s.portHunting c).resettable c o = x :: l from he] at hgone hall
      refine ⟨t, ht', fun r hr hw hm => ⟨hend.marks _ ?_, ?_⟩, removedAll_of_hasTable hend.hasTable hall, hkeyed⟩
      · obtain ⟨i, hi⟩ := (mem_records s r).1 hr
        have hin := (mem_resettable (o := o) ((once_iff s).1 ht.once)).2 ⟨hi, decide_eq_true ⟨hw, hm⟩⟩
        rw [he] at hin
        exact (Marks.refl _).fill.marked (removals_marks _ (s.portHunting c) _ hin)
      · rw [hend.records]
        exact hgone r hr (decide_eq_true ⟨hw, hm⟩)
  · obtain ⟨t, ht', h⟩ := key_refuses (exec_resetKey c s) hh hu (resetKey_idle (s := s.portHunting c) ha hn)
    exact ⟨t, ht', refused_keyed h⟩

end Sys2Proof.Machine
end

section
/-! Load, areas and the calendar day settled (chapters 1, 6 and 7): the second's end, AREA_WRITE, SET_DAY. -/

namespace Sys2Proof.Machine

/-! ### The parts of a console record -/

/-- A console record is the same in a part of the state. -/
def ConsoleRecord.sameIn (k j : ConsoleRecord) : Part → Prop
  | .links => (j.link, j.count) = (k.link, k.count)
  | .sessions => (j.session, j.lastEnd) = (k.session, k.lastEnd)
  | .flags => (j.hornFault, j.underQualified) = (k.hornFault, k.underQualified)
  | .results => (j.resultNumber, j.lastResult) = (k.resultNumber, k.lastResult)
  | .telegrams => (j.inFlight, j.pendingTelegram) = (k.inFlight, k.pendingTelegram)
  | .loads => (j.load, j.flooded, j.secondSum, j.secondTaken) = (k.load, k.flooded, k.secondSum, k.secondTaken)
  | .horns => j.pattern = k.pattern
  | _ => True

theorem changesOnly_setConsole {s : State} {c : Console} {f : ConsoleRecord → ConsoleRecord} {l : List Part}
    (h : ∀ p, p ∉ l → s.consoles[c].sameIn (f s.consoles[c]) p) : changesOnly s (s.setConsole c f) l := by
  intro p hp
  have hk := h p hp
  have hat {α : Type} {g : ConsoleRecord → α} (hg : g (f s.consoles[c]) = g s.consoles[c]) :
      sameAt g s (s.setConsole c f) := sameAt_setConsole c hg
  cases p
  case links => exact hat (g := fun k => (k.link, k.count)) hk
  case sessions => exact hat (g := fun k => (k.session, k.lastEnd)) hk
  case flags => exact hat (g := fun k => (k.hornFault, k.underQualified)) hk
  case results => exact hat (g := fun k => (k.resultNumber, k.lastResult)) hk
  case telegrams => exact hat (g := fun k => (k.inFlight, k.pendingTelegram)) hk
  case loads => exact hat (g := fun k => (k.load, k.flooded, k.secondSum, k.secondTaken)) hk
  case horns => exact hat (g := fun k => k.pattern) hk
  case changes => exact ⟨rfl, rfl⟩
  all_goals rfl

/-! ### The second's end (R101, R103, R108) -/

section Second

variable (s : State) (c : Console)

/-- The flood state that a second's end leaves. -/
def State.floodAfter (s : State) (c : Console) : Bool :=
  s.cfg.params.judgeFlood s.consoles[c].flooded (nextLoad s.consoles[c].load s.consoles[c].secondSum)

theorem judgeFlood_iff (p : Params) (flooded : Bool) (load : Nat) : p.judgeFlood flooded load = true ↔
    flooded = true ∧ p.floodOff < load ∨ flooded = false ∧ p.floodOn ≤ load := by
  unfold Params.judgeFlood
  cases flooded <;> simp

/-- The console's own record after the second's end. -/
def State.counted (s : State) (c : Console) (k : ConsoleRecord) : ConsoleRecord :=
  { k with load := nextLoad s.consoles[c].load s.consoles[c].secondSum, flooded := s.floodAfter c, secondSum := 0,
           secondTaken := s.partTime }

theorem secondsEnd_at (d : Console) :
    (s.secondsEnd c).consoles[d] = if d = c then s.counted c s.consoles[c] else s.consoles[d] := by
  have hset : (s.secondsEnd c).consoles = (s.setConsole c (s.counted c)).consoles := by
    unfold State.secondsEnd State.releaseHeld
    dsimp only
    rw [State.markAll_consoles]
    split
    · exact State.mapRecords_consoles ..
    · rfl
  rw [hset]
  exact upd_get ..

/-- What a second's end makes of a record. -/
def afterSecond (s : State) (c : Console) (r : Record) : Record :=
  if s.consoles[c].flooded = true ∧ s.floodAfter c = false ∧ r.floodHeld = true ∧ r.route = some c then
    { r with floodHeld := false, annunciatedAt := s.partTime, silencedAtRoute := false, silencedAtSupervisor := false,
             stage := 0 }
  else r

theorem secondsEnd_records (i : Slot) : (s.secondsEnd c).live[i] = s.live[i].map (afterSecond s c) := by
  have hf : s.cfg.params.judgeFlood s.consoles[c].flooded (nextLoad s.consoles[c].load s.consoles[c].secondSum) =
    s.floodAfter c := rfl
  unfold State.secondsEnd
  dsimp only
  rw [hf, State.markAll_live]
  by_cases hx : s.consoles[c].flooded = true ∧ s.floodAfter c = false
  · obtain ⟨h1, h2⟩ := hx
    rw [if_pos (by rw [h1, h2]; rfl)]
    refine (mapRecords_at ..).trans (congrArg (fun f => s.live[i].map f) (funext fun r => ?_))
    unfold afterSecond Record.release
    by_cases hr : r.floodHeld = true ∧ r.route = some c
    · rw [if_pos (by simp [hr]), if_pos ⟨h1, h2, hr⟩]
      rfl
    · rw [if_neg (by simpa using hr), if_neg fun h => hr h.2.2]
  · rw [if_neg (by simpa using hx)]
    have hid : afterSecond s c = id := funext fun r => if_neg fun h => hx ⟨h.1, h.2.1⟩
    rw [hid, Option.map_id]
    rfl

theorem secondsEnd_changesOnly : changesOnly s (s.secondsEnd c) [.table, .loads, .changes] := by
  have hset : changesOnly s (s.setConsole c (s.counted c)) [.table, .loads] :=
    changesOnly_setConsole fun p hp => by cases p <;> simp_all [ConsoleRecord.sameIn, State.counted]
  unfold State.secondsEnd
  dsimp only
  refine changesOnly_mono (changesOnly_trans (l := [.table, .loads]) ?_ (changesOnly_markAll _ _)) (by decide)
  split
  · exact changesOnly_mono (changesOnly_trans hset (mapRecords_changesOnly (s := s.setConsole c (s.counted c)) _))
      (by decide)
  · exact hset

end Second

/-- Settles O40. -/
theorem secondsEndMovesTheLoad : Obligations.SecondsEndMovesTheLoad := by
  intro c s load flooded hp hsec htaken hload hflood
  have hdue : (s.partTime % 10 == 0 && s.consoles[c].secondTaken < s.partTime) = true := by
    rw [Bool.and_eq_true, beq_iff_eq, decide_eq_true_iff]
    exact ⟨hsec, htaken⟩
  have hend := settle_concludes s (s.secondsEnd c) none
  have hfl : flooded = s.floodAfter c := by
    rw [Bool.eq_iff_iff, hflood, hload]
    exact (judgeFlood_iff ..).symm
  refine ⟨_, timed_taken (show exec (.secondsEnd c) s = _ from rfl) hp hdue, ?_⟩
  obtain ⟨t, ht⟩ : ∃ t, t = settle s (s.secondsEnd c) none := ⟨_, rfl⟩
  rw [← ht] at hend ⊢
  have hat (d : Console) : (t.consoles[d].load, t.consoles[d].flooded, t.consoles[d].secondSum,
      t.consoles[d].secondTaken) = if d = c then (load, flooded, 0, s.partTime) else
      (s.consoles[d].load, s.consoles[d].flooded, s.consoles[d].secondSum, s.consoles[d].secondTaken) := by
    rw [hend.loads d, secondsEnd_at, hfl, hload]
    split <;> rfl
  have hown := hat c
  rw [if_pos rfl] at hown
  simp only [Prod.mk.injEq] at hown
  obtain ⟨h1, h2, h3, h4⟩ := hown
  refine ⟨h1, h2, h3, h4, fun d hd => ?_, fun i => ?_, ht ▸ changesOnly_mono
    (changesOnly_settle_of (secondsEnd_changesOnly s c) none) (by decide)⟩
  · have h := hat d
    rw [if_neg hd] at h
    simp only [Prod.mk.injEq] at h ⊢
    obtain ⟨h1, h2, h3, h4⟩ := h
    exact ⟨h1, h2, h3, h4⟩
  · rw [hend.live, hfl]
    exact secondsEnd_records s c i

/-! ### The under-qualified flag (R124) -/

section Flags

variable {s t : State}

theorem deriveUnderQualified_iff (s : State) (c : Console) : s.deriveUnderQualified c = true ↔
    ∃ o, (s.consoles[c].session = .attached o ∨ ∃ g, s.consoles[c].session = .detached o g) ∧
      ∃ a : Area, s.cfg.areas[a].owner = some c ∧ s.effectiveLevel o a < 2 := by
  unfold State.deriveUnderQualified
  cases s.consoles[c].session <;> simp [Session.inCharge, State.ownedAreas]

/-- The flag as derived depends on the session, the stored contents and the day alone. -/
theorem deriveUnderQualified_congr {c : Console} (hs : t.consoles[c].session = s.consoles[c].session) (hc : t.cfg = s.cfg)
    (hd : t.day = s.day) : t.deriveUnderQualified c = s.deriveUnderQualified c := by
  unfold State.deriveUnderQualified State.ownedAreas State.effectiveLevel
  rw [hs, hc, hd]

theorem Concludes.deriveUnderQualified (h : Concludes s t) (c : Console) :
    t.deriveUnderQualified c = s.deriveUnderQualified c := deriveUnderQualified_congr (h.session c) h.cfg h.day

theorem requalify_at (s : State) (l : List Console) (d : Console) : (s.requalify l).consoles[d] =
    { s.consoles[d] with underQualified :=
        if d ∈ l then s.deriveUnderQualified d else s.consoles[d].underQualified } := by
  unfold State.requalify
  simp only [State.markAll_consoles, Fin.getElem_fin, Vector.getElem_ofFn, State.flagStale, Bool.and_eq_true,
    List.contains_iff_mem, bne_iff_ne]
  by_cases hl : d ∈ l
  · by_cases hf : s.consoles[d].underQualified = s.deriveUnderQualified d
    · simp [hl, ← hf]
    · simp only [Fin.getElem_fin] at hf
      simp [hl, hf]
  · simp [hl]

theorem requalify_changesOnly (s : State) (l : List Console) : changesOnly s (s.requalify l) [.flags, .changes] := by
  intro p hp
  have hk (d : Console) := requalify_at s l d
  cases p
  case links | sessions | results | telegrams | loads | horns => exact fun d => by rw [hk]
  case flags | changes => simp at hp
  all_goals rfl

theorem requalify_derived (s : State) (l : List Console) (c : Console) :
    (s.requalify l).deriveUnderQualified c = s.deriveUnderQualified c :=
  deriveUnderQualified_congr (by rw [requalify_at]) rfl rfl

/-- Each console whose flag a re-derivation changes is marked (R183). -/
theorem requalify_marked (s : State) (l : List Console) {c : Console}
    (h : (s.requalify l).consoles[c].underQualified ≠ s.consoles[c].underQualified) :
    marked (s.requalify l) [.console c] := by
  have hmem : c ∈ numbersWhere (s.flagStale l) := by
    rw [requalify_at] at h
    simp only [ne_eq, ite_eq_right_iff, Classical.not_imp] at h
    obtain ⟨hl, hf⟩ := h
    rw [mem_numbersWhere, State.flagStale, Bool.and_eq_true, List.contains_iff_mem, bne_iff_ne]
    exact ⟨hl, Ne.symm hf⟩
  refine marked_subset (markAll_marked _ ?_) fun r hr => ?_
  · exact List.ne_nil_of_mem (List.mem_map_of_mem hmem)
  · rw [List.mem_singleton.1 hr]
    exact List.mem_map_of_mem hmem

end Flags

/-! ### AREA_WRITE (R4, R5) -/

section AreaWrite

variable {seq x x1 x2 x3 : Byte} {w : Acting} {c : Console} {o : Option Operator} {a : Area} {k h r : Level} {s : State}

theorem exec_areaWrite (hw : decodeEngineer w = some (c, o)) (hx : decodeNumber 12 x = some a)
    (h1 : decodeLevel x1 = some k) (h2 : decodeLevel x2 = some h) (h3 : decodeLevel x3 = some r) :
    exec (.areaWrite seq w x x1 x2 x3) s = request 0x22 seq (some fun v => v.writeArea c o a k h r) s := by
  show execAreaWrite seq w x x1 x2 x3 s = _
  unfold execAreaWrite
  rw [hw, hx, h1, h2, h3]
  rfl

theorem writeArea_refused (hm : ¬s.mayEngineer c o fun op => s.effectiveLevel op a = 4) :
    s.writeArea c o a k h r = .refuse .noAuthority :=
  check_fail _ _ (mt (engineer_congr s c o fun op => supervisorIn_iff s op a).1 hm)

theorem writeArea_allowed (hm : s.mayEngineer c o fun op => s.effectiveLevel op a = 4) :
    s.writeArea c o a k h r = if (s.cfg.areas[a]).withLevels k h r = s.cfg.areas[a]
      then .unchanged (levelBytes a ((s.cfg.areas[a]).withLevels k h r))
      else .accept (((s.setArea a fun _ => (s.cfg.areas[a]).withLevels k h r).markAll [.area a]).storeWrite)
        (levelBytes a ((s.cfg.areas[a]).withLevels k h r)) :=
  check_pass _ _ ((engineer_congr s c o fun op => supervisorIn_iff s op a).2 hm)

theorem setArea_changesOnly (s : State) (a : Area) (f : AreaConfig → AreaConfig) :
    changesOnly s (s.setArea a f) [.settings] := by
  intro p hp
  cases p <;> simp_all [State.same, sameAt, State.setArea]

end AreaWrite

/-- Settles O41: one check, then one store write of the area with its levels clamped. -/
theorem areaWriteClampsTheLevels : Obligations.AreaWriteClampsTheLevels := by
  intro seq w x x1 x2 x3 c o a k h r new s hl hw hx h1 h2 h3 hnew
  have hexec := exec_areaWrite (seq := seq) (s := s) hw hx h1 h2 h3
  subst hnew
  refine ⟨fun hm => ?_, fun hm he => ?_, fun hm he => ?_⟩
  · exact request_refuses hexec hl (writeArea_refused (s := s.plantHunting) hm)
  · exact request_unchanged hexec hl ((writeArea_allowed (s := s.plantHunting) hm).trans (if_pos he))
  · have hu := changesOnly_trans (changesOnly_trans
      (setArea_changesOnly s.plantHunting a fun _ => (s.cfg.areas[a]).withLevels k h r)
      (changesOnly_markAll _ [.area a])) (changesOnly_storeWrite _)
    obtain ⟨t, ht, -, hend, hacc⟩ := request_accepts storeParts hexec hl
      ((writeArea_allowed (s := s.plantHunting) hm).trans (if_neg he)) (changesOnly_mono hu (by decide)) (by decide)
    exact ⟨t, ht, hend.cfg, hend.stored rfl rfl, hend.marks _ (markAll_marked _ (by simp)), hacc⟩

/-! ### SET_DAY (R120) -/

section Day

theorem expired_iff (r : OperatorRecord) (e day : Nat) (he : r.expiry = some e) :
    r.expired day = true ↔ day ≠ 0 ∧ e < day := by simp [OperatorRecord.expired, he]

theorem setDay_changesOnly (s : State) (n : Nat) : changesOnly s (s.setDay n) [.day, .flags, .changes] := by
  have hday : changesOnly s { s with day := n } [.day] := by
    intro p hp
    cases p <;> simp_all [State.same, sameAt]
  exact changesOnly_mono (changesOnly_trans (changesOnly_trans hday (changesOnly_markAll _ _)) (requalify_changesOnly _ _))
    (by decide)

/-- Each slot whose expired state changes is marked. -/
theorem setDay_marks (s : State) {n : Nat} (hn : n ≠ 0) {o : Operator} {r : OperatorRecord} {e : Nat}
    (hr : s.cfg.roster[o] = some r) (he : r.expiry = some e) (hc : ¬(s.day ≠ 0 ∧ e < s.day ↔ e < n)) :
    marked (s.setDay n) [.operator o] := by
  have hmem : o ∈ s.expiryChanges n := by
    rw [State.expiryChanges, mem_numbersWhere, hr, bne_iff_ne]
    refine fun h => hc ?_
    rw [← expired_iff r e s.day he, h, expired_iff r e n he]
    exact and_iff_right hn
  refine (Marks.requalify (.refl _) _).marked (marked_subset (markAll_marked _ ?_) fun x hx => ?_)
  · exact List.ne_nil_of_mem (List.mem_map_of_mem hmem)
  · rw [List.mem_singleton.1 hx]
    exact List.mem_map_of_mem hmem

theorem setDay_flags (s : State) (n : Nat) (c : Console) : (s.setDay n).consoles[c].underQualified =
    if (s.consoles[c].session.inCharge).isSome then (s.setDay n).deriveUnderQualified c
    else s.consoles[c].underQualified := by
  unfold State.setDay
  rw [requalify_derived, requalify_at]
  simp only [mem_numbersWhere]
  rfl

end Day

theorem dayBytes (n : Nat) : bytesOf16 n = [byteOf (n / 256), byteOf n] := half_bytes n

/-- Settles O43. -/
theorem setDayRederivesTheFlags : Obligations.SetDayRederivesTheFlags := by
  refine ⟨fun seq d s hl => ⟨fun h0 => ?_, fun h0 he => ?_, fun h0 he => ?_⟩, deriveUnderQualified_iff⟩
  · exact request_refuses (exec_setDay seq d s) hl (if_pos h0)
  · rw [← dayBytes]
    exact request_unchanged (exec_setDay seq d s) hl ((if_neg h0).trans (if_pos (show d.toNat = s.plantHunting.day from he)))
  · have hn : d.toNat ≠ 0 := fun h => h0 (BitVec.eq_of_toNat_eq h)
    rw [← dayBytes]
    obtain ⟨t, ht, -, hend, hacc⟩ := request_accepts [.day, .flags] (exec_setDay seq d s) hl
      ((if_neg h0).trans (if_neg (show ¬d.toNat = s.plantHunting.day from he))) (changesOnly_mono (setDay_changesOnly s.plantHunting d.toNat) (by decide))
      (by decide)
    refine ⟨t, ht, hend.day, fun o r e hr hx hc => hend.marks _ (setDay_marks s.plantHunting hn hr hx hc),
      fun c => ⟨?_, ?_⟩, fun c hc => hend.marks _ ?_, hacc⟩
    · rw [hend.hornFault, State.setDay, requalify_at]
      rfl
    · rw [hend.underQualified, hend.deriveUnderQualified]
      exact setDay_flags s.plantHunting d.toNat c
    · rw [hend.underQualified] at hc
      exact requalify_marked _ _ hc

end Sys2Proof.Machine
end

section
/-! ROSTER_WRITE settled (7.5): the checks in the order of R128, and the record as stored. -/

namespace Sys2Proof.Machine

section RosterWrite

variable {seq x : Byte} {w : Acting} {b : Badge} {g : Vector Byte 12} {e : Half} {c : Console}
  {o named : Option Operator} {grants : Vector Level 12} {expiry : Option Nat} {slot : Operator} {r : OperatorRecord}
  {s : State}

theorem exec_rosterWrite (hw : decodeEngineer w = some (c, o)) (hx : decodeOperatorOrNone x = some named) (hb : b ≠ 0)
    (hg : decodeGrants g = some grants) : exec (.rosterWrite seq w x b g e) s =
      request 0x28 seq (some fun v => v.writeRoster c o named b grants (decodeExpiry e)) s := by
  show execRosterWrite seq w x b g e s = _
  unfold execRosterWrite decodeBadge
  rw [hw, hx, hg, if_neg hb]
  rfl

/-! ### The checks (R127, R128) -/

theorem mem_rosterWriteAreas (old : Option OperatorRecord) (a : Area) :
    a ∈ rosterWriteAreas old grants expiry ↔ rosterNeeds old grants expiry a := by
  unfold rosterWriteAreas
  cases old with
  | none => simp [rosterNeeds]
  | some r =>
    dsimp only
    split
    · next h => simp [rosterNeeds, h]
    · next h => simp [rosterNeeds, h, or_assoc]

theorem levelInAll_levelIn {areas : List Area} {P : Area → Prop} (h : ∀ a, a ∈ areas ↔ P a) (op : Operator) (lvl : Level) :
    s.levelInAll op lvl areas = true ↔ s.levelIn op lvl P := by
  rw [levelInAll_iff]
  refine and_congr (forall_congr' fun a => imp_congr_left (h a)) (imp_congr_left ?_)
  rw [List.eq_nil_iff_forall_not_mem]
  exact forall_congr' fun a => not_congr (h a)

theorem rosterTarget_eq (named : Option Operator) : s.rosterTarget named = named.bind fun q => s.cfg.roster[q] := by
  unfold State.rosterTarget
  cases named <;> rfl

/-- The slot that a write uses: the one named, or the lowest empty one. -/
theorem rosterSlot_some_iff : s.rosterSlot named = some slot ↔
    named = some slot ∨ named = none ∧ s.cfg.roster[slot] = none ∧ ∀ q : Operator, q < slot → s.cfg.roster[q] ≠ none := by
  unfold State.rosterSlot
  cases named with
  | some q => simp
  | none => simp [State.lowestFreeOperator, lowestWhere_eq_some_iff, Option.isNone_iff_eq_none, Option.isSome_iff_ne_none]

theorem rosterSlot_none_iff : s.rosterSlot named = none ↔ named = none ∧ ∀ q : Operator, s.cfg.roster[q] ≠ none := by
  unfold State.rosterSlot
  cases named with
  | some q => simp
  | none => simp [State.lowestFreeOperator, lowestWhere_none, Option.isSome_iff_ne_none]

theorem badgeFree_iff : s.badgeFree b (some slot) = true ↔ ∀ q r, q ≠ slot → s.cfg.roster[q] = some r → r.badge ≠ b := by
  unfold State.badgeFree
  simp only [List.all_eq_true, List.mem_finRange, true_implies, Bool.or_eq_true, beq_iff_eq, Option.some.injEq]
  refine forall_congr' fun q => ?_
  cases s.cfg.roster[q] with
  | none => simp
  | some r =>
    simp only [Option.some.injEq, bne_iff_ne, or_iff_not_imp_left]
    exact ⟨fun h r hq e => e ▸ h hq, fun h hq => h r hq rfl⟩

theorem badgeKept_iff (old : Option OperatorRecord) : badgeKept old b = true ↔ ∀ r, old = some r → r.badge = b := by
  cases old <;> simp [badgeKept]

theorem rosterTarget_slot (h : s.rosterSlot named = some slot) : s.rosterTarget named = s.cfg.roster[slot] := by
  unfold State.rosterTarget
  rcases rosterSlot_some_iff.1 h with rfl | ⟨rfl, he, -⟩
  · rfl
  · exact he.symm

theorem rosterWrite_unauthorised
    (h : ¬s.mayEngineer c o fun op => s.levelIn op 4 (rosterNeeds (s.rosterTarget named) grants expiry)) :
    s.rosterWriteRefusal c o named b grants expiry = some .noAuthority :=
  firstRefusal_fail _ (mt (engineer_congr s c o fun op => levelInAll_levelIn (mem_rosterWriteAreas _) op 4).1 h)

section Allowed

variable (h : s.mayEngineer c o fun op => s.levelIn op 4 (rosterNeeds (s.rosterTarget named) grants expiry))

include h

theorem rosterWrite_authorised : s.rosterWriteRefusal c o named b grants expiry = firstRefusal
    [((s.rosterSlot named).isSome, .rosterFull), (badgeKept (s.rosterTarget named) b, .badValue),
      (s.badgeFree b (s.rosterSlot named), .badgeInUse)] :=
  firstRefusal_pass _ ((engineer_congr s c o fun op => levelInAll_levelIn (mem_rosterWriteAreas _) op 4).2 h)

theorem rosterWrite_full (hs : s.rosterSlot named = none) :
    s.rosterWriteRefusal c o named b grants expiry = some .rosterFull :=
  (rosterWrite_authorised h).trans (firstRefusal_fail _ (by rw [hs]; simp))

theorem rosterWrite_foreign (hs : s.rosterSlot named = some slot) (hr : s.rosterTarget named = some r) (hb : r.badge ≠ b) :
    s.rosterWriteRefusal c o named b grants expiry = some .badValue :=
  (rosterWrite_authorised h).trans ((firstRefusal_pass _ (by rw [hs]; rfl)).trans
    (firstRefusal_fail _ fun hk => hb ((badgeKept_iff _).1 hk r hr)))

theorem rosterWrite_badge (hs : s.rosterSlot named = some slot) (hk : ∀ r, s.rosterTarget named = some r → r.badge = b) :
    s.rosterWriteRefusal c o named b grants expiry = firstRefusal [(s.badgeFree b (some slot), .badgeInUse)] := by
  refine (rosterWrite_authorised h).trans ((firstRefusal_pass _ (by rw [hs]; rfl)).trans
    ((firstRefusal_pass _ ((badgeKept_iff _).2 hk)).trans ?_))
  rw [hs]

end Allowed

/-! ### The record as stored (R129) -/

theorem writeRoster_refused {z : Reason} (h : s.rosterWriteRefusal c o named b grants expiry = some z) :
    s.writeRoster c o named b grants expiry = .refuse z := by
  unfold State.writeRoster
  rw [h]
  rfl

theorem writeRoster_allowed (h : s.rosterWriteRefusal c o named b grants expiry = none)
    (hs : s.rosterSlot named = some slot) (hr : r = rosterRecord s.cfg.roster[slot] b grants expiry) :
    s.writeRoster c o named b grants expiry = if s.cfg.roster[slot] = some r then .unchanged (rosterBytes slot r)
      else .accept (s.storeOperator slot r) (rosterBytes slot r) := by
  unfold State.writeRoster
  rw [h, hs, rosterTarget_slot hs, hr]
  rfl

theorem setRoster_changesOnly (s : State) (slot : Operator) (r : Option OperatorRecord) :
    changesOnly s (s.setRoster slot r) [.settings] := by
  intro p hp
  cases p <;> simp_all [State.same, sameAt, State.setRoster]

theorem storeOperator_changesOnly (s : State) (slot : Operator) (r : OperatorRecord) :
    changesOnly s (s.storeOperator slot r) ([.flags, .changes] ++ storeParts) :=
  changesOnly_mono (changesOnly_trans (changesOnly_trans (changesOnly_trans (setRoster_changesOnly s slot _)
    (changesOnly_markAll _ _)) (requalify_changesOnly _ _)) (changesOnly_storeWrite _)) (by decide)

theorem storeOperator_marked (s : State) (slot : Operator) (r : OperatorRecord) :
    marked (s.storeOperator slot r) [.operator slot] :=
  (Marks.storeWrite (Marks.requalify (.refl _) _)).marked (markAll_marked _ (by simp))

theorem storeOperator_at (s : State) (slot : Operator) (r : OperatorRecord) (d : Console) :
    (s.storeOperator slot r).consoles[d] = { s.consoles[d] with
      underQualified := if s.consoles[d].session.inCharge = some slot then (s.storeOperator slot r).deriveUnderQualified d
        else s.consoles[d].underQualified } := by
  obtain ⟨u, hu⟩ : ∃ u, u = (s.setRoster slot (some r)).markAll [.operator slot] := ⟨_, rfl⟩
  have hcons : u.consoles = s.consoles := by rw [hu]; rfl
  have he : s.storeOperator slot r = (u.requalify (s.consolesOf slot)).storeWrite := by rw [hu]; rfl
  have hd : (u.requalify (s.consolesOf slot)).storeWrite.deriveUnderQualified d = u.deriveUnderQualified d := by
    rw [← requalify_derived u (s.consolesOf slot)]
    exact deriveUnderQualified_congr (by rw [State.storeWrite_consoles]) (State.storeWrite_cfg _) (State.storeWrite_day _)
  rw [he, hd, State.storeWrite_consoles, requalify_at, hcons]
  simp only [State.consolesOf, mem_numbersWhere, beq_iff_eq]

/-! ### The answer (R193) -/

theorem rosterBytes_layout (slot : Operator) (r : OperatorRecord) : (rosterBytes slot r).length = 18 ∧
    rosterLayout slot r 0 1 4 (rosterBytes slot r) := by
  have he : rosterBytes slot r = [byteOf slot.number] ++ Bytes.ofBadge r.badge ++ [] ++ grantBytes r ++ expiryBytes r ++
      [] := by simp [rosterBytes]
  rw [he]
  refine ⟨?_, rosterLayout_of rfl rfl rfl⟩
  have lb : (Bytes.ofBadge r.badge).length = 3 := by rw [badge_bytes]; rfl
  have lx : (expiryBytes r).length = 2 := by unfold expiryBytes; rw [half_bytes]; rfl
  simp only [List.length_append, lb, lx, grantBytes_length, List.length_cons, List.length_nil]

end RosterWrite

/-- Settles O44: the checks in their order, then one store write of the record. -/
theorem rosterWriteStoresTheRecord : Obligations.RosterWriteStoresTheRecord := by
  refine ⟨fun seq w x b g e c o named grants s hl hw hx hb hg => ?_, rosterBytes_layout,
    fun s c o named old b grants e may hold hmay => ?_⟩
  · have hexec := exec_rosterWrite (seq := seq) (e := e) (s := s) hw hx hb hg
    refine ⟨fun z hz => request_refuses hexec hl (writeRoster_refused (s := s.plantHunting) hz),
      fun hn slot r hslot hr => ?_⟩
    have hs : s.rosterSlot named = some slot := rosterSlot_some_iff.2 hslot
    have hv := writeRoster_allowed (s := s.plantHunting) hn hs hr
    refine ⟨fun he => request_unchanged hexec hl (hv.trans (if_pos he)), fun he => ?_⟩
    obtain ⟨t, ht, -, hend, hacc⟩ := request_accepts (storeParts ++ [.flags]) hexec hl (hv.trans (if_neg he))
      (changesOnly_mono (storeOperator_changesOnly s.plantHunting slot r) (by decide)) (by decide)
    refine ⟨t, ht, hend.cfg, hend.stored rfl rfl, hend.marks _ (storeOperator_marked _ slot r), fun d => ⟨?_, ?_⟩, hacc⟩
    · rw [hend.hornFault, storeOperator_at]
      rfl
    · rw [hend.underQualified, hend.deriveUnderQualified, storeOperator_at]
      rfl
  · rw [← rosterTarget_eq] at hold
    subst hold
    refine ⟨fun h => rosterWrite_unauthorised (mt hmay.2 h), fun h hn hf => ?_, fun h slot r hn hr hb => ?_,
      fun h slot hslot hkept => ?_⟩
    · exact rosterWrite_full (hmay.1 h) (rosterSlot_none_iff.2 ⟨hn, hf⟩)
    · have hs : s.rosterSlot named = some slot := rosterSlot_some_iff.2 (.inl hn)
      exact rosterWrite_foreign (hmay.1 h) hs ((rosterTarget_slot hs).trans hr) hb
    · have hs : s.rosterSlot named = some slot := rosterSlot_some_iff.2 hslot
      have hk : ∀ r, s.rosterTarget named = some r → r.badge = b := fun r hr => by
        rw [rosterTarget_eq, Option.bind_eq_some_iff] at hr
        obtain ⟨q, hq, hr⟩ := hr
        exact hkept q r hq hr
      rw [rosterWrite_badge (hmay.1 h) hs hk]
      refine ⟨fun ⟨q, r, hq, hr, hb⟩ => firstRefusal_fail _ fun hf => badgeFree_iff.1 hf q r hq hr hb, fun hf => ?_⟩
      exact firstRefusal_pass _ (badgeFree_iff.2 hf)

end Sys2Proof.Machine
end

section
/-! Sessions that end, settled (8.8, 8.9): routing re-evaluated and handovers aborted in the words of the claims, then
sign-out, forced sign-out and the end of grace. -/

namespace Sys2Proof.Machine

/-! ### Routing re-evaluated (R12, R13, R109) -/

/-- The records stand on their routes as in another state, with the time and the floods that a move looks at. -/
structure State.SameRecords (s v : State) : Prop where
  live : v.live = s.live
  routes : v.routes = s.routes
  time : v.partTime = s.partTime
  flooded : ∀ c : Console, v.consoles[c].flooded = s.consoles[c].flooded

section Rerouted

variable {s v u t : State}

theorem State.SameRecords.refl (s : State) : s.SameRecords s := ⟨rfl, rfl, rfl, fun _ => rfl⟩

theorem State.SameRecords.trans (h : s.SameRecords v) (k : v.SameRecords u) : s.SameRecords u :=
  ⟨k.live.trans h.live, k.routes.trans h.routes, k.time.trans h.time, fun c => (k.flooded c).trans (h.flooded c)⟩

theorem sameRecords_of_loads (hl : v.live = s.live) (hr : v.routes = s.routes) (ht : v.partTime = s.partTime)
    (hk : sameAt ConsoleRecord.loads s v) : s.SameRecords v :=
  ⟨hl, hr, ht, fun c => congrArg (fun k => k.2.1) (hk c)⟩

theorem movedTo_congr (h : s.SameRecords v) (r : Record) (x : Option Console) : movedTo v r x = movedTo s r x := by
  unfold movedTo
  simp only [h.flooded, h.time]

theorem reroute_routes (v : State) (a : Area) : v.reroute.routes[a] = v.routeOf a := by
  simp [State.reroute]

/-- What a re-evaluation makes of a record. -/
theorem reroute_record (h : s.SameRecords v) (i : Slot) : v.reroute.live[i] = s.live[i].map fun r =>
    if v.reroute.routes[r.area] = s.routes[r.area] then r else movedTo s r v.reroute.routes[r.area] := by
  have hlive : v.reroute.live[i] = v.live[i].map fun r =>
      if v.routeChanges r.area then v.moved r (v.routeOf r.area) else r := by simp [State.reroute]
  rw [hlive, h.live]
  refine congrArg (fun f => s.live[i].map f) (funext fun r => ?_)
  rw [reroute_routes, moved_eq, movedTo_congr h]
  unfold State.routeChanges
  rw [h.routes]
  by_cases he : v.routeOf r.area = s.routes[r.area]
  · rw [if_pos he, if_neg (by simpa using he)]
  · rw [if_neg he, if_pos (by simpa using he)]

/-- Routing has been re-evaluated on v in the event that leaves u, and a map of the records followed. -/
theorem Concludes.reroutedThen {f : Record → Record} (h : Concludes u t) (hs : s.SameRecords v)
    (hl : ∀ i : Slot, u.live[i] = v.reroute.live[i].map f) (hr : u.routes = v.reroute.routes)
    (ho : ∀ a, u.routeOf a = v.routeOf a) : reroutedThen s t f := by
  have hroutes : t.routes = v.reroute.routes := h.routes.trans hr
  have hdesks : u.sameDesks t := fun c => deskAt_congr
    (by simp only [ConsoleRecord.desk, h.link, h.count, h.session, h.lastEnd, h.hornFault]) (by rw [h.handovers])
  refine ⟨fun a => ?_, fun i => ?_⟩
  · rw [routeOf_same (by rw [h.cfg]) hdesks, ho, hroutes, reroute_routes]
  · rw [h.live, hl, reroute_record hs, Option.map_map, hroutes]
    rfl

theorem Concludes.rerouted (h : Concludes u t) (hs : s.SameRecords v) (hl : u.live = v.reroute.live)
    (hr : u.routes = v.reroute.routes) (ho : ∀ a, u.routeOf a = v.routeOf a) : rerouted s t :=
  h.reroutedThen hs (fun i => by rw [hl, Option.map_id]; rfl) hr ho

theorem routeOf_rerouteStep (v : State) (a : Area) : v.rerouteStep.routeOf a = v.routeOf a :=
  routeOf_same (by rw [State.rerouteStep_cfg]) (deskAt_rerouteStep v) a

theorem routeOf_markAll (v : State) (l : List Ref) (a : Area) : (v.markAll l).routeOf a = v.routeOf a := rfl

theorem rerouteStep_changesOnly (v : State) : changesOnly v v.rerouteStep [.routes, .table, .changes] := by
  have h : changesOnly v v.reroute [.routes, .table] := by
    intro p hp
    cases p <;> simp_all [State.same, sameAt, State.reroute]
  exact changesOnly_trans h (changesOnly_markAll _ _)

theorem Concludes.deskAt (h : Concludes u t) (c : Console) : t.deskAt c = u.deskAt c :=
  deskAt_congr (by simp only [ConsoleRecord.desk, h.link, h.count, h.session, h.lastEnd, h.hornFault])
    (by rw [h.handovers])

theorem rerouteStep_live (v : State) : v.rerouteStep.live = v.reroute.live := State.markAll_live v.reroute v.rerouteRefs

theorem rerouteStep_routes (v : State) : v.rerouteStep.routes = v.reroute.routes :=
  State.markAll_routes v.reroute v.rerouteRefs

/-- The same, where the event leaves the records and their routes as its re-evaluation does. -/
theorem Concludes.rerouted_step (h : Concludes u t) (hs : s.SameRecords v) (hu : v.rerouteStep.SameRecords u)
    (ho : ∀ a, u.routeOf a = v.routeOf a) : Sys2Proof.Machine.rerouted s t :=
  h.rerouted hs (hu.live.trans (rerouteStep_live v)) (hu.routes.trans (rerouteStep_routes v)) ho

theorem markAll_sameRecords (v : State) (l : List Ref) : v.SameRecords (v.markAll l) := ⟨rfl, rfl, rfl, fun _ => rfl⟩

theorem storeWrite_sameRecords (v : State) : v.SameRecords v.storeWrite := ⟨rfl, rfl, rfl, fun _ => rfl⟩

end Rerouted

/-! ### Handovers aborted (R176) -/

section Aborted

variable {s t u : State} {c : Console} {x : HandoverOutcome}

theorem abortHandover_idle (h : s.handovers[c].phase.active = false) : s.abortHandover c x = s := by
  unfold State.abortHandover
  split
  · rfl
  · next hn => exact absurd h (by cases hp : s.handovers[c].phase <;> simp_all [Phase.active])

theorem abortHandover_active (h : s.handovers[c].phase.active = true) : s.abortHandover c x =
    { s with handovers := upd s.handovers c fun _ => { phase := .none, lastOutcome := some x } }.markAll
      (s.handovers[c].phase.incoming.toList.map Ref.operator ++ [Ref.console c, Ref.handover c]) := by
  unfold State.abortHandover
  split
  · next hp =>
    rw [hp] at h
    cases h
  · rfl

theorem abortHandover_changesOnly (s : State) (c : Console) (x : HandoverOutcome) :
    changesOnly s (s.abortHandover c x) [.handovers, .changes] := by
  cases h : s.handovers[c].phase.active with
  | false =>
    rw [abortHandover_idle h]
    exact changesOnly_refl s _
  | true =>
    rw [abortHandover_active h]
    intro p hp
    cases p <;> simp_all [State.same, sameAt]

theorem abortHandover_handovers (s : State) (c : Console) (x : HandoverOutcome) :
    (s.handovers[c].phase.active = true → (s.abortHandover c x).handovers =
      upd s.handovers c fun _ => { phase := .none, lastOutcome := some x }) ∧
    (s.handovers[c].phase.active = false → (s.abortHandover c x).handovers = s.handovers) :=
  ⟨fun h => by rw [abortHandover_active h]; rfl, fun h => by rw [abortHandover_idle h]⟩

theorem abortHandover_marked (h : s.handovers[c].phase.active = true) : marked (s.abortHandover c x)
    (s.handovers[c].phase.incoming.toList.map Ref.operator ++ [.console c, .handover c]) := by
  rw [abortHandover_active h]
  exact markAll_marked _ (by simp)

/-- The abort of a handover, with what its event does after it. -/
theorem Concludes.abortedAt (h : Concludes u t) (hh : u.handovers = (s.abortHandover c x).handovers)
    (hm : Marks (s.abortHandover c x) u) (ha : s.handovers[c].phase.active = true) : abortedAt s t c x :=
  ⟨h.handovers.trans (hh.trans ((abortHandover_handovers s c x).1 ha)), h.marks _ (hm.marked (abortHandover_marked ha))⟩

end Aborted

/-! ### Sessions ended (R150) -/

section Ended

variable {s v t : State} {c : Console} {o : Operator} {cause : EndCause}

/-- A console record whose session has ended. -/
def ConsoleRecord.ended (k : ConsoleRecord) (cause : EndCause) : ConsoleRecord :=
  { k with session := .none, lastEnd := some cause, underQualified := false }

theorem endSession_at (h : v.consoles[c].session.inCharge = some o) (d : Console) :
    (v.endSession c cause).consoles[d] = if d = c then v.consoles[c].ended cause else v.consoles[d] := by
  have he : (v.endSession c cause).consoles = (v.setConsole c (·.ended cause)).consoles := by
    unfold State.endSession
    rw [h]
    dsimp only
    rw [State.markAll_consoles, State.rerouteStep_consoles]
    unfold State.dropSession
    rw [State.markAll_consoles]
    rfl
  rw [he]
  exact upd_get ..

theorem endSession_changesOnly (v : State) (c : Console) (cause : EndCause) :
    changesOnly v (v.endSession c cause) [.sessions, .flags, .routes, .table, .changes] := by
  unfold State.endSession
  split
  · exact changesOnly_refl v _
  · have hdrop : changesOnly v (v.dropSession c cause) [.sessions, .flags, .changes] :=
      changesOnly_mono (changesOnly_trans (changesOnly_setConsole (l := [.sessions, .flags])
        fun p hp => by cases p <;> simp_all [ConsoleRecord.sameIn]) (changesOnly_markAll _ _)) (by decide)
    exact changesOnly_mono (changesOnly_trans (changesOnly_trans hdrop (rerouteStep_changesOnly _))
      (changesOnly_markAll _ _)) (by decide)

/-- A session that is in charge has ended, in an event that leaves links, records and the other sessions before it. -/
theorem sessionEnded_of {i : Instr} (hx : exec i s = .next t) (hi : ∀ m, i ≠ .coldStart m) (hs : s.SameRecords v)
    (hv : v.consoles = s.consoles) (ho : s.consoles[c].session.inCharge = some o)
    (hend : Concludes (v.endSession c cause) t) : sessionEnded s t c o cause := by
  have hvo : v.consoles[c].session.inCharge = some o := by rw [hv]; exact ho
  have hat (d : Console) := endSession_at (cause := cause) hvo d
  have hown := hat c
  rw [if_pos rfl] at hown
  have hdrop : v.endSession c cause = (v.dropSession c cause).rerouteStep.markAll [.console c, .operator o] := by
    unfold State.endSession
    rw [hvo]
  have hsession : t.consoles[c].session = .none := by rw [hend.session, hown]; rfl
  refine ⟨hsession, by rw [hend.lastEnd, hown]; rfl, by rw [hend.underQualified, hown]; rfl,
    by rw [hend.hornFault, hown, hv]; rfl, fun d hd => ?_, ?_, hend.marks _ ?_, fun hoff => ?_⟩
  · dsimp only
    rw [hend.session, hend.lastEnd, hend.hornFault, hend.underQualified, hat, if_neg hd, hv]
  · have hsd : s.SameRecords (v.dropSession c cause) :=
      hs.trans (sameRecords_of_loads rfl rfl rfl (dropSession_loads v c cause))
    have hroute (a : Area) : (v.endSession c cause).routeOf a = (v.dropSession c cause).routeOf a := by
      rw [hdrop, routeOf_markAll, routeOf_rerouteStep]
    refine hend.rerouted_step hsd ?_ hroute
    rw [hdrop]
    exact markAll_sameRecords _ _
  · rw [hdrop]
    exact markAll_marked _ (by simp)
  · refine everyPanelChangeIsSent.1 i s t hx hi c hoff (.inr (.inr ⟨fun hn => ?_, hsession⟩))
    rw [hn] at ho
    cases ho

end Ended

/-! ### Sign-out, forced sign-out and the end of grace (R151, R153, R154) -/

section SignOut

variable {seq x : Byte} {w : Acting} {c d : Console} {o q : Operator} {s : State}

theorem ownedAreas_nil_iff : s.ownedAreas c = [] ↔ ∀ a : Area, s.cfg.areas[a].owner ≠ some c := by
  rw [List.eq_nil_iff_forall_not_mem]
  refine forall_congr' fun a => ?_
  simp [State.ownedAreas]

theorem attached_inCharge (h : s.attachedAt c = some o) : s.consoles[c].session.inCharge = some o := by
  rw [(attachedAt_eq_some_iff s c o).1 h]
  rfl

theorem signOutKey_unstaffed (hr : s.handovers[c].phase.inReview = false) (h : s.attachedAt c = none) :
    s.signOutKey c = Effect.refuse .notStaffed := by
  unfold State.signOutKey
  rw [hr, h]
  rfl

theorem signOutKey_owner (hr : s.handovers[c].phase.inReview = false) (h : (s.attachedAt c).isSome = true)
    (ha : ∃ a : Area, s.cfg.areas[a].owner = some c) : s.signOutKey c = Effect.refuse .handoverRequired := by
  obtain ⟨o, ho⟩ := Option.isSome_iff_exists.1 h
  have hne : (s.ownedAreas c).isEmpty = false := by
    rw [List.isEmpty_eq_false_iff]
    intro hn
    obtain ⟨a, ha⟩ := ha
    exact ownedAreas_nil_iff.1 hn a ha
  unfold State.signOutKey
  rw [hr, ho, hne]
  rfl

theorem signOutKey_ends (hr : s.handovers[c].phase.inReview = false) (h : s.attachedAt c = some o)
    (ha : ∀ a : Area, s.cfg.areas[a].owner ≠ some c) : s.signOutKey c = (some (s.endSession c .signedOut), none) := by
  unfold State.signOutKey
  rw [hr, h, ownedAreas_nil_iff.2 ha]
  rfl

theorem exec_signOut (hw : decodePerson w = some (c, o)) :
    exec (.signOut seq w) s = request 0x34 seq (some fun v => v.signOut c o) s := by
  show execSignOut seq w s = _
  unfold execSignOut onPerson
  rw [hw]
  rfl

theorem pairRefusal_unstaffed (h : s.attachedAt c = none) : s.pairRefusal c o = some .notStaffed := by
  unfold State.pairRefusal
  rw [h]

theorem pairRefusal_other (h : s.attachedAt c = some q) (hq : q ≠ o) : s.pairRefusal c o = some .notInCharge := by
  unfold State.pairRefusal
  rw [h]
  exact if_neg hq

theorem signOut_checked (hi : s.handovers[c].phase.incoming ≠ some o) : s.signOut c o = .check (s.pairRefusal c o)
    (.check (firstRefusal [((s.ownedAreas c).isEmpty, .handoverRequired)]) (.accept (s.endSession c .signedOut) [])) :=
  if_neg hi

theorem signOut_paired (hi : s.handovers[c].phase.incoming ≠ some o) (h : s.attachedAt c = some o) : s.signOut c o =
    .check (firstRefusal [((s.ownedAreas c).isEmpty, .handoverRequired)]) (.accept (s.endSession c .signedOut) []) := by
  rw [signOut_checked hi, pairRefusal_of_attached h]
  rfl

theorem exec_forceSignOut (hw : decodePerson w = some (c, o)) (hx : decodeNumber 8 x = some d) :
    exec (.forceSignOut seq w x) s = request 0x35 seq (some fun v => v.forceSignOut c o d) s := by
  show execForceSignOut seq w x s = _
  unfold execForceSignOut
  rw [hw, hx]
  rfl

theorem forceSignOut_refused (h : s.attachedAt c ≠ some o ∨ ¬s.levelIn o 4 fun a => s.cfg.areas[a].owner = some d) :
    s.forceSignOut c o d = .refuse .noAuthority := by
  unfold State.forceSignOut
  by_cases ha : s.attachedAt c = some o
  · rw [check_pass _ _ (by rw [ha]; exact beq_self_eq_true _)]
    refine check_fail _ _ fun hl => ?_
    rcases h with h | h
    · exact h ha
    · exact h ((levelInAll_levelIn (mem_ownedAreas s d) o 4).1 hl)
  · exact check_fail _ _ (by simpa using ha)

theorem forceSignOut_allowed (ha : s.attachedAt c = some o) (h : s.levelIn o 4 fun a => s.cfg.areas[a].owner = some d) :
    s.forceSignOut c o d = .check (firstRefusal [(s.consoles[d].session.inCharge.isSome, .alreadyDone)])
      (.accept ((s.abortHandover d .forced).endSession d .forced) []) := by
  unfold State.forceSignOut
  rw [check_pass _ _ (by rw [ha]; exact beq_self_eq_true _),
    check_pass _ _ ((levelInAll_levelIn (mem_ownedAreas s d) o 4).2 h)]

theorem exec_graceEnd (c : Console) (s : State) : exec (.graceEnd c) s =
    timed s (reached s.partTime s.consoles[c].session.graceEnd) (s.endSession c .graceExpired) := rfl

end SignOut

/-- Settles O50. -/
theorem sessionsEnd : Obligations.SessionsEnd := by
  refine ⟨⟨fun c o s hh hu ha hr hn => ?_, fun seq w c o s hl hw hi ha hn => ?_, fun c o g s hp hs hg => ?_,
      fun seq w x c d o q s hl hw hx ha hm hq => ?_⟩,
    fun c s hh hu hr => ⟨fun ha => ?_, fun ha hn => ?_⟩,
    fun seq w c o s hl hw hi => ⟨fun ha => ?_, fun q ha hq => ?_, fun ha hn => ?_⟩,
    fun seq w x c d o s hl hw hx => ⟨fun h => ?_, fun ha hm hn => ?_⟩⟩
  · obtain ⟨t, ht, -, hend, hkeyed⟩ := key_accepts [.sessions, .flags, .routes, .table] (exec_signOutKey c s) hh hu
      (signOutKey_ends (s := s.portHunting c) hr ha hn) (changesOnly_mono (endSession_changesOnly _ c _) (by decide))
      (by decide)
    exact ⟨t, ht, sessionEnded_of (v := s.portHunting c) ht (by simp) ⟨rfl, rfl, rfl, fun _ => rfl⟩ rfl (attached_inCharge ha)
      hend, hkeyed⟩
  · obtain ⟨t, ht, -, hend, hacc⟩ := request_accepts [.sessions, .flags, .routes, .table] (exec_signOut (seq := seq) hw) hl
      ((signOut_paired (s := s.plantHunting) hi ha).trans
        (check_pass _ _ (List.isEmpty_iff.2 (ownedAreas_nil_iff (s := s).2 hn))))
      (changesOnly_mono (endSession_changesOnly _ c _) (by decide)) (by decide)
    exact ⟨t, ht, sessionEnded_of (v := s.plantHunting) ht (by simp) ⟨rfl, rfl, rfl, fun _ => rfl⟩ rfl (attached_inCharge ha)
      hend, hacc⟩
  · have ht := timed_taken (exec_graceEnd c s) hp ((grace_reached _ _).2 ⟨o, g, hs, hg⟩)
    exact ⟨_, ht, sessionEnded_of ht (by simp) (.refl s) rfl (by rw [hs]; rfl) (settle_concludes s _ none),
      changesOnly_mono (changesOnly_settle_of (endSession_changesOnly s c _) none) (by decide)⟩
  · have hin : (s.plantHunting.consoles[d].session.inCharge).isSome = true := by
      show (s.consoles[d].session.inCharge).isSome = true
      rw [hq]
      rfl
    have hu := changesOnly_trans (abortHandover_changesOnly s.plantHunting d .forced) (endSession_changesOnly _ d .forced)
    obtain ⟨t, ht, -, hend, hacc⟩ := request_accepts [.sessions, .flags, .routes, .table, .handovers]
      (exec_forceSignOut (seq := seq) hw hx) hl
      ((forceSignOut_allowed (s := s.plantHunting) ha hm).trans (check_pass _ _ hin)) (changesOnly_mono hu (by decide))
      (by decide)
    have hsame : s.SameRecords (s.plantHunting.abortHandover d .forced) :=
      ⟨State.abortHandover_live .., State.abortHandover_routes .., State.abortHandover_partTime ..,
        fun e => by rw [State.abortHandover_consoles]; rfl⟩
    have hhand : ((s.plantHunting.abortHandover d .forced).endSession d .forced).handovers =
        (s.plantHunting.abortHandover d .forced).handovers := State.endSession_handovers ..
    refine ⟨t, ht, sessionEnded_of ht (by simp) hsame (State.abortHandover_consoles ..) hq hend, fun h => ?_, fun h => ?_,
      hacc⟩
    · exact hend.abortedAt (s := s.plantHunting) hhand (Marks.endSession (.refl _) d .forced) h
    · exact hend.handovers.trans (hhand.trans ((abortHandover_handovers s.plantHunting d .forced).2 h))
  · obtain ⟨t, ht, h⟩ := key_refuses (exec_signOutKey c s) hh hu (signOutKey_unstaffed (s := s.portHunting c) hr ha)
    exact ⟨t, ht, refused_keyed h⟩
  · obtain ⟨t, ht, h⟩ := key_refuses (exec_signOutKey c s) hh hu (signOutKey_owner (s := s.portHunting c) hr ha hn)
    exact ⟨t, ht, refused_keyed h⟩
  · refine request_refuses (exec_signOut hw) hl ((signOut_checked (s := s.plantHunting) hi).trans ?_)
    rw [pairRefusal_unstaffed (s := s.plantHunting) ha]
    rfl
  · refine request_refuses (exec_signOut hw) hl ((signOut_checked (s := s.plantHunting) hi).trans ?_)
    rw [pairRefusal_other (s := s.plantHunting) ha hq]
    rfl
  · refine request_refuses (exec_signOut hw) hl ((signOut_paired (s := s.plantHunting) hi ha).trans (check_fail _ _ fun h => ?_))
    obtain ⟨a, ha⟩ := hn
    exact ownedAreas_nil_iff (s := s).1 (List.isEmpty_iff.1 h) a ha
  · exact request_refuses (exec_forceSignOut hw hx) hl (forceSignOut_refused (s := s.plantHunting) h)
  · refine request_refuses (exec_forceSignOut hw hx) hl ((forceSignOut_allowed (s := s.plantHunting) ha hm).trans
      (check_fail _ _ ?_))
    show ¬(s.consoles[d].session.inCharge).isSome = true
    rw [hn]
    exact Bool.false_ne_true

end Sys2Proof.Machine
end

section
/-! The handover settled (9.2 to 9.7): offers and what they list, aborts, the review of the items, and accepts. -/

namespace Sys2Proof.Machine

/-! ### The list of an offer (R167) -/

theorem itemBefore_iff (x y : Record) : x.itemBefore y = true ↔ priorityCode x.priority < priorityCode y.priority ∨
    priorityCode x.priority = priorityCode y.priority ∧
      (x.firstRaised < y.firstRaised ∨ x.firstRaised = y.firstRaised ∧ x.point < y.point) := by
  simp [Record.itemBefore, rank_eq]

theorem listedBefore_of_itemBefore {x y : Record} (h : x.itemBefore y = true) : listedBefore x y := by
  rw [itemBefore_iff] at h
  rcases h with h | ⟨h, h' | ⟨h', hp⟩⟩
  · exact .inl h
  · exact .inr ⟨h, .inl h'⟩
  · exact .inr ⟨h, .inr ⟨h', Fin.le_of_lt hp⟩⟩

theorem listedBefore_of_not {x y : Record} (h : ¬x.itemBefore y = true) : listedBefore y x := by
  rw [itemBefore_iff, Fin.lt_def] at h
  unfold listedBefore
  rw [Fin.le_def]
  omega

theorem listedBefore_trans {x y z : Record} (h : listedBefore x y) (h' : listedBefore y z) : listedBefore x z := by
  unfold listedBefore at *
  rw [Fin.le_def] at *
  omega

theorem mem_insertRecord {r q : Record} {l : List Record} (h : q ∈ insertRecord r l) : q = r ∨ q ∈ l := by
  induction l with
  | nil => simpa [insertRecord] using h
  | cons x xs ih =>
    unfold insertRecord at h
    split at h
    · simpa using h
    · rcases List.mem_cons.1 h with rfl | h
      · exact .inr (List.mem_cons_self ..)
      · exact (ih h).imp_right (List.mem_cons_of_mem x)

theorem insertRecord_sorted {l : List Record} (h : l.Pairwise listedBefore) (r : Record) :
    (insertRecord r l).Pairwise listedBefore := by
  induction l with
  | nil => exact List.pairwise_singleton ..
  | cons x xs ih =>
    obtain ⟨hx, hxs⟩ := List.pairwise_cons.1 h
    unfold insertRecord
    split
    · next hb =>
      have hrx := listedBefore_of_itemBefore hb
      exact List.pairwise_cons.2 ⟨fun q hq => (List.mem_cons.1 hq).elim (fun e => e ▸ hrx)
        fun hq => listedBefore_trans hrx (hx q hq), h⟩
    · next hb =>
      exact List.pairwise_cons.2 ⟨fun q hq => (mem_insertRecord hq).elim (fun e => e ▸ listedBefore_of_not hb) (hx q),
        ih hxs⟩

theorem sortRecords_sorted (l : List Record) : (sortRecords l).Pairwise listedBefore := by
  induction l with
  | nil => exact List.Pairwise.nil
  | cons r rs ih => exact insertRecord_sorted ih r

theorem numbersWhere_ordered {n : Nat} (p : Fin n → Bool) : (numbersWhere p).Pairwise (· < ·) :=
  (List.pairwise_lt_finRange n).filter _

theorem mem_offeredNotes {s : State} {c : Console} (n : Note) : n ∈ s.offeredNotes c ↔
    ∃ r, s.cfg.notes[n] = some r ∧ s.cfg.areas[r.area].owner = some c := by
  rw [State.offeredNotes, mem_numbersWhere]
  cases s.cfg.notes[n] <;> simp

/-! ### A change of one handover -/

section Phases

variable {s t u : State} {c : Console} {p : Phase}

theorem setPhase_changesOnly (s : State) (c : Console) (p : Phase) : changesOnly s (s.setPhase c p) [.handovers] := by
  intro q hq
  cases q <;> simp_all [State.same, sameAt, State.setPhase]

theorem changesOnly_handovers (s : State) (h : Vector Handover 8) :
    changesOnly s { s with handovers := h } [.handovers] := by
  intro q hq
  cases q <;> simp_all [State.same, sameAt]

theorem phase_active_iff (p : Phase) : p.active = true ↔ p ≠ .none := by cases p <;> simp [Phase.active]

theorem phase_inReview_iff (p : Phase) : p.inReview = true ↔ ∃ o i d l, p = .review o i d l := by
  cases p <;> simp [Phase.inReview]

theorem active_of_inReview (h : p.inReview = true) : p.active = true := by cases p <;> simp_all [Phase.inReview, Phase.active]

theorem inReview_of_incoming {o : Operator} (h : p.incoming = some o) : p.inReview = true := by
  cases p <;> simp_all [Phase.incoming, Phase.inReview]

end Phases

/-! ### Offers (R165, R166) -/

section Offers

variable {seq : Byte} {w : Acting} {s t : State} {c : Console} {o q : Operator}

theorem offer_changesOnly (s : State) (c : Console) (o : Operator) :
    changesOnly s (s.offer c o) [.handovers, .changes] :=
  changesOnly_trans (setPhase_changesOnly s c _) (changesOnly_markAll _ _)

theorem offeredAt_offer (h : Concludes (s.offer c o) t) : offeredAt s t c o := by
  have hrecords : (s.records.filter fun r => s.cfg.areas[r.area].owner == some c) =
      s.records.filter fun r => s.cfg.areas[r.area].owner = some c :=
    List.filter_congr fun r _ => by rw [Bool.eq_iff_iff, beq_iff_eq, decide_eq_true_iff]
  refine ⟨⟨s.offeredRecords c, s.offeredNotes c, hrecords ▸ mem_sortRecords _, sortRecords_sorted _, mem_offeredNotes,
    numbersWhere_ordered _, s.offerItems c, rfl, h.handovers⟩, h.marks _ (markAll_marked _ (by simp))⟩

theorem offerRefusal_flooded (h : s.consoles[c].flooded = true) : s.offerRefusal c = some .flooded :=
  firstRefusal_fail _ (by rw [h]; exact Bool.false_ne_true)

theorem offerRefusal_owned (h : s.consoles[c].flooded = false) : s.offerRefusal c =
    firstRefusal [(!(s.ownedAreas c).isEmpty, .nothingToDo)] := firstRefusal_pass _ (by rw [h]; rfl)

theorem offerRefusal_arealess (h : s.consoles[c].flooded = false) (hn : ∀ a : Area, s.cfg.areas[a].owner ≠ some c) :
    s.offerRefusal c = some .nothingToDo :=
  (offerRefusal_owned h).trans (firstRefusal_fail _ (by rw [ownedAreas_nil_iff.2 hn]; exact Bool.false_ne_true))

theorem offerRefusal_none (h : s.consoles[c].flooded = false) (ha : ∃ a : Area, s.cfg.areas[a].owner = some c) :
    s.offerRefusal c = none := by
  refine (offerRefusal_owned h).trans (firstRefusal_pass _ ?_)
  rw [Bool.not_eq_true', List.isEmpty_eq_false_iff]
  obtain ⟨a, ha⟩ := ha
  exact fun hn => ownedAreas_nil_iff.1 hn a ha

theorem handoverKey_unstaffed (h : s.attachedAt c = none) : s.handoverKey c = Effect.refuse .notStaffed := by
  unfold State.handoverKey
  rw [h]

theorem handoverKey_withdraws (h : s.attachedAt c = some o) (ha : s.handovers[c].phase.active = true) :
    s.handoverKey c = (some (s.abortHandover c .withdrawn), none) := by
  unfold State.handoverKey
  rw [h]
  exact if_pos ha

theorem handoverKey_idle (h : s.attachedAt c = some o) (ha : s.handovers[c].phase.active = false) {r : Result}
    (hr : s.offerRefusal c = r) : s.handoverKey c = r.elim (Effect.accept (s.offer c o)) Effect.refuse := by
  unfold State.handoverKey
  rw [h, hr]
  dsimp only
  rw [if_neg (by rw [ha]; exact Bool.false_ne_true)]
  cases r <;> rfl

theorem exec_handoverOffer (hw : decodePerson w = some (c, o)) :
    exec (.handoverOffer seq w) s = request 0x38 seq (some fun v => v.offerNamed c o) s := by
  show execHandoverOffer seq w s = _
  unfold execHandoverOffer onPerson
  rw [hw]
  rfl

theorem offerNamed_unpaired {z : Reason} (h : s.pairRefusal c o = some z) : s.offerNamed c o = .refuse z := by
  unfold State.offerNamed
  rw [h]
  rfl

theorem offerNamed_paired (h : s.attachedAt c = some o) : s.offerNamed c o =
    .check (firstRefusal [(!s.handovers[c].phase.active, .handoverBusy)])
      (.check (s.offerRefusal c) (.accept (s.offer c o) [])) := by
  unfold State.offerNamed
  rw [pairRefusal_of_attached h]
  rfl

theorem offerNamed_idle (h : s.attachedAt c = some o) (ha : s.handovers[c].phase.active = false) :
    s.offerNamed c o = .check (s.offerRefusal c) (.accept (s.offer c o) []) :=
  (offerNamed_paired h).trans (check_pass _ _ (by rw [ha]; rfl))

end Offers

/-- Settles O53. -/
theorem offersOpenAHandover : Obligations.OffersOpenAHandover := by
  refine ⟨fun c o s hh hu => ⟨fun ha => ?_, fun ha hp => ⟨fun hf => ?_, fun hf hn => ?_, fun hf hn => ?_⟩⟩,
    fun seq w c o s hl hw => ⟨fun ha => ?_, fun q ha hq => ?_,
      fun ha => ⟨fun hp => ?_, fun hp hf => ?_, fun hp hf hn => ?_, fun hp hf hn => ?_⟩⟩⟩
  · obtain ⟨t, ht, h⟩ := key_refuses (exec_handoverKey c s) hh hu (handoverKey_unstaffed (s := s.portHunting c) ha)
    exact ⟨t, ht, refused_keyed h⟩
  · have hk := handoverKey_idle (s := s.portHunting c) ha hp (offerRefusal_flooded (s := s.portHunting c) hf)
    obtain ⟨t, ht, h⟩ := key_refuses (exec_handoverKey c s) hh hu hk
    exact ⟨t, ht, refused_keyed h⟩
  · have hk := handoverKey_idle (s := s.portHunting c) ha hp (offerRefusal_arealess (s := s.portHunting c) hf hn)
    obtain ⟨t, ht, h⟩ := key_refuses (exec_handoverKey c s) hh hu hk
    exact ⟨t, ht, refused_keyed h⟩
  · have hk := handoverKey_idle (s := s.portHunting c) ha hp (offerRefusal_none (s := s.portHunting c) hf hn)
    obtain ⟨t, ht, -, hend, hkeyed⟩ := key_accepts [.handovers] (exec_handoverKey c s) hh hu hk
      (changesOnly_mono (offer_changesOnly _ c o) (by decide)) (by decide)
    exact ⟨t, ht, offeredAt_offer (s := s.portHunting c) hend, hkeyed⟩
  · exact request_refuses (exec_handoverOffer hw) hl
      (offerNamed_unpaired (pairRefusal_unstaffed (s := s.plantHunting) ha))
  · exact request_refuses (exec_handoverOffer hw) hl
      (offerNamed_unpaired (pairRefusal_other (s := s.plantHunting) ha hq))
  · refine request_refuses (exec_handoverOffer hw) hl ((offerNamed_paired (s := s.plantHunting) ha).trans
      (check_fail _ _ ?_))
    show ¬(!s.handovers[c].phase.active) = true
    rw [hp]
    exact Bool.false_ne_true
  · refine request_refuses (exec_handoverOffer hw) hl ((offerNamed_idle (s := s.plantHunting) ha hp).trans ?_)
    rw [offerRefusal_flooded (s := s.plantHunting) hf]
    rfl
  · refine request_refuses (exec_handoverOffer hw) hl ((offerNamed_idle (s := s.plantHunting) ha hp).trans ?_)
    rw [offerRefusal_arealess (s := s.plantHunting) hf hn]
    rfl
  · have hv := offerNamed_idle (s := s.plantHunting) ha hp
    rw [offerRefusal_none (s := s.plantHunting) hf hn] at hv
    obtain ⟨t, ht, -, hend, hacc⟩ := request_accepts [.handovers] (exec_handoverOffer (seq := seq) hw) hl hv
      (changesOnly_mono (offer_changesOnly _ c o) (by decide)) (by decide)
    exact ⟨t, ht, offeredAt_offer (s := s.plantHunting) hend, hacc⟩

/-! ### Aborts (R169, R176 to R178) -/

section Aborts

variable {seq : Byte} {w : Acting} {s t : State} {c : Console} {o q : Operator} {x : HandoverOutcome}

theorem abortedAt_abort (ha : s.handovers[c].phase.active = true) (h : Concludes (s.abortHandover c x) t) :
    abortedAt s t c x := h.abortedAt rfl (.refl _) ha

theorem exec_handoverWithdraw (hw : decodePerson w = some (c, o)) :
    exec (.handoverWithdraw seq w) s = request 0x3B seq (some fun v => v.withdraw c o) s := by
  show execHandoverWithdraw seq w s = _
  unfold execHandoverWithdraw onPerson
  rw [hw]
  rfl

theorem withdraw_unpaired {z : Reason} (h : s.pairRefusal c o = some z) : s.withdraw c o = .refuse z := by
  unfold State.withdraw
  rw [h]
  rfl

theorem withdraw_paired (h : s.attachedAt c = some o) : s.withdraw c o =
    .check (firstRefusal [(s.handovers[c].phase.active, .wrongState)]) (.accept (s.abortHandover c .withdrawn) []) := by
  unfold State.withdraw
  rw [pairRefusal_of_attached h]
  rfl

theorem signOutKey_reviewed (h : s.handovers[c].phase.inReview = true) :
    s.signOutKey c = (some (s.abortHandover c .incomingLeft), none) := if_pos h

theorem signOut_incoming (h : s.handovers[c].phase.incoming = some o) :
    s.signOut c o = .accept (s.abortHandover c .incomingLeft) [] := if_pos h

theorem exec_offerDeadline {d : Nat} {l : List Item} (h : s.handovers[c].phase = .offered o d l) :
    exec (.offerDeadline c) s = timed s (d ≤ s.partTime) (s.abortHandover c .lapsedOffer) := by
  show execOfferDeadline c s = _
  unfold execOfferDeadline
  rw [h]

theorem exec_reviewDeadline {i : Operator} {d : Nat} {l : List Item} (h : s.handovers[c].phase = .review o i d l) :
    exec (.reviewDeadline c) s = timed s (d ≤ s.partTime) (s.abortHandover c .lapsedReview) := by
  show execReviewDeadline c s = _
  unfold execReviewDeadline
  rw [h]

end Aborts

/-- Settles O55. -/
theorem handoversAreAborted : Obligations.HandoversAreAborted := by
  refine ⟨fun p => ⟨phase_active_iff p, phase_inReview_iff p⟩, fun c o s hh hu ha hp => ?_,
    fun seq w c o s hl hw => ⟨fun ha => ?_, fun q ha hq => ?_, fun ha hp => ?_, fun ha hp => ?_⟩,
    fun c s hh hu hp => ?_, fun seq w c o s hl hw hp => ?_, fun c o d l s hp hd hx => ?_, fun c o i d l s hp hd hx => ?_⟩
  · obtain ⟨t, ht, -, hend, hkeyed⟩ := key_accepts [.handovers] (exec_handoverKey c s) hh hu
      (handoverKey_withdraws (s := s.portHunting c) ha hp)
      (changesOnly_mono (abortHandover_changesOnly _ c _) (by decide)) (by decide)
    exact ⟨t, ht, abortedAt_abort (s := s.portHunting c) hp hend, hkeyed⟩
  · exact request_refuses (exec_handoverWithdraw hw) hl
      (withdraw_unpaired (pairRefusal_unstaffed (s := s.plantHunting) ha))
  · exact request_refuses (exec_handoverWithdraw hw) hl
      (withdraw_unpaired (pairRefusal_other (s := s.plantHunting) ha hq))
  · refine request_refuses (exec_handoverWithdraw hw) hl ((withdraw_paired (s := s.plantHunting) ha).trans
      (check_fail _ _ ?_))
    show ¬s.handovers[c].phase.active = true
    rw [hp]
    exact Bool.false_ne_true
  · obtain ⟨t, ht, -, hend, hacc⟩ := request_accepts [.handovers] (exec_handoverWithdraw (seq := seq) hw) hl
      ((withdraw_paired (s := s.plantHunting) ha).trans (check_pass _ _ hp))
      (changesOnly_mono (abortHandover_changesOnly _ c _) (by decide)) (by decide)
    exact ⟨t, ht, abortedAt_abort (s := s.plantHunting) hp hend, hacc⟩
  · obtain ⟨t, ht, -, hend, hkeyed⟩ := key_accepts [.handovers] (exec_signOutKey c s) hh hu
      (signOutKey_reviewed (s := s.portHunting c) hp)
      (changesOnly_mono (abortHandover_changesOnly _ c _) (by decide)) (by decide)
    exact ⟨t, ht, abortedAt_abort (s := s.portHunting c) (active_of_inReview hp) hend, hkeyed⟩
  · obtain ⟨t, ht, -, hend, hacc⟩ := request_accepts [.handovers] (exec_signOut (seq := seq) hw) hl
      (signOut_incoming (s := s.plantHunting) hp)
      (changesOnly_mono (abortHandover_changesOnly _ c _) (by decide)) (by decide)
    exact ⟨t, ht, abortedAt_abort (s := s.plantHunting) (active_of_inReview (inReview_of_incoming hp)) hend, hacc⟩
  · exact ⟨_, timed_taken (exec_offerDeadline hd) hp (decide_eq_true hx),
      abortedAt_abort (by rw [hd]; rfl) (settle_concludes s _ none),
      changesOnly_mono (changesOnly_settle_of (abortHandover_changesOnly s c _) none) (by decide)⟩
  · exact ⟨_, timed_taken (exec_reviewDeadline hd) hp (decide_eq_true hx),
      abortedAt_abort (by rw [hd]; rfl) (settle_concludes s _ none),
      changesOnly_mono (changesOnly_settle_of (abortHandover_changesOnly s c _) none) (by decide)⟩

/-! ### The review (R170, R171) -/

section Review

variable {seq x y : Byte} {w : Acting} {s t : State} {c : Console} {o : Operator} {ref : ItemRef} {it : Item}

theorem setSeen_sees (p : Phase) (ref : ItemRef) (seen : Bool) :
    (p.setSeen ref seen).items = (p.items.map fun it => if it.ref = ref then { it with seen := seen } else it) ∧
      phaseCode (p.setSeen ref seen) = phaseCode p ∧ (p.setSeen ref seen).outgoing = p.outgoing ∧
      (p.setSeen ref seen).incoming = p.incoming ∧ (p.setSeen ref seen).deadline = p.deadline := by
  cases p <;> exact ⟨rfl, rfl, rfl, rfl, rfl⟩

theorem markSeen_changesOnly (s : State) (c : Console) (ref : ItemRef) :
    changesOnly s (s.markSeen c ref) [.handovers, .changes] :=
  changesOnly_trans (setPhase_changesOnly s c _) (changesOnly_markAll _ _)

theorem markSeen_handovers (s : State) (c : Console) (ref : ItemRef) : (s.markSeen c ref).handovers =
    upd s.handovers c fun h => { h with phase := h.phase.setSeen ref true } := by
  ext d hd
  have h := upd_get s.handovers c ⟨d, hd⟩ fun h => { h with phase := s.handovers[c].phase.setSeen ref true }
  have h' := upd_get s.handovers c ⟨d, hd⟩ fun h => { h with phase := h.phase.setSeen ref true }
  exact h.trans h'.symm

theorem markSeen_marked (s : State) (c : Console) (ref : ItemRef) : marked (s.markSeen c ref) [.handover c] :=
  markAll_marked _ (by simp)

theorem seenKey_outside (h : s.handovers[c].phase.inReview = false) : s.seenKey c = Effect.refuse .wrongState :=
  if_neg (by rw [h]; exact Bool.false_ne_true)

theorem seenKey_review (h : s.handovers[c].phase.inReview = true) {r : Option Item}
    (hr : s.handovers[c].phase.firstUnseen = r) : s.seenKey c =
      r.elim (Effect.refuse .nothingToDo) fun it => Effect.accept (s.markSeen c it.ref) := by
  unfold State.seenKey
  rw [if_pos h, hr]
  cases r <;> rfl

theorem firstUnseen_none {p : Phase} (h : ∀ it ∈ p.items, it.seen = true) : p.firstUnseen = none :=
  List.find?_eq_none.2 fun it hi => by rw [h it hi]; exact Bool.false_ne_true

theorem firstUnseen_some {p : Phase} {front back : List Item} (h : p.items = front ++ it :: back)
    (hf : ∀ y ∈ front, y.seen = true) (hi : it.seen = false) : p.firstUnseen = some it := by
  refine List.find?_eq_some_iff_append.2 ⟨by rw [hi]; rfl, front, back, h, fun y hy => ?_⟩
  rw [hf y hy]
  rfl

theorem exec_handoverSeen (hw : decodePerson w = some (c, o)) (hx : decodeItem x y = some ref) :
    exec (.handoverSeen seq w x y) s = request 0x39 seq (some fun v => v.seenNamed c o ref) s := by
  show execHandoverSeen seq w x y s = _
  unfold execHandoverSeen
  rw [hw, hx]
  rfl

theorem seenNamed_outside (h : s.handovers[c].phase.inReview = false) : s.seenNamed c o ref = .refuse .wrongState :=
  check_fail _ _ (by rw [h]; exact Bool.false_ne_true)

theorem seenNamed_other (h : s.handovers[c].phase.inReview = true) (hn : s.handovers[c].phase.incoming ≠ some o) :
    s.seenNamed c o ref = .refuse .notInCharge :=
  (check_pass _ _ h).trans (check_fail _ _ (by simpa using hn))

theorem seenNamed_incoming (h : s.handovers[c].phase.incoming = some o) : s.seenNamed c o ref =
    .check (firstRefusal [(s.handovers[c].phase.holds ref, .badValue),
      (s.handovers[c].phase.items.any fun it => it.ref == ref && !it.seen, .alreadyDone)])
      (.accept (s.markSeen c ref) []) :=
  (check_pass _ _ (inReview_of_incoming h)).trans (check_pass _ _ (by rw [h]; exact beq_self_eq_true _))

theorem phase_holds_iff (p : Phase) (ref : ItemRef) : p.holds ref = true ↔ ∃ it ∈ p.items, it.ref = ref := by
  simp [Phase.holds]

theorem unseenIn_iff (p : Phase) (ref : ItemRef) : (p.items.any fun it => it.ref == ref && !it.seen) = true ↔
    ∃ it ∈ p.items, it.ref = ref ∧ it.seen = false := by simp

end Review

/-- Settles O56. -/
theorem itemsAreSeen : Obligations.ItemsAreSeen := by
  refine ⟨setSeen_sees, fun c s hh hu => ⟨fun hp => ?_, fun hp hs => ?_, fun front it back hp hs hf hi => ?_⟩,
    fun seq w x y c o ref s hl hw hx => ⟨fun hp => ?_, fun hp hn => ?_,
      fun hp => ⟨fun hn => ?_, fun hi hs => ?_, fun hs => ?_⟩⟩⟩
  · obtain ⟨t, ht, h⟩ := key_refuses (exec_seenKey c s) hh hu (seenKey_outside (s := s.portHunting c) hp)
    exact ⟨t, ht, refused_keyed h⟩
  · have hk := seenKey_review (s := s.portHunting c) hp (firstUnseen_none hs)
    obtain ⟨t, ht, h⟩ := key_refuses (exec_seenKey c s) hh hu hk
    exact ⟨t, ht, refused_keyed h⟩
  · have hk := seenKey_review (s := s.portHunting c) hp (firstUnseen_some hs hf hi)
    obtain ⟨t, ht, -, hend, hkeyed⟩ := key_accepts [.handovers] (exec_seenKey c s) hh hu hk
      (changesOnly_mono (markSeen_changesOnly _ c _) (by decide)) (by decide)
    exact ⟨t, ht, hend.handovers.trans (markSeen_handovers (s.portHunting c) c it.ref),
      hend.marks _ (markSeen_marked _ c it.ref), hkeyed⟩
  · exact request_refuses (exec_handoverSeen hw hx) hl (seenNamed_outside (s := s.plantHunting) hp)
  · exact request_refuses (exec_handoverSeen hw hx) hl (seenNamed_other (s := s.plantHunting) hp hn)
  · refine request_refuses (exec_handoverSeen hw hx) hl ((seenNamed_incoming (s := s.plantHunting) hp).trans
      (check_fail _ _ fun h => ?_))
    obtain ⟨it, hi, hr⟩ := (phase_holds_iff _ _).1 h
    exact hn it hi hr
  · refine request_refuses (exec_handoverSeen hw hx) hl ((seenNamed_incoming (s := s.plantHunting) hp).trans
      ((check_pass _ _ ((phase_holds_iff _ _).2 hi)).trans (check_fail _ _ fun h => ?_)))
    obtain ⟨it, hi, hr, hu⟩ := (unseenIn_iff _ _).1 h
    rw [hs it hi hr] at hu
    cases hu
  · have hv := (seenNamed_incoming (s := s.plantHunting) hp).trans
      ((check_pass _ _ ((phase_holds_iff _ _).2 (hs.imp fun _ h => ⟨h.1, h.2.1⟩))).trans
        (check_pass _ _ ((unseenIn_iff _ _).2 hs)))
    obtain ⟨t, ht, -, hend, hacc⟩ := request_accepts [.handovers] (exec_handoverSeen (seq := seq) hw hx) hl hv
      (changesOnly_mono (markSeen_changesOnly _ c _) (by decide)) (by decide)
    exact ⟨t, ht, hend.handovers.trans (markSeen_handovers s.plantHunting c ref),
      hend.marks _ (markSeen_marked _ c ref), hacc⟩

/-! ### Accepts (R174, R175) -/

section Accepts

variable {seq : Byte} {w : Acting} {s t : State} {c : Console} {p o q : Operator} {d : Nat} {items : List Item}

/-- The state of an accept before the flag is derived. -/
def State.seated (s : State) (c : Console) (incoming : Operator) : State :=
  { s.setConsole c fun k => { k with session := .attached incoming, lastEnd := some .handedOver } with
    handovers := upd s.handovers c fun _ => { phase := .none, lastOutcome := some .accepted } }

theorem acceptDesk_eq (s : State) (c : Console) (p o : Operator) : s.acceptDesk c p o =
    ((s.seated c o).requalify [c]).markAll (Ref.console c :: operatorRefs p o ++ [Ref.handover c]) := rfl

theorem seated_changesOnly (s : State) (c : Console) (o : Operator) :
    changesOnly s (s.seated c o) [.sessions, .handovers] := by
  have h : changesOnly s (s.setConsole c fun k => { k with session := .attached o, lastEnd := some .handedOver })
      [.sessions] := changesOnly_setConsole fun p hp => by cases p <;> simp_all [ConsoleRecord.sameIn]
  exact changesOnly_trans h (changesOnly_handovers _ _)

theorem acceptDesk_changesOnly (s : State) (c : Console) (p o : Operator) :
    changesOnly s (s.acceptDesk c p o) [.sessions, .handovers, .flags, .changes] :=
  changesOnly_mono (changesOnly_trans (changesOnly_trans (seated_changesOnly s c o) (requalify_changesOnly _ [c]))
    (changesOnly_markAll _ _)) (by decide)

theorem acceptDesk_marked (s : State) (c : Console) (p o : Operator) :
    marked (s.acceptDesk c p o) [.console c, .handover c, .operator p, .operator o] := by
  refine marked_subset (markAll_marked _ (by simp)) fun r hr => ?_
  have ho : ∀ q, q = p ∨ q = o → Ref.operator q ∈ operatorRefs p o := fun q hq =>
    List.mem_map_of_mem ((mem_numbersWhere _ q).2 (by simpa using hq))
  simp only [List.mem_cons, List.not_mem_nil, or_false] at hr
  rcases hr with rfl | rfl | rfl | rfl
  · simp
  · simp
  · simp [ho p (.inl rfl)]
  · simp [ho o (.inr rfl)]

theorem acceptDesk_at (s : State) (c : Console) (p o : Operator) (e : Console) :
    (s.acceptDesk c p o).consoles[e] = if e = c then
      { s.consoles[c] with session := .attached o, lastEnd := some .handedOver,
                           underQualified := (s.acceptDesk c p o).deriveUnderQualified c }
    else s.consoles[e] := by
  have hd : (s.acceptDesk c p o).deriveUnderQualified c = (s.seated c o).deriveUnderQualified c := by
    rw [acceptDesk_eq, ← requalify_derived (s.seated c o) [c] c]
    exact deriveUnderQualified_congr rfl rfl rfl
  have hs : (s.seated c o).consoles[e] = if e = c then
      { s.consoles[c] with session := .attached o, lastEnd := some .handedOver } else s.consoles[e] := upd_get ..
  rw [hd, acceptDesk_eq, State.markAll_consoles, requalify_at, hs]
  by_cases he : e = c
  · simp [he]
  · simp [he]

theorem deskAccepted_accept (h : Concludes (s.acceptDesk c p o) t) : deskAccepted s t c p o := by
  have hat (e : Console) := acceptDesk_at s c p o e
  have hown := hat c
  rw [if_pos rfl] at hown
  refine ⟨by rw [h.session, hown], by rw [h.lastEnd, hown], ?_, by rw [h.hornFault, hown], fun e he => ?_, ?_,
    h.marks _ (acceptDesk_marked s c p o)⟩
  · rw [h.underQualified, h.deriveUnderQualified, hown]
  · dsimp only
    rw [h.session, h.lastEnd, h.hornFault, h.underQualified, hat, if_neg he]
  · rw [h.handovers, acceptDesk_eq, State.markAll_handovers, State.requalify_handovers]
    rfl

/-- The last three checks of an accept, in their order. -/
theorem acceptRefusal_eq (h : s.handovers[c].phase = .review p o d items) : s.acceptRefusal c o =
    if ∃ it ∈ items, it.seen = false then some .itemsUnseen
    else if s.consoles[c].flooded = true then some .flooded
    else if s.qualifies o c = false then some .notQualified else none := by
  have hunseen : (s.handovers[c].phase.unseen == 0) = true ↔ ¬∃ it ∈ items, it.seen = false := by
    rw [h]
    simp [Phase.unseen, Phase.items]
  unfold State.acceptRefusal
  by_cases hi : ∃ it ∈ items, it.seen = false
  · rw [if_pos hi]
    exact firstRefusal_fail _ fun hu => hunseen.1 hu hi
  · rw [if_neg hi, firstRefusal_pass _ (hunseen.2 hi)]
    cases hf : s.consoles[c].flooded
    · rw [if_neg Bool.false_ne_true, firstRefusal_pass (b := !false) _ rfl]
      cases hq : s.qualifies o c
      · exact firstRefusal_fail _ Bool.false_ne_true
      · exact firstRefusal_pass _ rfl
    · exact firstRefusal_fail _ Bool.false_ne_true

theorem acceptKey_outside (h : s.handovers[c].phase.inReview = false) : s.acceptKey c = Effect.refuse .wrongState := by
  unfold State.acceptKey
  cases hp : s.handovers[c].phase with
  | none => rfl
  | offered _ _ _ => rfl
  | review _ _ _ _ =>
    rw [hp] at h
    cases h

theorem acceptKey_refused (h : s.handovers[c].phase = .review p o d items) {z : Reason}
    (hz : s.acceptRefusal c o = some z) : s.acceptKey c = Effect.refuse z := by
  unfold State.acceptKey
  rw [h]
  dsimp only
  rw [hz]

theorem acceptKey_hands (h : s.handovers[c].phase = .review p o d items) (hz : s.acceptRefusal c o = none) :
    s.acceptKey c = (some (s.acceptDesk c p o), none) := by
  unfold State.acceptKey
  rw [h]
  dsimp only
  rw [hz]
  rfl

theorem exec_handoverAccept (hw : decodePerson w = some (c, q)) :
    exec (.handoverAccept seq w) s = request 0x3A seq (some fun v => v.acceptNamed c q) s := by
  show execHandoverAccept seq w s = _
  unfold execHandoverAccept onPerson
  rw [hw]
  rfl

theorem acceptNamed_outside (h : s.handovers[c].phase.inReview = false) :
    s.acceptNamed c q = .refuse .wrongState := by
  unfold State.acceptNamed
  cases hp : s.handovers[c].phase with
  | none => rfl
  | offered _ _ _ => rfl
  | review _ _ _ _ =>
    rw [hp] at h
    cases h

theorem acceptNamed_review (h : s.handovers[c].phase = .review p o d items) : s.acceptNamed c q =
    .check (firstRefusal [(o == q, .notInCharge)])
      (.check (s.acceptRefusal c o) (.accept (s.acceptDesk c p o) [])) := by
  unfold State.acceptNamed
  rw [h]

theorem acceptNamed_own (h : s.handovers[c].phase = .review p o d items) : s.acceptNamed c o =
    .check (s.acceptRefusal c o) (.accept (s.acceptDesk c p o) []) :=
  (acceptNamed_review h).trans (check_pass _ _ (beq_self_eq_true o))

end Accepts

/-- Settles O57. -/
theorem acceptsHandTheDeskOver : Obligations.AcceptsHandTheDeskOver := by
  refine ⟨fun c s hp => ⟨fun hh hu => ?_, fun seq w q hl hw => ?_⟩, fun c p o d items refusal s hp href =>
    ⟨fun hh hu => ⟨fun hr => ?_, fun hr => ?_⟩,
      fun seq w q hl hw => ⟨fun hq => ?_, fun hq hr => ?_, fun hq hr => ?_⟩⟩⟩
  · obtain ⟨t, ht, h⟩ := key_refuses (exec_acceptKey c s) hh hu (acceptKey_outside (s := s.portHunting c) hp)
    exact ⟨t, ht, refused_keyed h⟩
  · exact request_refuses (exec_handoverAccept hw) hl (acceptNamed_outside (s := s.plantHunting) hp)
  · have hk := acceptKey_hands (s := s.portHunting c) hp (((acceptRefusal_eq hp).trans href.symm).trans hr)
    obtain ⟨t, ht, -, hend, hkeyed⟩ := key_accepts [.sessions, .flags, .handovers] (exec_acceptKey c s) hh hu hk
      (changesOnly_mono (acceptDesk_changesOnly _ c p o) (by decide)) (by decide)
    exact ⟨t, ht, deskAccepted_accept (s := s.portHunting c) hend, hkeyed⟩
  · obtain ⟨z, rfl⟩ := Option.ne_none_iff_exists'.1 hr
    have hk := acceptKey_refused (s := s.portHunting c) hp ((acceptRefusal_eq hp).trans href.symm)
    obtain ⟨t, ht, h⟩ := key_refuses (exec_acceptKey c s) hh hu hk
    exact ⟨t, ht, refused_keyed h⟩
  · exact request_refuses (exec_handoverAccept hw) hl ((acceptNamed_review (s := s.plantHunting) hp).trans
      (check_fail _ _ (by simpa using Ne.symm hq)))
  · subst hq
    have hv := acceptNamed_own (s := s.plantHunting) hp
    rw [show s.plantHunting.acceptRefusal c q = none from ((acceptRefusal_eq hp).trans href.symm).trans hr] at hv
    obtain ⟨t, ht, -, hend, hacc⟩ := request_accepts [.sessions, .flags, .handovers]
      (exec_handoverAccept (seq := seq) hw) hl hv (changesOnly_mono (acceptDesk_changesOnly _ c p q) (by decide))
      (by decide)
    exact ⟨t, ht, deskAccepted_accept (s := s.plantHunting) hend, hacc⟩
  · subst hq
    obtain ⟨z, rfl⟩ := Option.ne_none_iff_exists'.1 hr
    have hv := acceptNamed_own (s := s.plantHunting) hp
    rw [show s.plantHunting.acceptRefusal c q = some z from (acceptRefusal_eq hp).trans href.symm] at hv
    exact request_refuses (exec_handoverAccept hw) hl hv

end Sys2Proof.Machine
end

section
/-! Badges settled (8.6, 8.7, 9.4): whose a badge is, who is refused, the sign-in and the incoming operator. -/

namespace Sys2Proof.Machine

/-! ### Whose a badge is, and what refuses it (R116, R123, R148) -/

section Holders

variable {s : State} {c : Console} {n : Badge} {o q : Operator} {r : OperatorRecord}

theorem holderOf_none_iff : s.holderOf n = none ↔
    n = 0 ∨ ∀ (o : Operator) (r : OperatorRecord), s.cfg.roster[o] = some r → r.badge ≠ n := by
  unfold State.holderOf
  by_cases hn : n = 0
  · simp [hn]
  · rw [if_neg hn, List.findSome?_eq_none_iff]
    refine ⟨fun h => .inr fun o r hr hb => ?_, fun h o _ => ?_⟩
    · have := h o (List.mem_finRange o)
      rw [hr] at this
      simp [hb] at this
    · cases hr : s.cfg.roster[o] with
      | none => rfl
      | some x => exact if_neg ((h.resolve_left hn) o x hr)

theorem qualifies_owner (h : ∃ a : Area, s.cfg.areas[a].owner = some c) :
    s.qualifies o c = true ↔ ∀ a : Area, s.cfg.areas[a].owner = some c → 2 ≤ s.effectiveLevel o a := by
  have hne : (s.ownedAreas c).isEmpty = false := by
    rw [List.isEmpty_eq_false_iff]
    obtain ⟨a, ha⟩ := h
    exact fun hn => ownedAreas_nil_iff.1 hn a ha
  unfold State.qualifies
  rw [hne]
  simp [mem_ownedAreas]

theorem qualifies_arealess (h : ∀ a : Area, s.cfg.areas[a].owner ≠ some c) :
    s.qualifies o c = true ↔ ∃ a : Area, 1 ≤ s.effectiveLevel o a := by
  unfold State.qualifies
  rw [ownedAreas_nil_iff.2 h]
  simp

theorem freeToCome_iff : s.freeToCome c o = true ↔
    ∀ d : Console, s.handovers[d].phase.incoming ≠ some o ∧ (d ≠ c → s.attachedAt d ≠ some o) := by
  unfold State.freeToCome
  simp only [List.all_eq_true, List.mem_finRange, true_implies, Bool.and_eq_true, Bool.or_eq_true, beq_iff_eq, bne_iff_ne]
  exact forall_congr' fun d => ⟨fun ⟨h1, h2⟩ => ⟨h2, h1.resolve_left⟩,
    fun ⟨h1, h2⟩ => ⟨or_iff_not_imp_left.2 h2, h1⟩⟩

theorem badgeRefusal_suspended (h : r.status = .suspended) : s.badgeRefusal c o r = some .suspended :=
  firstRefusal_fail _ (by rw [h]; decide)

section Active

variable (h : r.status = .active)

include h

theorem badgeRefusal_engaged
    (he : ∃ d : Console, s.handovers[d].phase.incoming = some o ∨ d ≠ c ∧ s.attachedAt d = some o) :
    s.badgeRefusal c o r = some .alreadySignedIn := by
  refine (firstRefusal_pass _ (by rw [h]; rfl)).trans (firstRefusal_fail _ fun hf => ?_)
  obtain ⟨d, hd⟩ := he
  obtain ⟨h1, h2⟩ := freeToCome_iff.1 hf d
  rcases hd with hd | ⟨hd, ha⟩
  · exact h1 hd
  · exact h2 hd ha

theorem badgeRefusal_free
    (hf : ∀ d : Console, s.handovers[d].phase.incoming ≠ some o ∧ (d ≠ c → s.attachedAt d ≠ some o)) :
    s.badgeRefusal c o r = firstRefusal [(s.qualifies o c, .notQualified)] :=
  (firstRefusal_pass _ (by rw [h]; rfl)).trans (firstRefusal_pass _ (freeToCome_iff.2 hf))

end Active

variable {taken : Operator → State}

theorem badgeStep_unknown (h : s.holderOf n = none) : s.badgeStep c n taken = Effect.refuse .unknownBadge := by
  unfold State.badgeStep
  rw [h]

theorem badgeStep_refused (h : s.holderOf n = some (o, r)) {z : Reason} (hz : s.badgeRefusal c o r = some z) :
    s.badgeStep c n taken = Effect.refuse z := by
  unfold State.badgeStep
  rw [h]
  dsimp only
  rw [hz]

theorem badgeStep_takes (h : s.holderOf n = some (o, r)) (hz : s.badgeRefusal c o r = none) :
    s.badgeStep c n taken = (some (taken o), none) := by
  unfold State.badgeStep
  rw [h]
  dsimp only
  rw [hz]
  rfl

theorem badge_vacant (h : s.consoles[c].session = .none) : s.badge c n = s.badgeStep c n (s.signIn c) := by
  unfold State.badge
  rw [h]
  rfl

theorem isBadgeOf_iff : s.isBadgeOf q n = true ↔ ∃ r, s.cfg.roster[q] = some r ∧ r.badge = n := by
  unfold State.isBadgeOf
  cases s.cfg.roster[q] <;> simp

theorem badge_own (h : s.consoles[c].session.inCharge = some q) (hb : s.isBadgeOf q n = true) :
    s.badge c n = Effect.refuse .alreadySignedIn := by
  unfold State.badge
  rw [h]
  exact if_pos hb

theorem badge_occupied (h : s.consoles[c].session.inCharge = some q) (hb : ¬s.isBadgeOf q n = true)
    (hp : ∀ p d l, s.handovers[c].phase ≠ .offered p d l) : s.badge c n = Effect.refuse .consoleOccupied := by
  unfold State.badge
  rw [h]
  refine (if_neg hb).trans ?_
  cases hx : s.handovers[c].phase with
  | none => rfl
  | offered p d l => exact absurd hx (hp p d l)
  | review p i d l => rfl

theorem badge_offered (h : s.consoles[c].session.inCharge = some q) (hb : ¬s.isBadgeOf q n = true) {p : Operator}
    {d : Nat} {l : List Item} (hp : s.handovers[c].phase = .offered p d l) :
    s.badge c n = s.badgeStep c n (s.comeIn c) := by
  unfold State.badge
  rw [h]
  refine (if_neg hb).trans ?_
  rw [hp]

end Holders

/-! ### Sessions that move (R149, R168) -/

section Moves

variable {s t : State} {c d : Console} {o : Operator}

theorem detachedOf_iff : s.detachedOf o d = true ↔ ∃ g, s.consoles[d].session = .detached o g := by
  unfold State.detachedOf
  cases s.consoles[d].session <;> simp

theorem mem_detachedConsoles : d ∈ s.detachedConsoles o ↔ ∃ g, s.consoles[d].session = .detached o g := by
  rw [State.detachedConsoles, mem_numbersWhere, detachedOf_iff]

theorem mem_consoleRefs (c d : Console) (l : List Console) : Ref.console d ∈ consoleRefs c l ↔ d = c ∨ d ∈ l := by
  unfold consoleRefs
  rw [List.mem_map_of_injective (fun _ _ h => by cases h; rfl), mem_numbersWhere]
  simp

theorem moveSessions_at (s : State) (o : Operator) (d : Console) : (s.moveSessions o).consoles[d] =
    if s.detachedOf o d then s.consoles[d].ended .moved else s.consoles[d] := by
  simp only [State.moveSessions, Fin.getElem_fin, Vector.getElem_ofFn]
  rfl

theorem moveSessions_changesOnly (s : State) (o : Operator) : changesOnly s (s.moveSessions o) [.sessions, .flags] := by
  intro p hp
  have hk (d : Console) := moveSessions_at s o d
  cases p
  case sessions | flags => simp at hp
  case links | results | telegrams | loads | horns =>
    intro d
    rw [hk]
    split <;> rfl
  case changes => exact ⟨rfl, rfl⟩
  all_goals rfl

end Moves

/-! ### The sign-in (R149) -/

section SignIn

variable (s : State) (c : Console) (o : Operator)

/-- The state of a sign-in before the flag is derived. -/
def State.arrived (s : State) (c : Console) (o : Operator) : State :=
  (s.moveSessions o).setConsole c fun k => { k with session := .attached o }

theorem signIn_eq : s.signIn c o = (((s.arrived c o).requalify [c]).rerouteStep).markAll
    (consoleRefs c (s.detachedConsoles o) ++ [Ref.operator o]) := rfl

theorem arrived_changesOnly : changesOnly s (s.arrived c o) [.sessions, .flags] :=
  changesOnly_mono (changesOnly_trans (moveSessions_changesOnly s o) (changesOnly_setConsole (l := [.sessions])
    fun p hp => by cases p <;> simp_all [ConsoleRecord.sameIn])) (by decide)

theorem qualified_changesOnly : changesOnly s ((s.arrived c o).requalify [c]) [.sessions, .flags, .changes] :=
  changesOnly_mono (changesOnly_trans (arrived_changesOnly s c o) (requalify_changesOnly _ [c])) (by decide)

theorem signIn_changesOnly : changesOnly s (s.signIn c o) [.sessions, .flags, .routes, .table, .changes] :=
  changesOnly_mono (changesOnly_trans (changesOnly_trans (qualified_changesOnly s c o) (rerouteStep_changesOnly _))
    (changesOnly_markAll _ _)) (by decide)

theorem signIn_marked : marked (s.signIn c o) (consoleRefs c (s.detachedConsoles o) ++ [Ref.operator o]) :=
  markAll_marked _ (by simp)

theorem signIn_derived (d : Console) : (s.signIn c o).deriveUnderQualified d = (s.arrived c o).deriveUnderQualified d := by
  rw [← requalify_derived (s.arrived c o) [c] d, signIn_eq]
  refine deriveUnderQualified_congr ?_ ?_ ?_
  · rw [State.markAll_consoles, State.rerouteStep_consoles]
  · rw [State.markAll_cfg, State.rerouteStep_cfg]
  · rw [State.markAll_day, State.rerouteStep_day]

theorem signIn_at (d : Console) : (s.signIn c o).consoles[d] = if d = c then
      { (s.moveSessions o).consoles[c] with session := .attached o,
                                            underQualified := (s.signIn c o).deriveUnderQualified c }
    else (s.moveSessions o).consoles[d] := by
  have hs : (s.arrived c o).consoles[d] = if d = c then
      { (s.moveSessions o).consoles[c] with session := .attached o } else (s.moveSessions o).consoles[d] := upd_get ..
  rw [signIn_derived, signIn_eq, State.markAll_consoles, State.rerouteStep_consoles, requalify_at, hs]
  by_cases hd : d = c
  · simp [hd]
  · simp [hd]

theorem sameRecords_of_only {s v : State} {parts : List Part} (h : changesOnly s v parts)
    (hp : ∀ p ∈ [Part.table, .routes, .time, .loads], p ∉ parts := by decide) : s.SameRecords v :=
  sameRecords_of_loads (h .table (hp _ (by simp))) (h .routes (hp _ (by simp))) (h .time (hp _ (by simp)))
    (h .loads (hp _ (by simp)))

theorem signIn_rerouted {s t : State} {c : Console} {o : Operator} (h : Concludes (s.signIn c o) t) : rerouted s t := by
  refine h.rerouted_step (sameRecords_of_only (qualified_changesOnly s c o)) ?_ fun a => ?_
  · exact markAll_sameRecords _ _
  · rw [signIn_eq, routeOf_markAll, routeOf_rerouteStep]

end SignIn

/-- Settles O49. -/
theorem badgeSignsIn : Obligations.BadgeSignsIn := by
  refine ⟨fun s n => ⟨fun o r h => ⟨fun h0 => ?_, holderOf_some h⟩, holderOf_none_iff⟩,
    fun s o c => ⟨qualifies_owner, qualifies_arealess⟩,
    fun c n o r s hh hu hs hn hr hf hq => ?_,
    fun c n s hh hu => ⟨fun hs hn => ?_, fun o r hs hn => ⟨fun hr => ?_, fun hr he => ?_, fun hr hf hq => ?_⟩,
      fun o r hs hr => ⟨fun hb => ?_, fun hb hp => ?_⟩⟩⟩
  · rw [holderOf_none_iff.2 (.inl h0)] at h
    cases h
  · have hz : (s.portHunting c).badgeRefusal c o r = none :=
      (badgeRefusal_free hr hf).trans (firstRefusal_pass _ hq)
    obtain ⟨t, ht, -, hend, hkeyed⟩ := key_accepts [.sessions, .flags, .routes, .table] (exec_badge c n s) hh hu
      ((badge_vacant (s := s.portHunting c) hs).trans (badgeStep_takes hn hz))
      (changesOnly_mono (signIn_changesOnly _ c o) (by decide)) (by decide)
    have hat (d : Console) := signIn_at (s.portHunting c) c o d
    have hown := hat c
    rw [if_pos rfl, moveSessions_at, if_neg (mt detachedOf_iff.1 fun ⟨g, hg⟩ => by cases hs.symm.trans hg)] at hown
    have hother (d : Console) (hd : d ≠ c) := (hat d).trans ((if_neg hd).trans (moveSessions_at (s.portHunting c) o d))
    have hmarked (d : Console) (hd : d = c ∨ d ∈ s.detachedConsoles o) : marked t [.console d, .operator o] := by
      refine hend.marks _ (marked_subset (signIn_marked (s.portHunting c) c o) fun x hx => ?_)
      simp only [List.mem_cons, List.not_mem_nil, or_false] at hx
      rcases hx with rfl | rfl
      · exact List.mem_append_left _ ((mem_consoleRefs c d _).2 hd)
      · exact List.mem_append_right _ (List.mem_singleton.2 rfl)
    refine ⟨t, ht, by rw [hend.session, hown], by rw [hend.lastEnd, hown]; rfl, ?_, fun d hd g hg => ?_,
      fun d hd hn => ?_, fun d => ?_, signIn_rerouted (s := s.portHunting c) hend, hmarked c (.inl rfl), hkeyed⟩
    · rw [hend.underQualified, hend.deriveUnderQualified, hown]
    · have hd' := (hother d hd).trans (if_pos (detachedOf_iff.2 ⟨g, hg⟩))
      have hsession : t.consoles[d].session = .none := by rw [hend.session, hd']; rfl
      refine ⟨hsession, by rw [hend.lastEnd, hd']; rfl, by rw [hend.underQualified, hd']; rfl,
        marked_subset (hmarked d (.inr (mem_detachedConsoles.2 ⟨g, hg⟩))) (by simp), fun hoff => ?_⟩
      exact everyPanelChangeIsSent.1 _ s t ht (by simp) d hoff
        (.inr (.inr ⟨fun hn => (by cases hg.symm.trans hn), hsession⟩))
    · have hd' := (hother d hd).trans (if_neg (mt detachedOf_iff.1 fun ⟨g, hg⟩ => hn g hg))
      exact ⟨by rw [hend.session, hd']; rfl, by rw [hend.lastEnd, hd']; rfl, by rw [hend.underQualified, hd']; rfl⟩
    · rw [hend.hornFault]
      by_cases hd : d = c
      · rw [hd, hown]
        rfl
      · rw [hother d hd]
        split <;> rfl
  · obtain ⟨t, ht, h⟩ := key_refuses (exec_badge c n s) hh hu
      ((badge_vacant (s := s.portHunting c) hs).trans (badgeStep_unknown hn))
    exact ⟨t, ht, refused_keyed h⟩
  · obtain ⟨t, ht, h⟩ := key_refuses (exec_badge c n s) hh hu
      ((badge_vacant (s := s.portHunting c) hs).trans (badgeStep_refused hn (badgeRefusal_suspended hr)))
    exact ⟨t, ht, refused_keyed h⟩
  · obtain ⟨t, ht, h⟩ := key_refuses (exec_badge c n s) hh hu
      ((badge_vacant (s := s.portHunting c) hs).trans (badgeStep_refused hn (badgeRefusal_engaged hr he)))
    exact ⟨t, ht, refused_keyed h⟩
  · have hz : (s.portHunting c).badgeRefusal c o r = some .notQualified :=
      (badgeRefusal_free hr hf).trans (firstRefusal_fail _ (by
        show ¬s.qualifies o c = true
        rw [hq]
        exact Bool.false_ne_true))
    obtain ⟨t, ht, h⟩ := key_refuses (exec_badge c n s) hh hu
      ((badge_vacant (s := s.portHunting c) hs).trans (badgeStep_refused hn hz))
    exact ⟨t, ht, refused_keyed h⟩
  · obtain ⟨t, ht, h⟩ := key_refuses (exec_badge c n s) hh hu
      (badge_own (s := s.portHunting c) hs (isBadgeOf_iff.2 ⟨r, hr, hb⟩))
    exact ⟨t, ht, refused_keyed h⟩
  · have hi : ¬(s.portHunting c).isBadgeOf o n = true := fun hi => by
      obtain ⟨x, hx, hb'⟩ := isBadgeOf_iff.1 hi
      exact hb (Option.some.inj (hr.symm.trans hx) ▸ hb')
    obtain ⟨t, ht, h⟩ := key_refuses (exec_badge c n s) hh hu (badge_occupied (s := s.portHunting c) hs hi hp)
    exact ⟨t, ht, refused_keyed h⟩

/-! ### The incoming operator (R168) -/

section ComeIn

variable {s t : State} {c : Console} {o p : Operator} {d : Nat} {items : List Item}

/-- The review that an incoming badge opens. -/
abbrev State.reviewOf (s : State) (p o : Operator) (items : List Item) : Phase :=
  .review p o (s.partTime + 10 * s.cfg.params.reviewTime) items

theorem comeIn_stays (hp : s.handovers[c].phase = .offered p d items) (h : s.detachedConsoles o = []) :
    s.comeIn c o = (s.setPhase c (s.reviewOf p o items)).markAll
      (consoleRefs c (s.detachedConsoles o) ++ [Ref.operator o, Ref.handover c]) := by
  unfold State.comeIn
  dsimp only
  rw [hp, if_pos (List.isEmpty_iff.2 h)]

theorem comeIn_moves (hp : s.handovers[c].phase = .offered p d items) (h : s.detachedConsoles o ≠ []) :
    s.comeIn c o = ((s.moveSessions o).rerouteStep.setPhase c (s.reviewOf p o items)).markAll
      (consoleRefs c (s.detachedConsoles o) ++ [Ref.operator o, Ref.handover c]) := by
  unfold State.comeIn
  dsimp only
  rw [hp, if_neg (mt List.isEmpty_iff.1 h)]

theorem comeIn_marked (s : State) (c : Console) (o : Operator) :
    marked (s.comeIn c o) (consoleRefs c (s.detachedConsoles o) ++ [Ref.operator o, Ref.handover c]) :=
  markAll_marked _ (by simp)

theorem comeIn_stays_changesOnly (hp : s.handovers[c].phase = .offered p d items) (h : s.detachedConsoles o = []) :
    changesOnly s (s.comeIn c o) [.handovers, .changes] := by
  rw [comeIn_stays hp h]
  exact changesOnly_trans (setPhase_changesOnly s c _) (changesOnly_markAll _ _)

theorem comeIn_changesOnly (hp : s.handovers[c].phase = .offered p d items) :
    changesOnly s (s.comeIn c o) [.handovers, .sessions, .flags, .routes, .table, .changes] := by
  by_cases h : s.detachedConsoles o = []
  · exact changesOnly_mono (comeIn_stays_changesOnly hp h) (by decide)
  · rw [comeIn_moves hp h]
    exact changesOnly_mono (changesOnly_trans (changesOnly_trans (changesOnly_trans (moveSessions_changesOnly s o)
      (rerouteStep_changesOnly _)) (setPhase_changesOnly _ c _)) (changesOnly_markAll _ _)) (by decide)

theorem setPhase_handovers (s : State) (c : Console) (x : Phase) :
    (s.setPhase c x).handovers = upd s.handovers c fun h => { h with phase := x } := rfl

theorem comeIn_handovers (hp : s.handovers[c].phase = .offered p d items) : (s.comeIn c o).handovers =
    upd s.handovers c fun h => { h with phase := s.reviewOf p o items } := by
  by_cases h : s.detachedConsoles o = []
  · rw [comeIn_stays hp h]
    rfl
  · rw [comeIn_moves hp h, State.markAll_handovers, setPhase_handovers, State.rerouteStep_handovers]
    rfl

theorem comeIn_at (hp : s.handovers[c].phase = .offered p d items) (e : Console) : (s.comeIn c o).consoles[e] =
    if s.detachedOf o e then s.consoles[e].ended .moved else s.consoles[e] := by
  rw [← moveSessions_at]
  by_cases h : s.detachedConsoles o = []
  · have hne : ¬s.detachedOf o e = true := fun he => by
      have hm : e ∈ s.detachedConsoles o := mem_detachedConsoles.2 (detachedOf_iff.1 he)
      rw [h] at hm
      cases hm
    rw [comeIn_stays hp h, moveSessions_at, if_neg hne]
    rfl
  · rw [comeIn_moves hp h, State.markAll_consoles]
    show (s.moveSessions o).rerouteStep.consoles[e] = _
    rw [State.rerouteStep_consoles]

theorem routeOf_setPhase (s : State) (c : Console) (x : Phase) (a : Area) :
    (s.setPhase c x).routeOf a = s.routeOf a := rfl

theorem setPhase_sameRecords (s : State) (c : Console) (x : Phase) : s.SameRecords (s.setPhase c x) :=
  ⟨rfl, rfl, rfl, fun _ => rfl⟩

theorem comeIn_rerouted (hp : s.handovers[c].phase = .offered p d items) (hd : s.detachedConsoles o ≠ [])
    (h : Concludes (s.comeIn c o) t) : rerouted s t := by
  rw [comeIn_moves hp hd] at h
  refine h.rerouted_step (sameRecords_of_only (moveSessions_changesOnly s o)) ?_ fun a => ?_
  · exact (setPhase_sameRecords _ c _).trans (markAll_sameRecords _ _)
  · rw [routeOf_markAll, routeOf_setPhase, routeOf_rerouteStep]

end ComeIn

/-- Settles O54. -/
theorem badgeBringsTheIncomingIn : Obligations.BadgeBringsTheIncomingIn := by
  intro c n p q d items s hh hu hs hp hn
  have hin : s.consoles[c].session.inCharge = some q := by rw [hs]; rfl
  have hi : ¬(s.portHunting c).isBadgeOf q n = true := fun hi => by
    obtain ⟨x, hx, hb⟩ := isBadgeOf_iff.1 hi
    exact hn x hx hb
  have hbadge := badge_offered (s := s.portHunting c) hin hi hp
  refine ⟨fun o r hn hr hf hq => ?_, fun hn => ?_,
    fun o r hn => ⟨fun hr => ?_, fun hr he => ?_, fun hr hf hq => ?_⟩⟩
  · have hz : (s.portHunting c).badgeRefusal c o r = none :=
      (badgeRefusal_free hr hf).trans (firstRefusal_pass _ hq)
    have hact := hbadge.trans (badgeStep_takes hn hz)
    obtain ⟨t, ht, heq, hend, hkeyed⟩ := key_accepts [.handovers, .sessions, .flags, .routes, .table] (exec_badge c n s)
      hh hu hact (changesOnly_mono (comeIn_changesOnly (s := s.portHunting c) hp) (by decide)) (by decide)
    have hat (e : Console) := comeIn_at (s := s.portHunting c) (o := o) hp e
    have hmarked (x : Ref) (hx : x ∈ consoleRefs c (s.detachedConsoles o) ++ [Ref.operator o, Ref.handover c]) :
        marked t [x] :=
      hend.marks _ (marked_subset (comeIn_marked (s.portHunting c) c o) fun y hy => by
        rw [List.mem_singleton.1 hy]; exact hx)
    refine ⟨t, ht, hend.handovers.trans (comeIn_handovers (s := s.portHunting c) hp), ?_, fun e hn => ?_,
      fun e g hg => ?_, fun e => ?_, fun hnone => ?_, hkeyed⟩
    · refine hend.marks _ (marked_subset (comeIn_marked (s.portHunting c) c o) fun x hx => ?_)
      simp only [List.mem_cons, List.not_mem_nil, or_false] at hx
      rcases hx with rfl | rfl | rfl
      · simp
      · exact List.mem_append_left _ ((mem_consoleRefs c c _).2 (.inl rfl))
      · simp
    · have he := (hat e).trans (if_neg (mt detachedOf_iff.1 fun ⟨g, hg⟩ => hn g hg))
      exact ⟨by rw [hend.session, he]; rfl, by rw [hend.lastEnd, he]; rfl, by rw [hend.underQualified, he]; rfl⟩
    · have he := (hat e).trans (if_pos (detachedOf_iff.2 ⟨g, hg⟩))
      have hmem : e ∈ s.detachedConsoles o := mem_detachedConsoles.2 ⟨g, hg⟩
      have hsession : t.consoles[e].session = .none := by rw [hend.session, he]; rfl
      refine ⟨hsession, by rw [hend.lastEnd, he]; rfl, by rw [hend.underQualified, he]; rfl,
        hmarked _ (List.mem_append_left _ ((mem_consoleRefs c e _).2 (.inr hmem))), fun hoff => ?_,
        comeIn_rerouted (s := s.portHunting c) hp (List.ne_nil_of_mem hmem) hend⟩
      exact everyPanelChangeIsSent.1 _ s t ht (by simp) e hoff
        (.inr (.inr ⟨fun hn => (by cases hg.symm.trans hn), hsession⟩))
    · rw [hend.hornFault, hat]
      split <;> rfl
    · have hnil : (s.portHunting c).detachedConsoles o = [] := List.eq_nil_iff_forall_not_mem.2 fun e he => by
        obtain ⟨g, hg⟩ := mem_detachedConsoles.1 he
        exact hnone e g hg
      obtain ⟨t', ht', -, -, hkeyed'⟩ := key_accepts [.handovers] (exec_badge c n s) hh hu hact
        (changesOnly_mono (comeIn_stays_changesOnly (s := s.portHunting c) hp hnil) (by decide)) (by decide)
      cases ht.symm.trans ht'
      exact hkeyed'
  · obtain ⟨t, ht, h⟩ := key_refuses (exec_badge c n s) hh hu (hbadge.trans (badgeStep_unknown hn))
    exact ⟨t, ht, refused_keyed h⟩
  · obtain ⟨t, ht, h⟩ := key_refuses (exec_badge c n s) hh hu
      (hbadge.trans (badgeStep_refused hn (badgeRefusal_suspended hr)))
    exact ⟨t, ht, refused_keyed h⟩
  · obtain ⟨t, ht, h⟩ := key_refuses (exec_badge c n s) hh hu
      (hbadge.trans (badgeStep_refused hn (badgeRefusal_engaged hr he)))
    exact ⟨t, ht, refused_keyed h⟩
  · have hz : (s.portHunting c).badgeRefusal c o r = some .notQualified :=
      (badgeRefusal_free hr hf).trans (firstRefusal_fail _ (by
        show ¬s.qualifies o c = true
        rw [hq]
        exact Bool.false_ne_true))
    obtain ⟨t, ht, h⟩ := key_refuses (exec_badge c n s) hh hu (hbadge.trans (badgeStep_refused hn hz))
    exact ⟨t, ht, refused_keyed h⟩

end Sys2Proof.Machine
end

section
/-! Standing notes settled (9.1): NOTE_ENTER and NOTE_CLEAR. -/

namespace Sys2Proof.Machine

section Notes

variable {seq x y : Byte} {w : Acting} {text : List Byte} {s t : State} {c : Console} {o : Option Operator} {op q : Operator}
  {a : Area} {k : NoteKind} {n : Note} {r : NoteRecord}

theorem exec_noteEnter (hw : decodeEngineer w = some (c, o)) (hx : decodeNumber 12 x = some a)
    (hy : decodeNoteKind y = some k) (ht : text.length ≤ 249) :
    exec (.noteEnter seq w x y text) s = request 0x36 seq (some fun v => v.enterNote c o a k text) s := by
  show execNoteEnter seq w x y text s = _
  unfold execNoteEnter decodeText
  rw [hw, hx, hy, if_pos ht]
  rfl

theorem exec_noteClear (hw : decodeEngineer w = some (c, o)) (hx : decodeNumber 32 x = some n) :
    exec (.noteClear seq w x) s = request 0x37 seq (some fun v => v.clearNote c o n) s := by
  show execNoteClear seq w x s = _
  unfold execNoteClear
  rw [hw, hx]
  rfl

/-! ### Who may ask (R159, R161) -/

theorem noteActor_locked (h : s.commissioning = false) : s.noteActor c none = some .noAuthority :=
  if_neg (by rw [h]; exact Bool.false_ne_true)

theorem noteActor_none (hc : o = none → s.commissioning = true) (ho : ∀ op, o = some op → s.attachedAt c = some op) :
    s.noteActor c o = none := by
  cases o with
  | none => exact if_pos (hc rfl)
  | some op => exact pairRefusal_of_attached (ho op rfl)

theorem enterNote_refused {z : Reason} (h : s.noteActor c o = some z) : s.enterNote c o a k text = .refuse z := by
  unfold State.enterNote
  rw [h]
  rfl

theorem clearNote_refused {z : Reason} (h : s.noteActor c o = some z) : s.clearNote c o n = .refuse z := by
  unfold State.clearNote
  rw [h]
  rfl

theorem levelTest_none {meets : Operator → Bool} (h : ∀ op, o = some op → meets op = true) : levelTest o meets = none := by
  cases o with
  | none => rfl
  | some op => exact if_pos (h op rfl)

theorem levelTest_low {meets : Operator → Bool} (ho : o = some op) (h : ¬meets op = true) :
    levelTest o meets = some .levelTooLow := by
  subst ho
  exact if_neg h

/-! ### NOTE_ENTER (R160) -/

theorem lowestFreeNote_iff : s.lowestFreeNote = some n ↔
    s.cfg.notes[n] = none ∧ ∀ m : Note, m < n → s.cfg.notes[m] ≠ none := by
  simp [State.lowestFreeNote, lowestWhere_eq_some_iff, Option.isNone_iff_eq_none, Option.isSome_iff_ne_none]

theorem noteText_eq (text : List Byte) :
    noteText text = (text.take 48).map fun b => if 32 ≤ b.toNat ∧ b.toNat ≤ 126 then b else 63 := by
  unfold noteText
  exact congrArg (fun f => (text.take 48).map f) (funext noteCharacter_eq)

theorem enterNote_low (ha : s.noteActor c o = none) (ho : o = some op) (hl : s.effectiveLevel op a < 2) :
    s.enterNote c o a k text = .refuse .levelTooLow := by
  unfold State.enterNote
  rw [ha, levelTest_low ho (by simpa using hl)]
  rfl

section Entitled

variable (ha : s.noteActor c o = none) (hl : ∀ op, o = some op → 2 ≤ s.effectiveLevel op a)

include ha hl

theorem enterNote_entitled : s.enterNote c o a k text = .check (firstRefusal [(!text.isEmpty, .badValue)])
    (s.lowestFreeNote.elim (.refuse .notesFull)
      fun n => .accept (s.putNote n (s.newNote o a k text)) (byteOf n.val :: noteText text)) := by
  unfold State.enterNote
  rw [ha, levelTest_none fun op ho => decide_eq_true (hl op ho)]
  cases s.lowestFreeNote <;> rfl

end Entitled

theorem setNote_changesOnly (s : State) (n : Note) (r : Option NoteRecord) :
    changesOnly s (s.setNote n r) [.settings] := by
  intro p hp
  cases p <;> simp_all [State.same, sameAt, State.setNote]

/-! ### The note stored, and its item -/

/-- The state of a NOTE_ENTER with the note in its slot. -/
abbrev State.noted (s : State) (n : Note) (r : Option NoteRecord) : State := (s.setNote n r).markAll [.note n]

theorem noted_changesOnly (s : State) (n : Note) (r : Option NoteRecord) :
    changesOnly s (s.noted n r) [.settings, .changes] :=
  changesOnly_trans (setNote_changesOnly s n r) (changesOnly_markAll _ _)

theorem putNote_changesOnly (s : State) (n : Note) (r : NoteRecord) :
    changesOnly s (s.putNote n r) ([.handovers, .changes] ++ storeParts) :=
  changesOnly_mono (changesOnly_trans (changesOnly_trans (changesOnly_trans (noted_changesOnly s n (some r))
    (mapPhases_changesOnly _ _)) (changesOnly_markAll _ _)) (changesOnly_storeWrite _)) (by decide)

theorem putNote_lists (s : State) (n : Note) (r : NoteRecord) :
    listsAre s (s.putNote n r) fun d l => joined s r.area (.note n) d l :=
  appendItem_lists (s.noted n (some r)) r.area (.note n)

theorem putNote_marked (s : State) (n : Note) (r : NoteRecord) : marked (s.putNote n r) [.note n] :=
  marked_markAll (u := (s.noted n (some r)).appendItem r.area (.note n))
    (marked_of_same rfl rfl (markAll_marked (s.setNote n (some r)) (by simp))) _

theorem emptyNote_changesOnly (s : State) (n : Note) :
    changesOnly s (s.emptyNote n) ([.handovers, .changes] ++ storeParts) :=
  changesOnly_mono (changesOnly_trans (changesOnly_trans (noted_changesOnly s n none) (changesOnly_trans
    (mapPhases_changesOnly _ _) (changesOnly_markAll _ _))) (changesOnly_storeWrite _)) (by decide)

theorem emptyNote_lists (s : State) (n : Note) :
    listsAre s (s.emptyNote n) fun _ l => dropped (.note n) l := dropItem_lists (s.noted n none) (.note n)

theorem emptyNote_marked (s : State) (n : Note) : marked (s.emptyNote n) [.note n] :=
  (Marks.storeWrite ((Marks.refl (s.noted n none)).dropItem (.note n))).marked (markAll_marked _ (by simp))

/-! ### NOTE_CLEAR (R161) -/

theorem clearNote_empty (ha : s.noteActor c o = none) (hn : s.cfg.notes[n] = none) :
    s.clearNote c o n = .refuse .alreadyDone := by
  unfold State.clearNote
  rw [ha, hn]
  rfl

theorem clearNote_held (ha : s.noteActor c o = none) (hn : s.cfg.notes[n] = some r) :
    s.clearNote c o n = .check (levelTest o (s.mayClear r)) (.accept (s.emptyNote n) [byteOf n.val]) := by
  unfold State.clearNote
  rw [ha, hn]
  rfl

theorem mayClear_iff : s.mayClear r op = true ↔ r.author = some op ∨ 3 ≤ s.effectiveLevel op r.area := by
  simp [State.mayClear]

end Notes

/-- Settles O52. -/
theorem notesAreEnteredAndCleared : Obligations.NotesAreEnteredAndCleared := by
  refine ⟨fun s n => lowestFreeNote_iff, noteText_eq,
    fun seq w x y text c o a k s hl hw hx hy ht hc ho => ?_,
    fun seq w x y z text c o a k n s hl hw hx hy ht hz => ⟨fun hn hc => ?_, ?_⟩,
    fun seq w x c o n s hl hw hx hc ho => ?_⟩
  · have hexec := exec_noteEnter (seq := seq) (s := s) hw hx hy ht
    have ha : s.plantHunting.noteActor c o = none := noteActor_none hc fun op h => (ho op h).1
    have hv := enterNote_entitled (s := s.plantHunting) (k := k) (text := text) ha fun op h => (ho op h).2
    refine ⟨fun he => ?_, fun he hf => ?_, fun n he hn => ?_⟩
    · exact request_refuses hexec hl (hv.trans (check_fail _ _ (by rw [he]; exact Bool.false_ne_true)))
    · have hnone : s.plantHunting.lowestFreeNote = none := by
        unfold State.lowestFreeNote
        rw [lowestWhere_none]
        exact fun m => by rw [Option.isNone_eq_false_iff, Option.isSome_iff_ne_none]; exact hf m
      refine request_refuses hexec hl (hv.trans ((check_pass _ _ (by simpa using he)).trans ?_))
      rw [hnone]
      rfl
    · have hlow : s.plantHunting.lowestFreeNote = some n := hn
      have hv' := hv.trans (check_pass _ _ (by simpa using he))
      rw [hlow] at hv'
      obtain ⟨t, ht, -, hend, hacc⟩ := request_accepts (storeParts ++ [.handovers]) hexec hl hv'
        (changesOnly_mono (putNote_changesOnly s.plantHunting n _) (by decide)) (by decide)
      refine ⟨t, ht, congrArg Settings.notes hend.cfg, ?_,
        listsAre_of_hasTable hend.hasTable (putNote_lists s.plantHunting n _), hend.stored rfl rfl,
        hend.marks _ (putNote_marked _ n _), hacc⟩
      rw [hend.cfg]
      rfl
  · subst hn
    exact ⟨request_refuses (exec_noteEnter hw hx hy ht) hl (enterNote_refused (noteActor_locked (s := s.plantHunting) hc)),
      request_refuses (exec_noteClear hw hz) hl (clearNote_refused (noteActor_locked (s := s.plantHunting) hc))⟩
  · rintro op rfl
    refine ⟨fun ha => ?_, fun q ha hq => ?_, fun ha hlow => ?_⟩
    · have hn : s.plantHunting.noteActor c (some op) = some .notStaffed := pairRefusal_unstaffed (s := s) ha
      exact ⟨request_refuses (exec_noteEnter hw hx hy ht) hl (enterNote_refused hn),
        request_refuses (exec_noteClear hw hz) hl (clearNote_refused hn)⟩
    · have hn : s.plantHunting.noteActor c (some op) = some .notInCharge := pairRefusal_other (s := s) ha hq
      exact ⟨request_refuses (exec_noteEnter hw hx hy ht) hl (enterNote_refused hn),
        request_refuses (exec_noteClear hw hz) hl (clearNote_refused hn)⟩
    · have hn : s.plantHunting.noteActor c (some op) = none := pairRefusal_of_attached (s := s) ha
      exact request_refuses (exec_noteEnter hw hx hy ht) hl (enterNote_low hn rfl hlow)
  · have ha : s.plantHunting.noteActor c o = none := noteActor_none hc ho
    have hexec := exec_noteClear (seq := seq) (s := s) hw hx
    refine ⟨fun hn => request_refuses hexec hl (clearNote_empty ha hn), fun r hr => ⟨fun h => ?_, fun h => ?_⟩⟩
    · obtain ⟨op, hop, hauthor, hlow⟩ := h
      refine request_refuses hexec hl ((clearNote_held ha hr).trans ?_)
      rw [levelTest_low (meets := s.plantHunting.mayClear r) hop fun hm => (mayClear_iff.1 hm).elim hauthor fun h3 => absurd hlow (Fin.not_lt.2 h3)]
      rfl
    · have hv := clearNote_held (s := s.plantHunting) ha hr
      rw [levelTest_none (meets := s.plantHunting.mayClear r) fun op hop => mayClear_iff.2 (h op hop)] at hv
      obtain ⟨t, ht, -, hend, hacc⟩ := request_accepts (storeParts ++ [.handovers]) hexec hl hv
        (changesOnly_mono (emptyNote_changesOnly s.plantHunting n) (by decide)) (by decide)
      exact ⟨t, ht, hend.cfg, listsAre_of_hasTable hend.hasTable (emptyNote_lists s.plantHunting n), hend.stored rfl rfl,
        hend.marks _ (emptyNote_marked _ n), hacc⟩

end Sys2Proof.Machine
end

section
/-! MOVE_AREA settled (1.3): its checks in their order, and the area that moves. -/

namespace Sys2Proof.Machine

section MoveArea

variable {seq x x1 x2 : Byte} {w : Acting} {c : Console} {o : Option Operator} {a : Area} {y z : Option Console}
  {s : State}

theorem exec_moveArea (hw : decodeEngineer w = some (c, o)) (hx : decodeNumber 12 x = some a)
    (h1 : decodeOwner x1 = some y) (h2 : decodeOwner x2 = some z) :
    exec (.moveArea seq w x x1 x2) s = request 0x23 seq (some fun v => v.moveAreaDecided c o a y z) s := by
  show execMoveArea seq w x x1 x2 s = _
  unfold execMoveArea
  rw [hw, hx, h1, h2]
  rfl

/-! ### The checks (R6 to R8) -/

theorem handoverFree_iff (s : State) (y : Option Console) :
    s.handoverFree y = true ↔ ∀ d, y = some d → s.handovers[d].phase.active = false := by
  cases y <;> simp [State.handoverFree]

theorem newOwnerQualified_iff (s : State) (a : Area) (y : Option Console) : s.newOwnerQualified a y = true ↔
    ∀ d op, y = some d → s.attachedAt d = some op → 2 ≤ s.effectiveLevel op a := by
  unfold State.newOwnerQualified
  cases y with
  | none => simp
  | some d =>
    dsimp only
    cases ha : s.attachedAt d with
    | none => exact ⟨fun _ e op he h => (by cases he; cases ha.symm.trans h), fun _ => rfl⟩
    | some q =>
      rw [decide_eq_true_iff]
      exact ⟨fun h e op he h' => (by cases he; cases ha.symm.trans h'; exact h), fun h => h d q rfl ha⟩

theorem desksFree_iff (s : State) (a : Area) (y : Option Console) :
    (s.handoverFree s.cfg.areas[a].owner && s.handoverFree y) = true ↔
      ¬∃ d, (s.cfg.areas[a].owner = some d ∨ y = some d) ∧ s.handovers[d].phase.active = true := by
  rw [Bool.and_eq_true, handoverFree_iff, handoverFree_iff]
  constructor
  · rintro ⟨h1, h2⟩ ⟨d, hd | hd, ha⟩
    · rw [h1 d hd] at ha
      cases ha
    · rw [h2 d hd] at ha
      cases ha
  · intro h
    exact ⟨fun d hd => Bool.eq_false_iff.2 fun ha => h ⟨d, .inl hd, ha⟩,
      fun d hd => Bool.eq_false_iff.2 fun ha => h ⟨d, .inr hd, ha⟩⟩

theorem moveArea_unauthorised (h : ¬s.mayEngineer c o fun op => s.effectiveLevel op a = 4) :
    s.moveRefusal c o a y z = some .noAuthority :=
  firstRefusal_fail _ (mt (engineer_congr s c o fun op => supervisorIn_iff s op a).1 h)

section Allowed

variable (h : s.mayEngineer c o fun op => s.effectiveLevel op a = 4)

include h

theorem moveArea_authorised : s.moveRefusal c o a y z = firstRefusal
    [(y.isNone || y != z, .badValue), (s.handoverFree s.cfg.areas[a].owner && s.handoverFree y, .handoverBusy),
      (s.newOwnerQualified a y, .notQualified)] :=
  firstRefusal_pass _ ((engineer_congr s c o fun op => supervisorIn_iff s op a).2 h)

theorem moveArea_twice (hy : y.isSome = true) (hz : y = z) : s.moveRefusal c o a y z = some .badValue := by
  refine (moveArea_authorised h).trans (firstRefusal_fail _ ?_)
  cases y with
  | none => cases hy
  | some d => simp [← hz]

variable (hd : y = none ∨ y ≠ z)

include hd

theorem moveArea_distinct : s.moveRefusal c o a y z = firstRefusal
    [(s.handoverFree s.cfg.areas[a].owner && s.handoverFree y, .handoverBusy),
      (s.newOwnerQualified a y, .notQualified)] := by
  refine (moveArea_authorised h).trans (firstRefusal_pass _ ?_)
  rcases hd with rfl | hd
  · rfl
  · simp [hd]

theorem moveArea_busy
    (hb : ∃ d, (s.cfg.areas[a].owner = some d ∨ y = some d) ∧ s.handovers[d].phase.active = true) :
    s.moveRefusal c o a y z = some .handoverBusy :=
  (moveArea_distinct h hd).trans (firstRefusal_fail _ fun hf => (desksFree_iff s a y).1 hf hb)

theorem moveArea_idle
    (hb : ¬∃ d, (s.cfg.areas[a].owner = some d ∨ y = some d) ∧ s.handovers[d].phase.active = true) :
    s.moveRefusal c o a y z = firstRefusal [(s.newOwnerQualified a y, .notQualified)] :=
  (moveArea_distinct h hd).trans (firstRefusal_pass _ ((desksFree_iff s a y).2 hb))

end Allowed

/-! ### The move (R9, R12, R13, R109) -/

theorem moveAreaDecided_refused {r : Reason} (h : s.moveRefusal c o a y z = some r) :
    s.moveAreaDecided c o a y z = .refuse r := by
  unfold State.moveAreaDecided
  rw [h]
  rfl

theorem moveAreaDecided_allowed (h : s.moveRefusal c o a y z = none) : s.moveAreaDecided c o a y z =
    if s.cfg.areas[a].owner = y ∧ s.cfg.areas[a].fallback = z
      then .unchanged [byteOf a.val, byteOf (consoleCode y), byteOf (consoleCode z)]
      else .accept (s.moveArea a y z) [byteOf a.val, byteOf (consoleCode y), byteOf (consoleCode z)] := by
  unfold State.moveAreaDecided
  rw [h, console_byte, console_byte]
  rfl

/-- The state of a move before its flags are derived. -/
def State.relocated (s : State) (a : Area) (y z : Option Console) : State :=
  (s.setArea a fun k => { k with owner := y, fallback := z }).rerouteStep

/-- The consoles whose flags a move derives. -/
def State.ownersOf (s : State) (a : Area) (y : Option Console) : List Console :=
  if s.cfg.areas[a].owner = y then [] else s.cfg.areas[a].owner.toList ++ y.toList

theorem mem_ownersOf (d : Console) : d ∈ s.ownersOf a y ↔
    s.cfg.areas[a].owner ≠ y ∧ (s.cfg.areas[a].owner = some d ∨ y = some d) := by
  unfold State.ownersOf
  split
  · next h => exact ⟨fun hm => absurd hm List.not_mem_nil, fun hm => absurd h hm.1⟩
  · next h => rw [List.mem_append, Option.mem_toList, Option.mem_toList]; exact (and_iff_right h).symm

/-- The state of a move with its flags. -/
def State.rederived (s : State) (a : Area) (y z : Option Console) : State :=
  if s.cfg.areas[a].owner = y then s.relocated a y z else (s.relocated a y z).requalify (s.ownersOf a y)

theorem moveArea_eq (s : State) (a : Area) (y z : Option Console) :
    s.moveArea a y z = ((s.rederived a y z).markAll [.area a]).storeWrite := by
  unfold State.moveArea State.rederived State.ownersOf State.relocated
  dsimp only
  split <;> rfl

theorem rederived_changesOnly (s : State) (a : Area) (y z : Option Console) :
    changesOnly (s.relocated a y z) (s.rederived a y z) [.flags, .changes] := by
  unfold State.rederived
  split
  · exact changesOnly_refl _ _
  · exact requalify_changesOnly _ _

theorem rederived_only (s : State) (a : Area) (y z : Option Console) :
    changesOnly s ((s.rederived a y z).markAll [.area a]) [.settings, .routes, .table, .flags, .changes] :=
  changesOnly_mono (changesOnly_trans (changesOnly_trans (changesOnly_trans (setArea_changesOnly s a _)
    (rerouteStep_changesOnly _)) (rederived_changesOnly s a y z)) (changesOnly_markAll _ _)) (by decide)

theorem moveArea_changesOnly (s : State) (a : Area) (y z : Option Console) :
    changesOnly s (s.moveArea a y z) ([.routes, .table, .flags, .changes] ++ storeParts) := by
  rw [moveArea_eq]
  exact changesOnly_mono (changesOnly_trans (rederived_only s a y z) (changesOnly_storeWrite _)) (by decide)

theorem moveArea_derived (s : State) (a : Area) (y z : Option Console) (d : Console) :
    (s.moveArea a y z).deriveUnderQualified d = (s.relocated a y z).deriveUnderQualified d := by
  have hr : (s.rederived a y z).deriveUnderQualified d = (s.relocated a y z).deriveUnderQualified d := by
    unfold State.rederived
    split
    · rfl
    · exact requalify_derived _ _ _
  rw [moveArea_eq, ← hr]
  exact deriveUnderQualified_congr (by rw [State.storeWrite_consoles, State.markAll_consoles])
    (by rw [State.storeWrite_cfg, State.markAll_cfg]) (by rw [State.storeWrite_day, State.markAll_day])

theorem rederived_at (s : State) (a : Area) (y z : Option Console) (d : Console) :
    (s.rederived a y z).consoles[d] = { s.consoles[d] with
      underQualified := if d ∈ s.ownersOf a y then (s.relocated a y z).deriveUnderQualified d
        else s.consoles[d].underQualified } := by
  have hcons : (s.relocated a y z).consoles = s.consoles := State.rerouteStep_consoles ..
  by_cases h : s.cfg.areas[a].owner = y
  · have hnil : d ∉ s.ownersOf a y := fun hm => ((mem_ownersOf d).1 hm).1 h
    have he : s.rederived a y z = s.relocated a y z := if_pos h
    rw [he, hcons, if_neg hnil]
  · have he : s.rederived a y z = (s.relocated a y z).requalify (s.ownersOf a y) := if_neg h
    rw [he, requalify_at, hcons]

theorem moveArea_at (s : State) (a : Area) (y z : Option Console) (d : Console) :
    (s.moveArea a y z).consoles[d] = { s.consoles[d] with
      underQualified := if d ∈ s.ownersOf a y then (s.moveArea a y z).deriveUnderQualified d
        else s.consoles[d].underQualified } := by
  rw [moveArea_derived, moveArea_eq, State.storeWrite_consoles, State.markAll_consoles, rederived_at]

theorem moveArea_rerouted {s t : State} {a : Area} {y z : Option Console} (h : Concludes (s.moveArea a y z) t) :
    rerouted s t := by
  have hflags := rederived_changesOnly s a y z
  have hsame : (s.relocated a y z).SameRecords (s.moveArea a y z) := by
    rw [moveArea_eq]
    exact (sameRecords_of_only hflags).trans ((markAll_sameRecords _ _).trans (storeWrite_sameRecords _))
  refine h.rerouted_step (v := s.setArea a fun k => { k with owner := y, fallback := z }) ⟨rfl, rfl, rfl, fun _ => rfl⟩
    hsame fun b => ?_
  have hdesk : (s.relocated a y z).sameDesks (s.moveArea a y z) := fun d => by
    rw [moveArea_eq, deskAt_storeWrite, deskAt_markAll]
    unfold State.rederived
    split
    · rfl
    · exact deskAt_requalify _ _ _
  refine (routeOf_same ?_ hdesk b).trans (routeOf_rerouteStep _ b)
  rw [moveArea_eq, State.storeWrite_cfg, State.markAll_cfg, hflags .settings (by decide)]

end MoveArea

/-- Settles O42: the four checks in their order, then the move with one store write. -/
theorem moveAreaReroutes : Obligations.MoveAreaReroutes := by
  refine ⟨fun seq w x x1 x2 c o a y z s may busy hl hw hx h1 h2 hmay hbusy => ?_,
    fun seq w x x1 x2 c o a y z s hl hw hx h1 h2 hn => ?_⟩
  · have hexec := exec_moveArea (seq := seq) (s := s) hw hx h1 h2
    refine ⟨fun hm => ?_, fun hm hy hz => ?_, fun hm hd hb => ?_, fun hm hd hb hlow => ?_, fun hm hd hb hq => ?_⟩
    · exact request_refuses hexec hl (moveAreaDecided_refused (s := s.plantHunting) (moveArea_unauthorised (mt hmay.2 hm)))
    · exact request_refuses hexec hl
        (moveAreaDecided_refused (s := s.plantHunting) (moveArea_twice (hmay.1 hm) hy hz))
    · exact request_refuses hexec hl
        (moveAreaDecided_refused (s := s.plantHunting) (moveArea_busy (hmay.1 hm) hd (hbusy.1 hb)))
    · refine request_refuses hexec hl (moveAreaDecided_refused (s := s.plantHunting)
        ((moveArea_idle (s := s) (hmay.1 hm) hd (mt hbusy.2 hb)).trans (firstRefusal_fail _ fun hq => ?_)))
      obtain ⟨d, op, hy, ha, hlow⟩ := hlow
      exact absurd hlow (Fin.not_lt.2 ((newOwnerQualified_iff s a y).1 hq d op hy ha))
    · exact (moveArea_idle (hmay.1 hm) hd (mt hbusy.2 hb)).trans
        (firstRefusal_pass _ ((newOwnerQualified_iff s a y).2 hq))
  · have hexec := exec_moveArea (seq := seq) (s := s) hw hx h1 h2
    have hv := moveAreaDecided_allowed (s := s.plantHunting) hn
    refine ⟨fun hy hz => request_unchanged hexec hl (hv.trans (if_pos ⟨hy, hz⟩)), fun hne => ?_⟩
    have hchange : ¬(s.plantHunting.cfg.areas[a].owner = y ∧ s.plantHunting.cfg.areas[a].fallback = z) :=
      fun h => hne.elim (fun hy => hy h.1) fun hz => hz h.2
    obtain ⟨t, ht, -, hend, hacc⟩ := request_accepts (storeParts ++ [.table, .routes, .flags]) hexec hl
      (hv.trans (if_neg hchange)) (changesOnly_mono (moveArea_changesOnly s.plantHunting a y z) (by decide)) (by decide)
    have hat (d : Console) := moveArea_at s.plantHunting a y z d
    refine ⟨t, ht, ?_, moveArea_rerouted (s := s.plantHunting) hend, ?_, hend.marks _ ?_, fun d => ⟨?_, ?_⟩, hacc⟩
    · rw [hend.cfg]
      exact moveArea_cfg s.plantHunting a y z
    · have hend' := hend
      rw [moveArea_eq] at hend'
      have honly := rederived_only s.plantHunting a y z
      exact hend'.stored (honly .store (by decide)) (honly .draws (by decide))
    · rw [moveArea_eq]
      exact markAll_marked _ (by simp)
    · rw [hend.hornFault, hat]
      rfl
    · rw [hend.underQualified, hend.deriveUnderQualified, hat]
      simp only [mem_ownersOf]
      rfl

end Sys2Proof.Machine
end

section
/-! ROSTER_SUSPEND, ROSTER_RESTORE and ROSTER_RETIRE settled (7.5). -/

namespace Sys2Proof.Machine

section RosterEdits

variable {seq x : Byte} {w : Acting} {c d : Console} {o : Option Operator} {slot : Operator} {r : OperatorRecord}
  {s t : State}

theorem exec_rosterSuspend (hw : decodeEngineer w = some (c, o)) (hx : decodeOperator x = some slot) :
    exec (.rosterSuspend seq w x) s = request 0x29 seq (some fun v => v.suspendSlot c o slot) s := by
  show execRosterSuspend seq w x s = _
  unfold execRosterSuspend onRosterSlot
  rw [hw, hx]
  rfl

theorem exec_rosterRestore (hw : decodeEngineer w = some (c, o)) (hx : decodeOperator x = some slot) :
    exec (.rosterRestore seq w x) s = request 0x2A seq (some fun v => v.restoreSlot c o slot) s := by
  show execRosterRestore seq w x s = _
  unfold execRosterRestore onRosterSlot
  rw [hw, hx]
  rfl

theorem exec_rosterRetire (hw : decodeEngineer w = some (c, o)) (hx : decodeOperator x = some slot) :
    exec (.rosterRetire seq w x) s = request 0x2B seq (some fun v => v.retireSlot c o slot) s := by
  show execRosterRetire seq w x s = _
  unfold execRosterRetire onRosterSlot
  rw [hw, hx]
  rfl

/-! ### The checks (R126, R127, R130 to R132) -/

theorem mem_rosterEditAreas (s : State) (slot : Operator) (a : Area) :
    a ∈ s.rosterEditAreas slot ↔ ∃ r ∈ s.cfg.roster[slot], r.grants[a] ≠ 0 := by
  unfold State.rosterEditAreas
  cases s.cfg.roster[slot] <;> simp

theorem mayEdit_iff : s.mayEdit c o slot = true ↔ s.mayEditSlot c o slot :=
  engineer_congr s c o fun op => levelInAll_levelIn (mem_rosterEditAreas s slot) op 4

theorem hasStatus_iff (h : s.cfg.roster[slot] = some r) (k : OperatorStatus) :
    s.hasStatus slot k = true ↔ r.status = k := by
  unfold State.hasStatus
  rw [h]
  exact beq_iff_eq

theorem edits_unauthorised (h : ¬s.mayEditSlot c o slot) : s.suspendSlot c o slot = .refuse .noAuthority ∧
    s.restoreSlot c o slot = .refuse .noAuthority ∧ s.retireSlot c o slot = .refuse .noAuthority :=
  ⟨check_fail _ _ (mt mayEdit_iff.1 h), check_fail _ _ (mt mayEdit_iff.1 h), check_fail _ _ (mt mayEdit_iff.1 h)⟩

section Authorised

variable (h : s.mayEditSlot c o slot)

include h

theorem edits_empty (hr : s.cfg.roster[slot] = none) : s.suspendSlot c o slot = .refuse .badValue ∧
    s.restoreSlot c o slot = .refuse .badValue ∧ s.retireSlot c o slot = .refuse .alreadyDone := by
  have hn : ¬(s.cfg.roster[slot]).isSome = true := by rw [hr]; exact Bool.false_ne_true
  exact ⟨(check_pass _ _ (mayEdit_iff.2 h)).trans (check_fail _ _ hn),
    (check_pass _ _ (mayEdit_iff.2 h)).trans (check_fail _ _ hn),
    (check_pass _ _ (mayEdit_iff.2 h)).trans (check_fail _ _ hn)⟩

variable (hr : s.cfg.roster[slot] = some r)

include hr

theorem suspendSlot_held : s.suspendSlot c o slot = .check (firstRefusal [(s.hasStatus slot .active, .alreadyDone)])
    (.accept (s.suspend slot) [operatorByte (some slot)]) :=
  (check_pass _ _ (mayEdit_iff.2 h)).trans (check_pass _ _ (by rw [hr]; rfl))

theorem restoreSlot_held : s.restoreSlot c o slot =
    .check (firstRefusal [(s.hasStatus slot .suspended, .alreadyDone)])
      (.accept (s.restore slot) [operatorByte (some slot)]) :=
  (check_pass _ _ (mayEdit_iff.2 h)).trans (check_pass _ _ (by rw [hr]; rfl))

theorem retireSlot_held : s.retireSlot c o slot = .check (firstRefusal [(s.placeOf slot == .none, .inSession)])
    (.accept (s.retire slot) [operatorByte (some slot)]) :=
  (check_pass _ _ (mayEdit_iff.2 h)).trans (check_pass _ _ (by rw [hr]; rfl))

end Authorised

theorem placeOf_none_iff : s.placeOf slot = .none ↔ ∀ d : Console,
    s.consoles[d].session.inCharge ≠ some slot ∧ s.handovers[d].phase.incoming ≠ some slot := by
  rcases placeOf_cases s slot with ⟨e, he, hp⟩ | ⟨hn, ⟨e, he, hp⟩ | ⟨hm, hp⟩⟩
  · rw [hp]
    exact ⟨fun h => (by cases h), fun h => absurd he (h e).1⟩
  · rw [hp]
    exact ⟨fun h => (by cases h), fun h => absurd he (h e).2⟩
  · exact ⟨fun _ d => ⟨hn d, hm d⟩, fun _ => hp⟩

/-! ### The suspension (R130) -/

/-- The state of a suspension before its sessions end: the status stored, the handovers aborted. -/
def State.withdrawn (s : State) (slot : Operator) : State :=
  (s.handoversOf slot).foldl (fun t c => t.abortHandover c .suspended) (s.setStatus slot .suspended)

theorem suspend_eq (s : State) (slot : Operator) : s.suspend slot =
    (((s.withdrawn slot).endSuspended (s.consolesOf slot)).markAll [.operator slot]).storeWrite := rfl

theorem abortAll_changesOnly (l : List Console) (x : HandoverOutcome) (s : State) :
    changesOnly s (l.foldl (fun t c => t.abortHandover c x) s) [.handovers, .changes] := by
  induction l generalizing s with
  | nil => exact changesOnly_refl s _
  | cons c l ih => exact changesOnly_mono (changesOnly_trans (abortHandover_changesOnly s c x) (ih _)) (by decide)

theorem setStatus_changesOnly (s : State) (slot : Operator) (k : OperatorStatus) :
    changesOnly s (s.setStatus slot k) [.settings] := setRoster_changesOnly s slot _

theorem withdrawn_changesOnly (s : State) (slot : Operator) :
    changesOnly s (s.withdrawn slot) [.settings, .handovers, .changes] :=
  changesOnly_trans (setStatus_changesOnly s slot _) (abortAll_changesOnly _ _ _)

theorem dropSuspended_at (v : State) (l : List Console) (d : Console) : (v.dropSuspended l).consoles[d] =
    if d ∈ l then v.consoles[d].ended .suspended else v.consoles[d] := by
  unfold State.dropSuspended
  simp only [State.markAll_consoles, Fin.getElem_fin, Vector.getElem_ofFn, List.contains_iff_mem]
  rfl

theorem dropSuspended_changesOnly (v : State) (l : List Console) :
    changesOnly v (v.dropSuspended l) [.sessions, .flags, .changes] := by
  intro p hp
  have hk (d : Console) := dropSuspended_at v l d
  cases p
  case sessions | flags | changes => simp at hp
  case links | results | telegrams | loads | horns =>
    intro d
    rw [hk]
    split <;> rfl
  all_goals rfl

theorem endSuspended_nil (v : State) : v.endSuspended [] = v := rfl

theorem endSuspended_some (v : State) {l : List Console} (h : l ≠ []) :
    v.endSuspended l = (v.dropSuspended l).rerouteStep.markAll (l.map Ref.console) :=
  if_neg (mt List.isEmpty_iff.1 h)

theorem endSuspended_changesOnly (v : State) (l : List Console) :
    changesOnly v (v.endSuspended l) [.sessions, .flags, .routes, .table, .changes] := by
  by_cases h : l = []
  · rw [h, endSuspended_nil]
    exact changesOnly_refl v _
  · rw [endSuspended_some v h]
    exact changesOnly_mono (changesOnly_trans (changesOnly_trans (dropSuspended_changesOnly v l)
      (rerouteStep_changesOnly _)) (changesOnly_markAll _ _)) (by decide)

theorem endSuspended_at (v : State) (l : List Console) (d : Console) : (v.endSuspended l).consoles[d] =
    if d ∈ l then v.consoles[d].ended .suspended else v.consoles[d] := by
  by_cases h : l = []
  · rw [h, endSuspended_nil, if_neg List.not_mem_nil]
  · rw [endSuspended_some v h, State.markAll_consoles, State.rerouteStep_consoles, dropSuspended_at]

theorem suspended_changesOnly (s : State) (slot : Operator) :
    changesOnly s (((s.withdrawn slot).endSuspended (s.consolesOf slot)).markAll [.operator slot])
      [.settings, .handovers, .sessions, .flags, .routes, .table, .changes] :=
  changesOnly_mono (changesOnly_trans (changesOnly_trans (withdrawn_changesOnly s slot) (endSuspended_changesOnly _ _))
    (changesOnly_markAll _ _)) (by decide)

theorem suspend_changesOnly (s : State) (slot : Operator) : changesOnly s (s.suspend slot)
    ([.handovers, .sessions, .flags, .routes, .table, .changes] ++ storeParts) := by
  rw [suspend_eq]
  exact changesOnly_mono (changesOnly_trans (suspended_changesOnly s slot) (changesOnly_storeWrite _)) (by decide)

theorem mem_consolesOf : d ∈ s.consolesOf slot ↔ s.consoles[d].session.inCharge = some slot := by
  simp [State.consolesOf]

theorem mem_handoversOf : d ∈ s.handoversOf slot ↔
    s.handovers[d].phase.outgoing = some slot ∨ s.handovers[d].phase.incoming = some slot := by
  simp [State.handoversOf]

theorem withdrawn_consoles (s : State) (slot : Operator) : (s.withdrawn slot).consoles = s.consoles := by
  have keep : ∀ (l : List Console) (v : State),
      (l.foldl (fun t c => t.abortHandover c .suspended) v).consoles = v.consoles := by
    intro l
    induction l with
    | nil => exact fun v => rfl
    | cons c l ih => exact fun v => (ih _).trans (State.abortHandover_consoles v c _)
  exact keep _ _

theorem suspend_at (s : State) (slot : Operator) (d : Console) : (s.suspend slot).consoles[d] =
    if s.consoles[d].session.inCharge = some slot then s.consoles[d].ended .suspended else s.consoles[d] := by
  rw [suspend_eq, State.storeWrite_consoles, State.markAll_consoles, endSuspended_at, withdrawn_consoles]
  exact if_congr mem_consolesOf rfl rfl

theorem suspend_handover (s : State) (slot : Operator) (d : Console) : (s.suspend slot).handovers[d] =
    if s.handovers[d].phase.outgoing = some slot ∨ s.handovers[d].phase.incoming = some slot then
      { phase := .none, lastOutcome := some .suspended }
    else s.handovers[d] := by
  have h := congrArg Desk.handover (deskAt_suspend s d slot)
  dsimp only at h
  have hd : (if d ∈ s.handoversOf slot then (s.deskAt d).aborted .suspended else s.deskAt d).handover =
      if s.handovers[d].phase.outgoing = some slot ∨ s.handovers[d].phase.incoming = some slot then
        { phase := .none, lastOutcome := some .suspended }
      else s.handovers[d] := by
    by_cases hm : s.handovers[d].phase.outgoing = some slot ∨ s.handovers[d].phase.incoming = some slot
    · rw [if_pos hm, if_pos (mem_handoversOf.2 hm), Desk.aborted_of_phase (d := s.deskAt d) fun hn => ?_]
      rw [show s.handovers[d].phase = .none from hn] at hm
      simp [Phase.outgoing, Phase.incoming] at hm
    · rw [if_neg hm, if_neg (mt mem_handoversOf.1 hm)]
      rfl
  rw [← hd]
  refine h.trans ?_
  split <;> rfl

theorem routeOf_storeWrite (v : State) (a : Area) : v.storeWrite.routeOf a = v.routeOf a := rfl

theorem suspend_rerouted (hd : ∃ d : Console, s.consoles[d].session.inCharge = some slot)
    (h : Concludes (s.suspend slot) t) : rerouted s t := by
  have hne : s.consolesOf slot ≠ [] := by
    obtain ⟨d, hd⟩ := hd
    exact List.ne_nil_of_mem (mem_consolesOf.2 hd)
  have he : s.suspend slot = ((((s.withdrawn slot).dropSuspended (s.consolesOf slot)).rerouteStep.markAll
      ((s.consolesOf slot).map Ref.console)).markAll [.operator slot]).storeWrite := by
    rw [suspend_eq, endSuspended_some _ hne]
  have hs := changesOnly_trans (withdrawn_changesOnly s slot) (dropSuspended_changesOnly _ (s.consolesOf slot))
  rw [he] at h
  refine h.rerouted_step (sameRecords_of_only hs) ?_ fun a => ?_
  · exact (markAll_sameRecords _ _).trans ((markAll_sameRecords _ _).trans (storeWrite_sameRecords _))
  · rw [routeOf_storeWrite, routeOf_markAll, routeOf_markAll, routeOf_rerouteStep]

theorem suspend_routesStand (hd : ∀ d : Console, s.consoles[d].session.inCharge ≠ some slot)
    (h : Concludes (s.suspend slot) t) : routesStand s t := by
  have hnil : s.consolesOf slot = [] := List.eq_nil_iff_forall_not_mem.2 fun d hm => hd d (mem_consolesOf.1 hm)
  have hu := changesOnly_trans (changesOnly_trans (withdrawn_changesOnly s slot) (changesOnly_markAll _ [.operator slot]))
    (changesOnly_storeWrite _)
  rw [suspend_eq, hnil, endSuspended_nil] at h
  exact ⟨h.same (by decide) (hu .routes (by decide)), h.same (by decide) (hu .table (by decide))⟩

/-! ### Restoring and retiring (R131, R132) -/

theorem restore_changesOnly (s : State) (slot : Operator) :
    changesOnly s (s.restore slot) (.changes :: storeParts) :=
  changesOnly_mono (changesOnly_trans (changesOnly_trans (setStatus_changesOnly s slot _) (changesOnly_markAll _ _))
    (changesOnly_storeWrite _)) (by decide)

theorem setStatus_cfg (h : s.cfg.roster[slot] = some r) (k : OperatorStatus) : (s.setStatus slot k).cfg =
    { s.cfg with roster := s.cfg.roster.set slot.val (some { r with status := k }) slot.isLt } := by
  unfold State.setStatus
  rw [h]
  rfl

theorem dropAuthor_changesOnly (s : State) (slot : Operator) :
    changesOnly s (s.dropAuthor slot) [.settings, .changes] := by
  intro p hp
  cases p <;> simp_all [State.same, sameAt, State.dropAuthor]

theorem retired_changesOnly (s : State) (slot : Operator) :
    changesOnly s (((s.setRoster slot none).dropAuthor slot).markAll [.operator slot]) [.settings, .changes] :=
  changesOnly_mono (changesOnly_trans (changesOnly_trans (setRoster_changesOnly s slot none)
    (dropAuthor_changesOnly _ slot)) (changesOnly_markAll _ _)) (by decide)

theorem retire_changesOnly (s : State) (slot : Operator) :
    changesOnly s (s.retire slot) (.changes :: storeParts) :=
  changesOnly_mono (changesOnly_trans (retired_changesOnly s slot) (changesOnly_storeWrite _)) (by decide)

theorem writtenBy_iff (s : State) (slot : Operator) (n : Note) :
    s.writtenBy slot n = true ↔ ∃ k, s.cfg.notes[n] = some k ∧ k.author = some slot := by
  unfold State.writtenBy
  cases s.cfg.notes[n] <;> simp

/-- The notes of a slot that leaves the roster keep no author. -/
theorem orphaned_at (s : State) (slot : Operator) (n : Note) : (s.orphaned slot)[n] = s.cfg.notes[n].map fun k =>
    if k.author = some slot then { k with author := none } else k := by
  have hat : (s.orphaned slot)[n] =
      if s.writtenBy slot n then s.cfg.notes[n].map fun k => { k with author := none } else s.cfg.notes[n] := by
    simp [State.orphaned]
  rw [hat]
  cases hn : s.cfg.notes[n] with
  | none => exact ite_self _
  | some k =>
    by_cases ha : k.author = some slot
    · rw [if_pos ((writtenBy_iff s slot n).2 ⟨k, hn, ha⟩), Option.map_some, Option.map_some, if_pos ha]
    · have hw : ¬s.writtenBy slot n = true := fun h => by
        obtain ⟨q, hq, hqa⟩ := (writtenBy_iff s slot n).1 h
        exact ha (Option.some.inj (hn.symm.trans hq) ▸ hqa)
      rw [if_neg hw, Option.map_some, if_neg ha]

end RosterEdits

/-- Settles O45. -/
theorem rosterEditsTakeEffect : Obligations.RosterEditsTakeEffect := by
  refine ⟨fun seq w x c o slot r s hl hw hx hm hr => ⟨fun hs => ?_, fun hs => ?_, fun hf => ?_⟩,
    fun seq w x c o slot s hl hw hx => ⟨fun hm => ?_, fun hm hr => ?_,
      fun r hm hr => ⟨fun hs => ?_, fun hs => ?_, fun hf => ?_⟩⟩⟩
  · have hv := (suspendSlot_held (s := s.plantHunting) hm hr).trans
      (check_pass _ _ ((hasStatus_iff (s := s.plantHunting) hr _).2 hs))
    obtain ⟨t, ht, -, hend, hacc⟩ := request_accepts (storeParts ++ [.handovers, .sessions, .flags, .routes, .table])
      (exec_rosterSuspend (seq := seq) hw hx) hl hv
      (changesOnly_mono (suspend_changesOnly s.plantHunting slot) (by decide)) (by decide)
    have hat (d : Console) := suspend_at s.plantHunting slot d
    have honly := suspended_changesOnly s.plantHunting slot
    refine ⟨t, ht, ?_, hend.stored (honly .store (by decide)) (honly .draws (by decide)),
      hend.marks _ (markAll_marked _ (by simp)), fun d => ?_, fun d => ⟨fun hd => ?_, fun hd => ?_, ?_⟩,
      fun hd => suspend_rerouted (s := s.plantHunting) hd hend,
      fun hd => suspend_routesStand (s := s.plantHunting) hd hend, fun d hd hoff => ?_, hacc⟩
    · rw [hend.cfg, suspend_cfg]
      exact setStatus_cfg (s := s.plantHunting) hr _
    · rw [hend.handovers]
      exact suspend_handover s.plantHunting slot d
    · have hd' := (hat d).trans (if_pos hd)
      exact ⟨by rw [hend.session, hd']; rfl, by rw [hend.lastEnd, hd']; rfl, by rw [hend.underQualified, hd']; rfl⟩
    · have hd' := (hat d).trans (if_neg hd)
      exact ⟨by rw [hend.session, hd']; rfl, by rw [hend.lastEnd, hd']; rfl, by rw [hend.underQualified, hd']; rfl⟩
    · rw [hend.hornFault, hat]
      split <;> rfl
    · have hd' := (hat d).trans (if_pos hd)
      refine everyPanelChangeIsSent.1 _ s t ht (by simp) d hoff
        (.inr (.inr ⟨fun hn => ?_, by rw [hend.session, hd']; rfl⟩))
      rw [hn] at hd
      cases hd
  · have hv := (restoreSlot_held (s := s.plantHunting) hm hr).trans
      (check_pass _ _ ((hasStatus_iff (s := s.plantHunting) hr _).2 hs))
    obtain ⟨t, ht, -, hend, hacc⟩ := request_accepts storeParts (exec_rosterRestore (seq := seq) hw hx) hl hv
      (changesOnly_mono (restore_changesOnly s.plantHunting slot) (by decide)) (by decide)
    exact ⟨t, ht, hend.cfg.trans (setStatus_cfg (s := s.plantHunting) hr _), hend.stored rfl rfl,
      hend.marks _ (markAll_marked _ (by simp)), hacc⟩
  · have hv := (retireSlot_held (s := s.plantHunting) hm hr).trans
      (check_pass _ _ (by rw [(placeOf_none_iff (s := s.plantHunting)).2 hf]; rfl))
    obtain ⟨t, ht, -, hend, hacc⟩ := request_accepts storeParts (exec_rosterRetire (seq := seq) hw hx) hl hv
      (changesOnly_mono (retire_changesOnly s.plantHunting slot) (by decide)) (by decide)
    refine ⟨t, ht, congrArg Settings.roster hend.cfg, fun n => ?_, ?_, hend.stored rfl rfl,
      hend.marks _ (markAll_marked _ (by simp)), hacc⟩
    · rw [hend.cfg]
      exact orphaned_at (s.plantHunting.setRoster slot none) slot n
    · rw [hend.cfg]
      rfl
  · obtain ⟨h1, h2, h3⟩ := edits_unauthorised (s := s.plantHunting) hm
    exact ⟨request_refuses (exec_rosterSuspend hw hx) hl h1, request_refuses (exec_rosterRestore hw hx) hl h2,
      request_refuses (exec_rosterRetire hw hx) hl h3⟩
  · obtain ⟨h1, h2, h3⟩ := edits_empty (s := s.plantHunting) hm hr
    exact ⟨request_refuses (exec_rosterSuspend hw hx) hl h1, request_refuses (exec_rosterRestore hw hx) hl h2,
      request_refuses (exec_rosterRetire hw hx) hl h3⟩
  · refine request_refuses (exec_rosterSuspend hw hx) hl ((suspendSlot_held (s := s.plantHunting) hm hr).trans
      (check_fail _ _ fun h => ?_))
    have ha := (hasStatus_iff (s := s.plantHunting) hr _).1 h
    cases hs.symm.trans ha
  · refine request_refuses (exec_rosterRestore hw hx) hl ((restoreSlot_held (s := s.plantHunting) hm hr).trans
      (check_fail _ _ fun h => ?_))
    have ha := (hasStatus_iff (s := s.plantHunting) hr _).1 h
    cases hs.symm.trans ha
  · refine request_refuses (exec_rosterRetire hw hx) hl ((retireSlot_held (s := s.plantHunting) hm hr).trans
      (check_fail _ _ fun h => ?_))
    obtain ⟨d, hd⟩ := hf
    obtain ⟨h1, h2⟩ := (placeOf_none_iff (s := s.plantHunting)).1 (beq_iff_eq.1 h) d
    exact hd.elim h1 h2

end Sys2Proof.Machine
end

section
/-! PORT_RESTART and PORT_ENABLE settled (8.10). -/

namespace Sys2Proof.Machine

/-! ### The telegrams of a console without a line (R144, R145) -/

section Telegrams

variable {s u : State} {x : Option Console} {d : Console}

theorem settling_console (s u : State) (d : Console) :
    (settling s u).consoles[d] = { u.consoles[d] with pattern := u.patternOf d } := by
  simp [settling, State.rehorn]

/-- At a DOWN console an event leaves at most a telegram that waits. -/
theorem settle_down (h : u.consoles[d].link = .down) : (settle s u x).consoles[d].inFlight = u.consoles[d].inFlight ∧
    ((settle s u x).consoles[d].pendingTelegram = u.consoles[d].pendingTelegram ∨
      (settle s u x).consoles[d].pendingTelegram = some ((settle s u x).telegramOf d)) := by
  rw [settle_eq, composeAll_telegramOf, composeAll_console, settling_console]
  split
  · unfold ConsoleRecord.compose
    dsimp only
    rw [h]
    exact ⟨rfl, .inr rfl⟩
  · exact ⟨rfl, .inl rfl⟩

/-- At an OFF console an event leaves no telegram. -/
theorem settle_off (h : u.consoles[d].link = .off) : (settle s u x).consoles[d].inFlight = u.consoles[d].inFlight ∧
    (settle s u x).consoles[d].pendingTelegram = u.consoles[d].pendingTelegram := by
  rw [settle_eq, composeAll_console, settling_console]
  split
  · unfold ConsoleRecord.compose
    dsimp only
    rw [h]
    exact ⟨rfl, rfl⟩
  · exact ⟨rfl, rfl⟩

theorem settle_results (s u : State) (x : Option Console) (d : Console) :
    (settle s u x).consoles[d].resultNumber = u.consoles[d].resultNumber ∧
      (settle s u x).consoles[d].lastResult = u.consoles[d].lastResult := by
  have h := changesOnly_settle s u x .results (by decide) d
  exact ⟨congrArg Prod.fst h, congrArg Prod.snd h⟩

theorem answer_telegramOf (v : State) (code seq : Byte) (reply : Reply) (d : Console) :
    (v.answer code seq reply).telegramOf d = v.telegramOf d := rfl

end Telegrams

/-! ### Sessions on grace (R152) -/

section Grace

variable {v : State} {d : Console}

/-- A session as the loss of its desk leaves it. -/
def Session.onGrace (x : Session) (g : Nat) : Session :=
  match x with
  | .attached o => .detached o g
  | x => x

theorem detach_at (v : State) (d e : Console) : (v.detach d).consoles[e] = if e = d then
      { v.consoles[d] with session := v.consoles[d].session.onGrace (v.partTime + 10 * v.cfg.params.graceTime) }
    else v.consoles[e] := by
  unfold State.detach
  cases h : v.consoles[d].session with
  | attached o => exact upd_get ..
  | none =>
    dsimp only [Session.onGrace]
    split
    · next he => rw [he, ← h]
    · rfl
  | detached o g =>
    dsimp only [Session.onGrace]
    split
    · next he => rw [he, ← h]
    · rfl

theorem detach_changesOnly (v : State) (d : Console) : changesOnly v (v.detach d) [.sessions, .changes] := by
  unfold State.detach
  split
  · exact changesOnly_trans (changesOnly_setConsole (l := [.sessions])
      fun p hp => by cases p <;> simp_all [ConsoleRecord.sameIn]) (changesOnly_markAll _ _)
  · exact changesOnly_refl v _

end Grace

/-! ### PORT_RESTART (R155) -/

section Restart

variable {seq x y : Byte} {w : Acting} {c d : Console} {o : Option Operator} {on : Bool} {s t : State}

theorem exec_portRestart (hw : decodeEngineer w = some (c, o)) (hx : decodeNumber 8 x = some d) :
    exec (.portRestart seq w x) s = request 0x27 seq (some fun v => v.portRestart c o d) s := by
  show execPortRestart seq w x s = _
  unfold execPortRestart
  rw [hw, hx]
  rfl

theorem portRestart_unauthorised (h : ¬s.mayEngineer c o (s.levelSomewhere · 4)) :
    s.portRestart c o d = .refuse .noAuthority :=
  check_fail _ _ (mt (engineer_congr s c o fun op => supervisorSomewhere_iff s op).1 h)

section Authorised

variable (h : s.mayEngineer c o (s.levelSomewhere · 4))

include h

theorem portRestart_off (hl : s.consoles[d].link = .off) : s.portRestart c o d = .refuse .wrongState :=
  (check_pass _ _ ((engineer_congr s c o fun op => supervisorSomewhere_iff s op).2 h)).trans
    (check_fail _ _ (by rw [hl]; decide))

theorem portRestart_on (hl : s.consoles[d].link ≠ .off) : s.portRestart c o d = .accept (s.restartPort d) [] :=
  (check_pass _ _ ((engineer_congr s c o fun op => supervisorSomewhere_iff s op).2 h)).trans
    (check_pass _ _ (by simpa using hl))

end Authorised

/-- The state of a restart before routing is re-evaluated. -/
def State.unplugged (s : State) (d : Console) : State :=
  ((s.abortHandover d .restart).setConsole d fun k => k.cleared .down).detach d

theorem restartPort_eq (s : State) (d : Console) : s.restartPort d = (s.unplugged d).rerouteStep.markAll [.console d] := rfl

theorem unplugged_changesOnly (s : State) (d : Console) : changesOnly s (s.unplugged d)
    [.links, .sessions, .flags, .results, .telegrams, .handovers, .changes] := by
  have hset : changesOnly (s.abortHandover d .restart)
      ((s.abortHandover d .restart).setConsole d fun k => k.cleared .down) [.links, .flags, .results, .telegrams] :=
    changesOnly_setConsole fun p hp => by cases p <;> simp_all [ConsoleRecord.sameIn, ConsoleRecord.cleared]
  exact changesOnly_mono (changesOnly_trans (changesOnly_trans (abortHandover_changesOnly s d _) hset)
    (detach_changesOnly _ d)) (by decide)

theorem restartPort_changesOnly (s : State) (d : Console) : changesOnly s (s.restartPort d)
    [.links, .sessions, .flags, .results, .telegrams, .handovers, .routes, .table, .changes] :=
  changesOnly_mono (changesOnly_trans (changesOnly_trans (unplugged_changesOnly s d) (rerouteStep_changesOnly _))
    (changesOnly_markAll _ _)) (by decide)

theorem restartPort_at (s : State) (d e : Console) : (s.restartPort d).consoles[e] = if e = d then
      { s.consoles[d].cleared .down with
        session := s.consoles[d].session.onGrace (s.partTime + 10 * s.cfg.params.graceTime) }
    else s.consoles[e] := by
  have hset (e : Console) : ((s.abortHandover d .restart).setConsole d fun k => k.cleared .down).consoles[e] =
      if e = d then s.consoles[d].cleared .down else s.consoles[e] := by
    have h := upd_get (s.abortHandover d .restart).consoles d e fun k => k.cleared .down
    rw [State.abortHandover_consoles] at h
    exact (congrArg (fun v => v[e]) (congrArg (fun v => upd v d fun k => k.cleared .down)
      (State.abortHandover_consoles s d .restart))).trans h
  rw [restartPort_eq, State.markAll_consoles, State.rerouteStep_consoles]
  unfold State.unplugged
  rw [detach_at, hset, hset, if_pos rfl]
  simp only [State.setConsole_partTime, State.setConsole_cfg, State.abortHandover_partTime, State.abortHandover_cfg]
  by_cases he : e = d
  · rw [if_pos he, if_pos he]
    rfl
  · rw [if_neg he, if_neg he, if_neg he]

theorem restartPort_rerouted (h : Concludes (s.restartPort d) t) : rerouted s t := by
  refine h.rerouted_step (sameRecords_of_only (unplugged_changesOnly s d)) (markAll_sameRecords _ _) fun a => ?_
  rw [restartPort_eq, routeOf_markAll, routeOf_rerouteStep]

theorem restartPort_handovers (s : State) (d : Console) :
    (s.restartPort d).handovers = (s.abortHandover d .restart).handovers := by
  rw [restartPort_eq, State.markAll_handovers, State.rerouteStep_handovers]
  exact (detach_changesOnly _ d) .handovers (by decide)

/-! ### PORT_ENABLE (R156) -/

theorem exec_portEnable (hw : decodeEngineer w = some (c, o)) (hx : decodeNumber 8 x = some d)
    (hy : decodeFlag y = some on) :
    exec (.portEnable seq w x y) s = request 0x26 seq (some fun v => v.portEnable c o d on) s := by
  show execPortEnable seq w x y s = _
  unfold execPortEnable
  rw [hw, hx, hy]
  rfl

theorem enabledBytes_eq (d : Console) (on : Bool) : enabledBytes d on = [byteOf d.val, byteOf (flagCode on)] := by
  unfold enabledBytes
  rw [flag_byte]
  rfl

theorem portEnable_unauthorised (h : ¬s.mayEngineer c o (s.levelSomewhere · 4)) :
    s.portEnable c o d on = .refuse .noAuthority :=
  check_fail _ _ (mt (engineer_congr s c o fun op => supervisorSomewhere_iff s op).1 h)

theorem portEnable_authorised (h : s.mayEngineer c o (s.levelSomewhere · 4)) : s.portEnable c o d on =
    if s.cfg.enabled[d] = on then .unchanged (enabledBytes d on)
    else .check (firstRefusal [(on || s.consoles[d].session.inCharge.isNone, .inSession)])
      (.accept (s.setEnabled d on) (enabledBytes d on)) :=
  check_pass _ _ ((engineer_congr s c o fun op => supervisorSomewhere_iff s op).2 h)

theorem inCharge_none_iff (x : Session) : x.inCharge = none ↔ x = .none := by cases x <;> simp [Session.inCharge]

theorem portFree_iff : (on || s.consoles[d].session.inCharge.isNone) = true ↔
    on = true ∨ s.consoles[d].session = .none := by
  rw [Bool.or_eq_true, Option.isNone_iff_eq_none, inCharge_none_iff]

/-- A console record as a change of its port's setting leaves it. -/
def ConsoleRecord.ported (k : ConsoleRecord) (on : Bool) : ConsoleRecord :=
  if on then { k with link := .down, count := 0 } else k.cleared .off

/-- The state of a port's new setting before routing is re-evaluated. -/
def State.toggled (s : State) (d : Console) (on : Bool) : State :=
  { s with
    cfg := { s.cfg with enabled := s.cfg.enabled.set d.val on d.isLt }
    consoles := upd s.consoles d (·.ported on)
    portRx := upd s.portRx d fun r => if on then r else { r with mode := .hunting } }

theorem setEnabled_eq (s : State) (d : Console) (on : Bool) : s.setEnabled d on = (s.toggled d on).reroute.storeWrite := rfl

theorem toggled_changesOnly (s : State) (d : Console) (on : Bool) : changesOnly s (s.toggled d on)
    [.settings, .links, .flags, .results, .telegrams, .portReceivers] := by
  have hset : changesOnly s (s.setConsole d (·.ported on)) [.links, .flags, .results, .telegrams] :=
    changesOnly_setConsole fun p hp => by
      cases on <;> cases p <;> simp_all [ConsoleRecord.sameIn, ConsoleRecord.ported, ConsoleRecord.cleared]
  have hrest : changesOnly (s.setConsole d (·.ported on)) (s.toggled d on) [.settings, .portReceivers] := by
    intro p hp
    cases p <;> simp_all [State.same, sameAt, State.toggled]
  exact changesOnly_mono (changesOnly_trans hset hrest) (by decide)

theorem reroute_changesOnly (v : State) : changesOnly v v.reroute [.routes, .table] := by
  intro p hp
  cases p <;> simp_all [State.same, sameAt, State.reroute]

theorem setEnabled_changesOnly (s : State) (d : Console) (on : Bool) : changesOnly s (s.setEnabled d on)
    ([.links, .flags, .results, .telegrams, .portReceivers, .routes, .table] ++ storeParts) :=
  changesOnly_mono (changesOnly_trans (changesOnly_trans (toggled_changesOnly s d on) (reroute_changesOnly _))
    (changesOnly_storeWrite _)) (by decide)

theorem setEnabled_at (s : State) (d : Console) (on : Bool) (e : Console) : (s.setEnabled d on).consoles[e] =
    if e = d then s.consoles[d].ported on else s.consoles[e] := by
  rw [setEnabled_eq, State.storeWrite_consoles, State.reroute_consoles]
  exact upd_get ..

theorem setEnabled_rerouted (h : Concludes (s.setEnabled d on) t) : rerouted s t := by
  refine h.rerouted (v := s.toggled d on) (sameRecords_of_only (toggled_changesOnly s d on)) rfl rfl fun a => ?_
  rw [setEnabled_eq, routeOf_storeWrite]
  exact routeOf_same (State.reroute_cfg _ ▸ rfl) (deskAt_reroute _) a

end Restart

/-- Settles O51. -/
theorem portsRestartAndToggle : Obligations.PortsRestartAndToggle := by
  refine fun seq w x c d o s hl hw hx => ⟨fun hm => ⟨?_, fun y on hy => ?_⟩, fun hm hoff => ?_, fun hm hoff => ?_,
    fun y on hm hy => ⟨fun he => ?_, fun he hf => ?_, fun he hon hs => ?_⟩⟩
  · exact request_refuses (exec_portRestart hw hx) hl (portRestart_unauthorised (s := s.plantHunting) hm)
  · exact request_refuses (exec_portEnable hw hx hy) hl (portEnable_unauthorised (s := s.plantHunting) hm)
  · exact request_refuses (exec_portRestart hw hx) hl (portRestart_off (s := s.plantHunting) hm hoff)
  · obtain ⟨t, ht, heq, hend, hacc⟩ := request_accepts
      [.links, .sessions, .flags, .results, .handovers, .routes, .table] (exec_portRestart (seq := seq) hw hx) hl
      (portRestart_on (s := s.plantHunting) hm hoff)
      (changesOnly_mono (restartPort_changesOnly s.plantHunting d) (by decide)) (by decide)
    have hat (e : Console) := restartPort_at s.plantHunting d e
    have hown := (hat d).trans (if_pos rfl)
    have hdown : (s.plantHunting.restartPort d).consoles[d].link = .down := by rw [hown]; rfl
    have hcons : t.consoles = (settle s.plantHunting (s.plantHunting.restartPort d) none).consoles := by
      rw [heq, State.answer_consoles]
    have htel : t.telegramOf d = (settle s.plantHunting (s.plantHunting.restartPort d) none).telegramOf d := by
      rw [heq, answer_telegramOf]
    have hres (e : Console) := settle_results s.plantHunting (s.plantHunting.restartPort d) none e
    obtain ⟨hflight, hpend⟩ := settle_down (s := s.plantHunting) (x := none) hdown
    rw [← hcons] at hres hflight hpend
    rw [← htel] at hpend
    have hlink : t.consoles[d].link = .down := (hend.link d).trans hdown
    have hinflight : t.consoles[d].inFlight = none := by rw [hflight, hown]; rfl
    refine ⟨t, ht, hlink, by rw [hend.count, hown]; rfl, by rw [hend.hornFault, hown]; rfl,
      by rw [(hres d).1, hown]; rfl, by rw [(hres d).2, hown]; rfl, hinflight, ?_, fun hn => ?_,
      by rw [hend.underQualified, hown]; rfl, by rw [hend.lastEnd, hown]; rfl, fun q hq => ?_, fun ha => ?_, fun ha => ?_,
      fun ha => ?_, fun e he => ?_, restartPort_rerouted (s := s.plantHunting) hend, hend.marks _ ?_, hacc⟩
    · rw [hown] at hpend
      exact hpend
    · have hcarry := everyPanelChangeIsSent.1 _ s t ht (by simp) d (by rw [hlink]; simp) (.inr (.inl (by
        rw [hlink]
        cases hk : s.consoles[d].link <;> simp_all [linkCode])))
      refine hcarry.resolve_left ?_
      rw [hinflight]
      simp
    · rw [hend.session, hown]
      show s.consoles[d].session.onGrace _ = _
      rw [hq]
      rfl
    · rw [hend.session, hown]
      show s.consoles[d].session.onGrace _ = _
      have hna : ∀ q, s.consoles[d].session ≠ .attached q := fun q hq => by
        rw [(attachedAt_eq_some_iff s d q).2 hq] at ha
        cases ha
      cases hk : s.consoles[d].session with
      | attached q => exact absurd hk (hna q)
      | none => rfl
      | detached q g => rfl
    · exact hend.abortedAt (s := s.plantHunting) (restartPort_handovers s.plantHunting d)
        ((((Marks.refl _).setConsole d _).detach d).rerouteStep.markAll _) ha
    · exact hend.handovers.trans ((restartPort_handovers s.plantHunting d).trans
        ((abortHandover_handovers s.plantHunting d .restart).2 ha))
    · have hothers := (hat e).trans (if_neg he)
      dsimp only
      rw [hend.link, hend.count, hend.session, hend.lastEnd, hend.hornFault, hend.underQualified, (hres e).1, (hres e).2,
        hothers]
      rfl
    · exact markAll_marked _ (by simp)
  · rw [← enabledBytes_eq]
    exact request_unchanged (exec_portEnable hw hx hy) hl
      ((portEnable_authorised (s := s.plantHunting) hm).trans (if_pos he))
  · rw [← enabledBytes_eq]
    obtain ⟨t, ht, heq, hend, hacc⟩ := request_accepts
      (storeParts ++ [.links, .flags, .results, .portReceivers, .routes, .table]) (exec_portEnable (seq := seq) hw hx hy) hl
      ((portEnable_authorised (s := s.plantHunting) hm).trans ((if_neg he).trans
        (check_pass _ _ ((portFree_iff (s := s.plantHunting)).2 hf))))
      (changesOnly_mono (setEnabled_changesOnly s.plantHunting d on) (by decide)) (by decide)
    have hat (e : Console) := setEnabled_at s.plantHunting d on e
    have hown := (hat d).trans (if_pos rfl)
    have hcons : t.consoles = (settle s.plantHunting (s.plantHunting.setEnabled d on) none).consoles := by
      rw [heq, State.answer_consoles]
    have hres (e : Console) := settle_results s.plantHunting (s.plantHunting.setEnabled d on) none e
    rw [← hcons] at hres
    refine ⟨t, ht, hend.cfg, hend.stored rfl rfl, ?_, ?_, fun hon => ?_, fun e he => ?_, fun q => ?_,
      setEnabled_rerouted (s := s.plantHunting) hend, hacc⟩
    · rw [hend.link, hown]
      cases on <;> rfl
    · rw [hend.count, hown]
      cases on <;> rfl
    · subst hon
      have hoff : (s.plantHunting.setEnabled d false).consoles[d].link = .off := by rw [hown]; rfl
      obtain ⟨hflight, hpend⟩ := settle_off (s := s.plantHunting) (x := none) hoff
      rw [← hcons] at hflight hpend
      refine ⟨by rw [hend.hornFault, hown]; rfl, by rw [(hres d).1, hown]; rfl, by rw [(hres d).2, hown]; rfl,
        by rw [hflight, hown]; rfl, by rw [hpend, hown]; rfl, ?_⟩
      have hrx : t.portRx = (s.plantHunting.setEnabled d false).portRx := hend.only .portReceivers (by decide)
      rw [hrx]
      show (upd s.portRx d fun r => { r with mode := .hunting })[d].mode = .hunting
      rw [Fin.getElem_fin, upd_get_same]
    · have hothers := (hat e).trans (if_neg he)
      dsimp only
      rw [hend.link, hend.count, hend.hornFault, (hres e).1, (hres e).2, hothers]
      rfl
    · rw [hend.underQualified, hat]
      split
      · next hq =>
        rw [hq]
        cases on <;> rfl
      · rfl
  · refine request_refuses (exec_portEnable hw hx hy) hl ((portEnable_authorised (s := s.plantHunting) hm).trans
      ((if_neg ?_).trans (check_fail _ _ fun h => ?_)))
    · show ¬s.cfg.enabled[d] = on
      rw [he, hon]
      simp
    · rcases (portFree_iff (s := s.plantHunting)).1 h with h | h
      · rw [hon] at h
        cases h
      · exact hs h

end Sys2Proof.Machine
end

section
/-! Windows and heartbeats settled (8.2 to 8.4): fails and successes, with the horn report that a heartbeat carries. -/

namespace Sys2Proof.Machine

/-! ### The horn report (R91, R142) -/

section HornReport

variable {v t : State} {c : Console} {b : Bool}

theorem heardAt_false (c : Console) : heardAt false c = id := funext fun r => if_neg fun h => by cases h.1

theorem heardAt_keeps (n : Bool) (c : Console) (r : Record) : (heardAt n c r).point = r.point ∧
    (heardAt n c r).route = r.route ∧ (heardAt n c r).priority = r.priority ∧ (heardAt n c r).stage = r.stage := by
  unfold heardAt
  split <;> exact ⟨rfl, rfl, rfl, rfl⟩

/-- Before its horn is known at fault a console brings to console 0 what stage 2 has not. -/
theorem unheardAt_iff (h : v.consoles[c].hornFault = false) (r : Record) : v.unheardAt c r = true ↔
    r.route = some c ∧ (r.priority = .p1 ∨ r.priority = .p2) ∧ r.stage ≠ 2 := by
  have h' : v.consoles[c.val].hornFault = false := h
  unfold State.unheardAt State.coAnnunciated Priority.high
  by_cases hr : r.route = some c
  · rw [hr]
    simp [h']
  · simp [hr]

theorem hornReport_old (h : ¬(b && !v.consoles[c].hornFault) = true) : v.hornReport c b = v := if_neg h

theorem hornReport_new (h : (b && !v.consoles[c].hornFault) = true) :
    v.hornReport c b = (v.faultHorn c).markAll (v.hornRefs c) := if_pos h

/-- What a horn report makes of a record. -/
theorem hornReport_record (v : State) (c : Console) (b : Bool) (i : Slot) :
    (v.hornReport c b).live[i] = v.live[i].map (heardAt (b && !v.consoles[c].hornFault) c) := by
  by_cases h : (b && !v.consoles[c].hornFault) = true
  · have hf : v.consoles[c].hornFault = false := by
      rw [Bool.and_eq_true, Bool.not_eq_true'] at h
      exact h.2
    rw [hornReport_new h, h, State.markAll_live]
    unfold State.faultHorn
    rw [State.setConsole_live]
    refine (mapRecords_at (s := v) _ i).trans (congrArg (fun f => v.live[i].map f) (funext fun r => ?_))
    unfold heardAt
    exact if_congr ((unheardAt_iff hf r).trans (and_iff_right rfl).symm) rfl rfl
  · rw [hornReport_old h, Bool.eq_false_iff.2 h, heardAt_false, Option.map_id]
    rfl

theorem hornReport_changesOnly (v : State) (c : Console) (b : Bool) :
    changesOnly v (v.hornReport c b) [.table, .flags, .changes] := by
  by_cases h : (b && !v.consoles[c].hornFault) = true
  · rw [hornReport_new h]
    exact changesOnly_mono (changesOnly_trans (changesOnly_trans (mapRecords_changesOnly (s := v) _)
      (changesOnly_setConsole (l := [.flags]) fun p hp => by cases p <;> simp_all [ConsoleRecord.sameIn]))
      (changesOnly_markAll _ _)) (by decide)
  · rw [hornReport_old h]
    exact changesOnly_refl v _

theorem hornReport_routeOf (v : State) (c : Console) (b : Bool) (a : Area) :
    (v.hornReport c b).routeOf a = v.routeOf a := by
  have h := hornReport_changesOnly v c b
  have hk (d : Console) : (v.hornReport c b).consoles[d].link = v.consoles[d].link :=
    congrArg Prod.fst (h .links (by decide) d)
  have hs (d : Console) : (v.hornReport c b).consoles[d].session = v.consoles[d].session :=
    congrArg Prod.fst (h .sessions (by decide) d)
  refine routeOf_of_staffing (fun a => by rw [h .settings (by decide)]; exact ⟨rfl, rfl⟩) (fun d => ?_) (fun d => ?_) a
  · unfold State.linkUp
    rw [hk]
  · unfold State.attachedAt
    rw [hs]

theorem hornReport_flags (v : State) (c : Console) (b : Bool) (d : Console) :
    (v.hornReport c b).consoles[d].hornFault = (if d = c then v.consoles[c].hornFault || b else v.consoles[d].hornFault) ∧
      (v.hornReport c b).consoles[d].underQualified = v.consoles[d].underQualified := by
  by_cases h : (b && !v.consoles[c].hornFault) = true
  · have hat : (v.hornReport c b).consoles[d] =
        if d = c then { v.consoles[c] with hornFault := true } else v.consoles[d] := by
      rw [hornReport_new h, State.markAll_consoles]
      have hm := State.mapRecords_consoles v fun r =>
        if v.unheardAt c r then { r with silencedAtSupervisor := false } else r
      have hu := upd_get v.consoles c d fun k => { k with hornFault := true }
      rw [← hm] at hu
      exact hu.trans (by rw [hm]; rfl)
    rw [Bool.and_eq_true] at h
    rw [hat]
    split
    · next hd => exact ⟨by rw [h.1, Bool.or_true], by rw [hd]⟩
    · exact ⟨rfl, rfl⟩
  · rw [hornReport_old h]
    refine ⟨?_, rfl⟩
    split
    · next hd =>
      rw [hd]
      cases hb : b
      · rw [Bool.or_false]
      · rw [hb] at h
        cases hf : v.consoles[c].hornFault
        · rw [hf] at h
          exact absurd rfl h
        · rfl
    · rfl

/-! ### Records by their points, after a map of them -/

theorem find_mapped {s u : State} {f : Record → Record} (hl : ∀ i : Slot, u.live[i] = s.live[i].map f)
    (hf : ∀ r, (f r).point = r.point) (p : Point) : u.find p = (s.find p).map fun x => (x.1, f x.2) := by
  unfold State.find
  rw [List.map_findSome?]
  refine congrArg (fun g => (List.finRange 64).findSome? g) (funext fun i => ?_)
  rw [hl i]
  dsimp only [Function.comp_apply]
  cases s.live[i] with
  | none => rfl
  | some r =>
    simp only [Option.map_some, hf]
    split <;> rfl

theorem recordOf_mapped {s u : State} {f : Record → Record} (hl : ∀ i : Slot, u.live[i] = s.live[i].map f)
    (hf : ∀ r, (f r).point = r.point) (p : Point) : u.recordOf p = (s.recordOf p).map f := by
  unfold State.recordOf
  rw [find_mapped hl hf, Option.map_map, Option.map_map]
  rfl

theorem find_congr {s u : State} (h : u.live = s.live) (p : Point) : u.find p = s.find p := by
  unfold State.find
  rw [h]

/-- A new fault is marked, and what it brings to console 0 is heard there. -/
theorem faultHeard_report (h : Concludes (v.hornReport c b) t) (hb : b = true) (hf : v.consoles[c].hornFault = false) :
    faultHeard t c := by
  have hn : (b && !v.consoles[c].hornFault) = true := by rw [hb, hf]; rfl
  have hmarked (x : Ref) (hx : x ∈ v.hornRefs c) : marked t [x] := by
    refine h.marks _ ?_
    rw [hornReport_new hn]
    refine marked_subset (markAll_marked _ (List.ne_nil_of_mem hx)) fun y hy => ?_
    rw [List.mem_singleton.1 hy]
    exact hx
  refine ⟨?_, hmarked _ (List.mem_cons_self ..), fun p r hr hroute hpri hstage => ?_⟩
  · rw [h.hornFault, (hornReport_flags v c b c).1, if_pos rfl, hb, Bool.or_true]
  · have hrec : (v.hornReport c b).recordOf p = some r := by
      rw [← hr]
      exact congrArg (Option.map Prod.snd) (find_congr h.live p).symm
    rw [recordOf_mapped (hornReport_record v c b) fun r => (heardAt_keeps _ c r).1] at hrec
    obtain ⟨q, hq, rfl⟩ := Option.map_eq_some_iff.1 hrec
    obtain ⟨-, h2, h3, h4⟩ := heardAt_keeps (b && !v.consoles[c].hornFault) c q
    rw [h2] at hroute
    rw [h3] at hpri
    rw [h4] at hstage
    refine ⟨?_, hmarked _ (List.mem_cons_of_mem _ (List.mem_map_of_mem ((mem_numbersWhere _ p).2 ?_)))⟩
    · unfold heardAt
      rw [if_pos ⟨hn, hroute, hpri, hstage⟩]
    · rw [hq]
      exact (unheardAt_iff hf q).2 ⟨hroute, hpri, hstage⟩

end HornReport

/-! ### Fails (R137, R138, R140, R141) -/

section Fails

variable {s t v : State} {c : Console} {b : Bool} {start : Nat}

/-- The count that a fail leaves. -/
abbrev State.countAfterFail (s : State) (c : Console) : Nat :=
  min (s.consoles[c].count + 2) (s.cfg.params.failLimit + 1)

/-- A fail before it is judged against the fail limit. -/
def State.failed (s : State) (c : Console) (start : Nat) : State :=
  (s.setConsole c fun k =>
    { k with count := s.countAfterFail c, link := k.link.withWindow (s.newWindow start) }).markAll
      (if s.countAfterFail c = s.consoles[c].count then [] else [.console c])

theorem failWindow_lost (hu : s.linkUp c = true) (hn : s.cfg.params.failLimit ≤ s.countAfterFail c) :
    s.failWindow c start = ((s.failed c start).loseLink c).rerouteStep :=
  if_pos (by rw [hu, decide_eq_true hn]; rfl)

theorem failWindow_kept (h : ¬(s.linkUp c = true ∧ s.cfg.params.failLimit ≤ s.countAfterFail c)) :
    s.failWindow c start = s.failed c start :=
  if_neg (by rw [Bool.and_eq_true, decide_eq_true_iff]; exact h)

theorem failed_changesOnly (s : State) (c : Console) (start : Nat) :
    changesOnly s (s.failed c start) [.links, .changes] :=
  changesOnly_trans (changesOnly_setConsole (l := [.links]) fun p hp => by
    cases p <;> simp_all [ConsoleRecord.sameIn]) (changesOnly_markAll _ _)

/-- A link that goes LOST, before its handover is aborted. -/
def State.unlinked (v : State) (c : Console) (w : Window) : State :=
  (v.setConsole c fun k => { k with link := .lost w }).markAll [.console c]

theorem loseLink_up {w : Window} (h : v.consoles[c].link = .up w) :
    v.loseLink c = ((v.unlinked c w).abortHandover c .linkLost).detach c := by
  unfold State.loseLink
  rw [h]
  rfl

theorem unlinked_changesOnly (v : State) (c : Console) (w : Window) :
    changesOnly v (v.unlinked c w) [.links, .changes] :=
  changesOnly_trans (changesOnly_setConsole (l := [.links]) fun p hp => by
    cases p <;> simp_all [ConsoleRecord.sameIn]) (changesOnly_markAll _ _)

theorem loseLink_changesOnly (v : State) (c : Console) :
    changesOnly v (v.loseLink c) [.links, .sessions, .handovers, .changes] := by
  cases h : v.consoles[c].link with
  | up w =>
    rw [loseLink_up h]
    exact changesOnly_mono (changesOnly_trans (changesOnly_trans (unlinked_changesOnly v c w)
      (abortHandover_changesOnly _ c _)) (detach_changesOnly _ c)) (by decide)
  | off | down | lost w =>
    unfold State.loseLink
    rw [h]
    exact changesOnly_refl v _

theorem failWindow_changesOnly (s : State) (c : Console) (start : Nat) : changesOnly s (s.failWindow c start)
    [.links, .sessions, .handovers, .routes, .table, .changes] := by
  by_cases h : s.linkUp c = true ∧ s.cfg.params.failLimit ≤ s.countAfterFail c
  · rw [failWindow_lost h.1 h.2]
    exact changesOnly_mono (changesOnly_trans (changesOnly_trans (failed_changesOnly s c start)
      (loseLink_changesOnly _ c)) (rerouteStep_changesOnly _)) (by decide)
  · rw [failWindow_kept h]
    exact changesOnly_mono (failed_changesOnly s c start) (by decide)

theorem failedDesk_kept {d : Desk} {limit grace : Nat} {w : Window}
    (h : ¬(d.link.isUp = true ∧ limit ≤ min (d.count + 2) (limit + 1))) : d.failed limit w grace =
      { d with count := min (d.count + 2) (limit + 1), link := d.link.withWindow w } :=
  if_neg (by rw [Bool.and_eq_true, decide_eq_true_iff]; exact h)

theorem failedDesk_lost {d : Desk} {limit grace : Nat} {w x : Window} (hl : d.link = .up x)
    (hn : limit ≤ min (d.count + 2) (limit + 1)) : d.failed limit w grace =
      Desk.detached (Desk.aborted { d with count := min (d.count + 2) (limit + 1), link := .lost w } .linkLost) grace := by
  unfold Desk.failed
  dsimp only
  rw [if_pos (by rw [hl, decide_eq_true hn]; rfl), hl]
  rfl

theorem detachedDesk (d : Desk) (g : Nat) : d.detached g = { d with session := d.session.onGrace g } := by
  unfold Desk.detached Session.onGrace
  cases d.session <;> rfl

theorem onGrace_attached {x : Session} {o : Operator} (h : x = .attached o) (g : Nat) :
    x.onGrace g = .detached o g := by rw [h]; rfl

theorem onGrace_unattached (h : s.attachedAt c = none) (g : Nat) :
    s.consoles[c].session.onGrace g = s.consoles[c].session := by
  cases hk : s.consoles[c].session with
  | attached o =>
    rw [(attachedAt_eq_some_iff s c o).2 hk] at h
    cases h
  | none => rfl
  | detached o n => rfl

theorem linkUp_some (h : s.linkUp c = true) : ∃ w, s.consoles[c].link = .up w := by
  unfold State.linkUp at h
  cases hk : s.consoles[c].link with
  | up w => exact ⟨w, rfl⟩
  | off | down | lost w =>
    rw [hk] at h
    cases h

/-- What of a desk stands through a horn report and the end of its event. -/
structure DeskFollows (v t : State) (d : Console) : Prop where
  link : t.consoles[d].link = (v.deskAt d).link
  count : t.consoles[d].count = (v.deskAt d).count
  session : t.consoles[d].session = (v.deskAt d).session
  lastEnd : t.consoles[d].lastEnd = (v.deskAt d).lastEnd
  handover : t.handovers[d] = (v.deskAt d).handover

theorem deskFollows_report (h : Concludes (v.hornReport c b) t) (d : Console) : DeskFollows v t d := by
  have hr := hornReport_changesOnly v c b
  have hlinks := hr .links (by decide) d
  have hsessions := hr .sessions (by decide) d
  refine ⟨(h.link d).trans (congrArg Prod.fst hlinks), (h.count d).trans (congrArg Prod.snd hlinks),
    (h.session d).trans (congrArg Prod.fst hsessions), (h.lastEnd d).trans (congrArg Prod.snd hsessions), ?_⟩
  rw [h.handovers, hr .handovers (by decide)]
  rfl

theorem failWindow_flags (s : State) (c : Console) (start : Nat) (d : Console) :
    (s.failWindow c start).consoles[d].hornFault = s.consoles[d].hornFault ∧
      (s.failWindow c start).consoles[d].underQualified = s.consoles[d].underQualified := by
  have h := failWindow_changesOnly s c start .flags (by decide) d
  exact ⟨congrArg Prod.fst h, congrArg Prod.snd h⟩

section Lost

variable (hu : s.linkUp c = true) (hn : s.cfg.params.failLimit ≤ s.countAfterFail c)
  (h : Concludes ((s.failWindow c start).hornReport c b) t)

include hu hn h

omit h hn in
theorem failed_up : (s.failed c start).consoles[c].link = .up (s.newWindow start) := by
  obtain ⟨w, hw⟩ := linkUp_some hu
  refine (congrArg ConsoleRecord.link (upd_get_same ..)).trans ?_
  rw [← Fin.getElem_fin, hw]
  rfl

omit h in
theorem failWindow_handovers : ((s.failWindow c start).hornReport c b).handovers =
    (((s.failed c start).unlinked c (s.newWindow start)).abortHandover c .linkLost).handovers := by
  rw [hornReport_changesOnly _ c b .handovers (by decide), failWindow_lost hu hn, loseLink_up (failed_up hu),
    State.rerouteStep_handovers]
  exact detach_changesOnly _ c .handovers (by decide)

theorem failWindow_aborts (ha : s.handovers[c].phase.active = true) : abortedAt s t c .linkLost := by
  refine h.abortedAt (s := (s.failed c start).unlinked c (s.newWindow start)) (failWindow_handovers hu hn) ?_ ha
  rw [failWindow_lost hu hn, loseLink_up (failed_up hu)]
  exact (((Marks.refl _).detach c).rerouteStep).hornReport c b

theorem failWindow_unaborted (ha : s.handovers[c].phase.active = false) : t.handovers = s.handovers :=
  h.handovers.trans ((failWindow_handovers hu hn).trans
    ((abortHandover_handovers ((s.failed c start).unlinked c (s.newWindow start)) c _).2 ha))

theorem failWindow_reroutes : reroutedThen s t (heardAt (b && !s.consoles[c].hornFault) c) := by
  have hf := (failWindow_flags s c start c).1
  rw [failWindow_lost hu hn] at h hf
  have hs := changesOnly_trans (failed_changesOnly s c start) (loseLink_changesOnly (s.failed c start) c)
  rw [← hf]
  refine h.reroutedThen (v := (s.failed c start).loseLink c) (sameRecords_of_only hs) (fun i => ?_) ?_ fun a => ?_
  · rw [hornReport_record, rerouteStep_live]
  · rw [hornReport_changesOnly _ c b .routes (by decide), rerouteStep_routes]
  · rw [hornReport_routeOf, routeOf_rerouteStep]

theorem failWindow_marked : marked t [.console c] := by
  rw [failWindow_lost hu hn, loseLink_up (failed_up hu)] at h
  refine h.marks _ (Marks.marked ?_ (markAll_marked (refs := [.console c])
    ((s.failed c start).setConsole c fun k => { k with link := .lost (s.newWindow start) }) (by simp)))
  exact ((((Marks.refl ((s.failed c start).unlinked c (s.newWindow start))).abortHandover c _).detach c).rerouteStep).hornReport
    c b

end Lost

/-- A fail, with the horn report after it. -/
theorem windowFailed_of (h : Concludes ((s.failWindow c start).hornReport c b) t) :
    windowFailed s t c start (b && !s.consoles[c].hornFault) := by
  have hdesk (d : Console) := deskFollows_report h d
  have hown := (deskAt_failWindow s c c start).trans (if_pos rfl)
  have hlink := (hdesk c).link
  have hcount := (hdesk c).count
  have hsession := (hdesk c).session
  have hlast := (hdesk c).lastEnd
  have hhand := (hdesk c).handover
  rw [hown] at hlink hcount hsession hlast hhand
  have huq (d : Console) : t.consoles[d].underQualified = s.consoles[d].underQualified := by
    rw [h.underQualified, (hornReport_flags _ c b d).2, (failWindow_flags s c start d).2]
  have hothers : otherConsolesSame (fun k => (k.link, k.count, k.session, k.lastEnd, k.underQualified)) s t c := by
    intro d hd
    have hd' := (deskAt_failWindow s c d start).trans (if_neg hd)
    dsimp only
    rw [(hdesk d).link, (hdesk d).count, (hdesk d).session, (hdesk d).lastEnd, hd', huq]
    rfl
  by_cases hc : s.linkUp c = true ∧ s.cfg.params.failLimit ≤ s.countAfterFail c
  · obtain ⟨w, hw⟩ := linkUp_some hc.1
    rw [failedDesk_lost (d := s.deskAt c) hw hc.2, detachedDesk] at hlink hcount hsession hlast hhand
    have hn : t.consoles[c].count = s.countAfterFail c := hcount
    refine ⟨hn, hothers, hlast, huq c, ?_⟩
    rw [if_pos ⟨hc.1, by rw [hn]; exact hc.2⟩]
    refine ⟨hlink, fun o ho => hsession.trans (onGrace_attached ho _), fun ha => hsession.trans (onGrace_unattached ha _),
      failWindow_aborts hc.1 hc.2 h, failWindow_unaborted hc.1 hc.2 h, failWindow_reroutes hc.1 hc.2 h,
      failWindow_marked hc.1 hc.2 h⟩
  · rw [failedDesk_kept (d := s.deskAt c) hc] at hlink hcount hsession hlast
    have hn : t.consoles[c].count = s.countAfterFail c := hcount
    have hu : changesOnly s ((s.failWindow c start).hornReport c b) [.links, .table, .flags, .changes] := by
      rw [failWindow_kept hc]
      exact changesOnly_mono (changesOnly_trans (failed_changesOnly s c start) (hornReport_changesOnly _ c b)) (by decide)
    refine ⟨hn, hothers, hlast, huq c, ?_⟩
    rw [if_neg fun hl => hc ⟨hl.1, by rw [hn] at hl; exact hl.2⟩]
    refine ⟨hlink, hsession, h.handovers.trans (hu .handovers (by decide)), h.routes.trans (hu .routes (by decide)),
      fun i => ?_⟩
    rw [h.live, hornReport_record, (failWindow_flags s c start c).1, failWindow_kept hc]
    rfl

end Fails

/-! ### The events (R138, R139) -/

section Events

variable {s t : State} {c : Console} {w : Window} {b : Bool}

theorem exec_windowEnd (h : s.consoles[c].link.window = some w) :
    exec (.windowEnd c) s = timed s (w.finish ≤ s.partTime) (s.failWindow c w.finish) := by
  show execWindowEnd c s = _
  unfold execWindowEnd
  rw [h]

theorem exec_heartbeat (report : Byte) (h : s.hears c = true) : exec (.heartbeat c report) s =
    .next (settle (s.portHunting c) ((s.portHunting c).heartbeat c (report.getLsbD 0)).1
      (if ((s.portHunting c).heartbeat c (report.getLsbD 0)).2 then some c else none)) := by
  show execHeartbeat c report s = _
  unfold execHeartbeat
  rw [if_pos h]

theorem heartbeat_early (h : s.consoles[c].link.window = some w) (ht : s.partTime < w.lockedEnd) :
    s.heartbeat c b = ((s.failWindow c s.partTime).hornReport c b, false) := by
  unfold State.heartbeat
  cases hk : s.consoles[c].link with
  | off | down =>
    rw [hk] at h
    cases h
  | up x | lost x =>
    rw [hk] at h
    cases h
    exact if_pos ht

theorem heartbeat_late (h : s.consoles[c].link.window = some w) (ht : w.lockedEnd ≤ s.partTime) :
    s.heartbeat c b = ((s.successWindow c).hornReport c b, true) := by
  unfold State.heartbeat
  cases hk : s.consoles[c].link with
  | off | down =>
    rw [hk] at h
    cases h
  | up x | lost x =>
    rw [hk] at h
    cases h
    exact if_neg (Nat.not_lt.2 ht)

theorem heartbeat_down (h : s.consoles[c].link = .down) :
    s.heartbeat c b = ((s.bringUp c).hornReport c b, true) := by
  unfold State.heartbeat
  rw [h]

theorem withWindow_cases (w x : Window) : Link.withWindow w (.up x) = .up w ∧ Link.withWindow w (.lost x) = .lost w ∧
    Link.withWindow w .down = .down ∧ Link.withWindow w .off = .off ∧ (Link.up w).window = some w ∧
    (Link.lost w).window = some w ∧ Link.down.window = none ∧ Link.off.window = none :=
  ⟨rfl, rfl, rfl, rfl, rfl, rfl, rfl, rfl⟩

theorem exec_heartbeat_early (report : Byte) (h : s.hears c = true) (hw : s.consoles[c].link.window = some w)
    (ht : s.partTime < w.lockedEnd) : exec (.heartbeat c report) s =
      .next (settle (s.portHunting c)
        (((s.portHunting c).failWindow c s.partTime).hornReport c (report.getLsbD 0)) none) := by
  rw [exec_heartbeat report h, heartbeat_early (s := s.portHunting c) hw ht]
  rfl

end Events

/-- Settles O46. -/
theorem failsRaiseTheCount : Obligations.FailsRaiseTheCount := by
  refine ⟨fun s x => rfl, withWindow_cases, fun c w s hp hw hf => ?_, fun c w report s hh hw hl => ?_⟩
  · have hold : (s.failWindow c w.finish).hornReport c false = s.failWindow c w.finish :=
      hornReport_old Bool.false_ne_true
    have hend : Concludes ((s.failWindow c w.finish).hornReport c false) (settle s (s.failWindow c w.finish) none) := by
      rw [hold]
      exact settle_concludes s _ none
    refine ⟨_, timed_taken (exec_windowEnd hw) hp (decide_eq_true hf), windowFailed_of hend,
      changesOnly_mono (changesOnly_settle_of (failWindow_changesOnly s c _) none) (by decide), fun hu => ?_⟩
    rw [failWindow_kept fun h => absurd h.1 (by rw [hu]; exact Bool.false_ne_true)]
    exact changesOnly_mono (changesOnly_settle_of (failed_changesOnly s c _) none) (by decide)
  · have hend := settle_concludes (s.portHunting c)
      (((s.portHunting c).failWindow c s.partTime).hornReport c (report.getLsbD 0)) none
    have hu := changesOnly_trans (failWindow_changesOnly (s.portHunting c) c s.partTime)
      (hornReport_changesOnly _ c (report.getLsbD 0))
    have hflag (d : Console) := hornReport_flags ((s.portHunting c).failWindow c s.partTime) c (report.getLsbD 0) d
    have hbefore (d : Console) : ((s.portHunting c).failWindow c s.partTime).consoles[d].hornFault =
        s.consoles[d].hornFault := (failWindow_flags (s.portHunting c) c s.partTime d).1
    refine ⟨_, exec_heartbeat_early report hh hw hl, windowFailed_of (s := s.portHunting c) hend, ?_, ?_,
      fun hb hf => ?_, fun d hd => ?_, ?_⟩
    · exact (hend.only .portReceivers (by decide)).trans (hu .portReceivers (by decide))
    · rw [hend.hornFault, (hflag c).1, if_pos rfl, hbefore]
    · exact faultHeard_report hend hb ((hbefore c).trans hf)
    · exact (hend.hornFault d).trans ((hflag d).1.trans ((if_neg hd).trans (hbefore d)))
    · exact changesOnly_mono (changesOnly_trans (changesOnly_portHunting s c) (changesOnly_settle_of hu none)) (by decide)

end Sys2Proof.Machine
end

section
/-! Heartbeats in the open part settled (8.2 to 8.5): the count that falls, the link that comes UP, the telegram that
answers. -/

namespace Sys2Proof.Machine

section Successes

variable {s t v : State} {c : Console} {b : Bool}

/-- The state as a link that comes UP leaves it, before the routes are derived again (R140, R145, R154). -/
def State.risen (s : State) (c : Console) : State := s.setConsole c fun k =>
  { k with
    link := .up (s.newWindow s.partTime)
    count := 0
    session := k.session.reattach
    pendingTelegram := if k.link = .down then none else k.pendingTelegram }

theorem bringUp_eq (s : State) (c : Console) : s.bringUp c = (s.risen c).reroute := rfl

/-- The state as a success leaves it whose link does not change (R139). -/
def State.succeeded (s : State) (c : Console) : State := s.setConsole c fun k =>
  { k with count := k.count - 1, link := k.link.withWindow (s.newWindow s.partTime) }

theorem successWindow_kept (h : s.linkUp c = true ∨ 1 < s.consoles[c].count) : s.successWindow c = s.succeeded c := by
  refine if_neg fun hc => ?_
  rw [Bool.and_eq_true, decide_eq_true_eq, Bool.not_eq_true'] at hc
  obtain h | h := h
  · exact Bool.noConfusion (h.symm.trans hc.2)
  · exact absurd hc.1 (Nat.not_le.2 h)

theorem successWindow_up {w : Window} (hl : s.consoles[c].link = .lost w) (hn : s.consoles[c].count ≤ 1) :
    s.successWindow c = s.bringUp c := by
  refine if_pos ?_
  rw [hl]
  exact Bool.and_eq_true_iff.2 ⟨decide_eq_true hn, rfl⟩

theorem risen_changesOnly (s : State) (c : Console) : changesOnly s (s.risen c) [.links, .sessions, .telegrams] :=
  changesOnly_setConsole fun p hp => by cases p <;> simp_all [ConsoleRecord.sameIn]

theorem bringUp_changesOnly (s : State) (c : Console) :
    changesOnly s (s.bringUp c) [.links, .sessions, .telegrams, .routes, .table] :=
  changesOnly_mono (changesOnly_trans (risen_changesOnly s c) (reroute_changesOnly _)) (by decide)

theorem succeeded_changesOnly (s : State) (c : Console) : changesOnly s (s.succeeded c) [.links] :=
  changesOnly_setConsole fun p hp => by cases p <;> simp_all [ConsoleRecord.sameIn]

/-- An event that a console is answered for leaves its telegram in flight or waiting. -/
theorem settle_carries (h : v.consoles[c].link ≠ .off) : (settle s v (some c)).carries c := by
  rw [settle_eq]
  refine composeAll_carries (by simp [composes]) ?_
  rw [settling_console]
  exact h

/-- What every heartbeat in the open part leaves, whatever it makes of the link (R91, R142, R144, R145). -/
structure HeartbeatAnswered (s t : State) (c : Console) (b : Bool) : Prop where
  receiver : t.portRx = upd s.portRx c fun x => { x with mode := .hunting }
  carries : t.carries c
  hornFault : t.consoles[c].hornFault = (s.consoles[c].hornFault || b)
  otherFaults : otherConsolesSame (fun k => k.hornFault) s t c
  underQualified : ∀ d : Console, t.consoles[d].underQualified = s.consoles[d].underQualified
  heard : b = true → s.consoles[c].hornFault = false → faultHeard t c

theorem heartbeatAnswered {parts : List Part} (h : changesOnly (s.portHunting c) v parts)
    (hl : (v.hornReport c b).consoles[c].link ≠ .off)
    (hp : ∀ p ∈ [Part.portReceivers, .flags], p ∉ parts := by decide) :
    HeartbeatAnswered s (settle (s.portHunting c) (v.hornReport c b) (some c)) c b := by
  have hend := settle_concludes (s.portHunting c) (v.hornReport c b) (some c)
  have hr := hornReport_changesOnly v c b
  have hsame (d : Console) := h .flags (hp _ (by simp)) d
  have hf (d : Console) : v.consoles[d].hornFault = s.consoles[d].hornFault := congrArg Prod.fst (hsame d)
  have hflag (d : Console) := hornReport_flags v c b d
  refine ⟨?_, settle_carries hl, ?_, fun d hd => ?_, fun d => ?_, fun hb hold => ?_⟩
  · exact (hend.only .portReceivers (by decide)).trans
      ((hr .portReceivers (by decide)).trans (h .portReceivers (hp _ (by simp))))
  · rw [hend.hornFault, (hflag c).1, if_pos rfl, hf c]
  · exact (hend.hornFault d).trans ((hflag d).1.trans ((if_neg hd).trans (hf d)))
  · exact (hend.underQualified d).trans ((hflag d).2.trans (congrArg Prod.snd (hsame d)))
  · exact faultHeard_report hend hb ((hf c).trans hold)

/-- A heartbeat in the open part, or at a DOWN console, is answered with a telegram. -/
theorem exec_heartbeat_answered (report : Byte) (h : s.hears c = true)
    (hv : (s.portHunting c).heartbeat c (report.getLsbD 0) = (v, true)) :
    exec (.heartbeat c report) s = .next (settle (s.portHunting c) v (some c)) := by
  rw [exec_heartbeat report h, hv]
  rfl

theorem withWindow_ne_off {l : Link} {w x : Window} (h : l.window = some x) : l.withWindow w ≠ .off := by
  cases l with
  | off | down => cases h
  | up y | lost y => exact nofun

/-- What a success leaves of a link that does not come UP by it. -/
theorem succeeded_of (h : Concludes ((s.succeeded c).hornReport c b) t) :
    t.consoles[c].count = s.consoles[c].count - 1 ∧
      t.consoles[c].link = s.consoles[c].link.withWindow (s.newWindow s.partTime) ∧
      otherConsolesSame (fun k => (k.link, k.count)) s t c ∧
      ∀ i : Slot, t.live[i] = s.live[i].map (heardAt (b && !s.consoles[c].hornFault) c) := by
  have hdesk (d : Console) := deskFollows_report h d
  have hat (d : Console) := deskAt_setConsole (s := s) (c := c) (d := d)
    (f := fun k => { k with count := k.count - 1, link := k.link.withWindow (s.newWindow s.partTime) })
  have hown := (hat c).trans (if_pos rfl)
  refine ⟨(hdesk c).count.trans (congrArg Desk.count hown), (hdesk c).link.trans (congrArg Desk.link hown),
    fun d hd => ?_, fun i => ?_⟩
  · have hother := (hat d).trans (if_neg hd)
    exact Prod.ext ((hdesk d).link.trans (congrArg Desk.link hother)) ((hdesk d).count.trans (congrArg Desk.count hother))
  · have hf : (s.succeeded c).consoles[c].hornFault = s.consoles[c].hornFault :=
      congrArg Prod.fst (succeeded_changesOnly s c .flags (by decide) c)
    rw [h.live, hornReport_record, hf]
    rfl

/-- What the rise of a link leaves, with its session and the routes. -/
theorem bringUp_of (h : Concludes ((s.bringUp c).hornReport c b) t) :
    t.consoles[c].count = 0 ∧ t.consoles[c].link = .up (s.newWindow s.partTime) ∧
      t.consoles[c].session = s.consoles[c].session.reattach ∧
      otherConsolesSame (fun k => (k.link, k.count, k.session)) s t c ∧
      (∀ d : Console, t.consoles[d].lastEnd = s.consoles[d].lastEnd) ∧
      reroutedThen s t (heardAt (b && !s.consoles[c].hornFault) c) := by
  have hdesk (d : Console) := deskFollows_report h d
  have hown := (deskAt_bringUp (s := s) (c := c) (d := c)).trans (if_pos rfl)
  refine ⟨(hdesk c).count.trans (congrArg Desk.count hown), (hdesk c).link.trans (congrArg Desk.link hown),
    (hdesk c).session.trans (congrArg Desk.session hown), fun d hd => ?_, fun d => ?_, ?_⟩
  · have hother := (deskAt_bringUp (s := s) (c := c) (d := d)).trans (if_neg hd)
    exact Prod.ext ((hdesk d).link.trans (congrArg Desk.link hother))
      (Prod.ext ((hdesk d).count.trans (congrArg Desk.count hother))
        ((hdesk d).session.trans (congrArg Desk.session hother)))
  · rw [(hdesk d).lastEnd, deskAt_bringUp]
    split
    · next hd =>
      rw [hd]
      rfl
    · rfl
  · have hf : (s.bringUp c).consoles[c].hornFault = s.consoles[c].hornFault :=
      congrArg Prod.fst (bringUp_changesOnly s c .flags (by decide) c)
    rw [← hf]
    refine h.reroutedThen (v := s.risen c) (sameRecords_of_only (risen_changesOnly s c))
      (hornReport_record _ c b) (hornReport_changesOnly _ c b .routes (by decide)) fun a => ?_
    rw [hornReport_routeOf, bringUp_eq]
    exact routeOf_same (State.reroute_cfg _ ▸ rfl) (deskAt_reroute _) a

end Successes

/-- Settles O47. -/
theorem heartbeatsBringTheLinkUp : Obligations.HeartbeatsBringTheLinkUp := by
  refine ⟨⟨fun _ _ => rfl, fun _ => rfl, rfl⟩, fun c report s hh => ⟨fun w hw ht hk => ?_, fun hr => ?_⟩⟩
  · have hbeat := heartbeat_late (s := s.portHunting c) (b := report.getLsbD 0) hw ht
    rw [successWindow_kept (s := s.portHunting c) hk] at hbeat
    have hu := changesOnly_trans (succeeded_changesOnly (s.portHunting c) c)
      (hornReport_changesOnly _ c (report.getLsbD 0))
    have hend := settle_concludes (s.portHunting c) (((s.portHunting c).succeeded c).hornReport c (report.getLsbD 0))
      (some c)
    obtain ⟨hcount, hlink, hothers, hlive⟩ := succeeded_of (s := s.portHunting c) hend
    have hends := heartbeatAnswered (b := report.getLsbD 0) (succeeded_changesOnly (s.portHunting c) c) (by
      rw [← hend.link, hlink]
      exact withWindow_ne_off hw)
    refine ⟨_, exec_heartbeat_answered report hh hbeat, hcount, hlink, hothers, hends.receiver, hends.carries,
      hends.hornFault, hends.underQualified, hends.otherFaults, hlive, hends.heard, ?_⟩
    exact changesOnly_mono (changesOnly_trans (changesOnly_portHunting s c) (changesOnly_settle_of hu _)) (by decide)
  · have hbeat : (s.portHunting c).heartbeat c (report.getLsbD 0) =
        (((s.portHunting c).bringUp c).hornReport c (report.getLsbD 0), true) := by
      obtain hd | ⟨w, hl, ht, hn⟩ := hr
      · exact heartbeat_down (s := s.portHunting c) hd
      · rw [heartbeat_late (s := s.portHunting c) (congrArg Link.window hl) ht,
          successWindow_up (s := s.portHunting c) hl hn]
    have hu := changesOnly_trans (bringUp_changesOnly (s.portHunting c) c)
      (hornReport_changesOnly _ c (report.getLsbD 0))
    have hend := settle_concludes (s.portHunting c) (((s.portHunting c).bringUp c).hornReport c (report.getLsbD 0))
      (some c)
    obtain ⟨hcount, hlink, hsession, hothers, hlast, hroutes⟩ := bringUp_of (s := s.portHunting c) hend
    have hends := heartbeatAnswered (b := report.getLsbD 0) (bringUp_changesOnly (s.portHunting c) c) (by
      rw [← hend.link, hlink]
      exact nofun)
    refine ⟨_, exec_heartbeat_answered report hh hbeat, hcount, hlink, hsession, hothers,
      fun d => ⟨hlast d, hends.underQualified d⟩, hends.receiver, hends.carries, hends.hornFault, hends.otherFaults,
      hroutes, hends.heard, ?_⟩
    exact changesOnly_mono (changesOnly_trans (changesOnly_portHunting s c) (changesOnly_settle_of hu _)) (by decide)

end Sys2Proof.Machine
end

section
/-! PARAM_WRITE settled (10.4): the range of each parameter, and what new escalation times and a new fail limit do
within the write. -/

namespace Sys2Proof.Machine

/-! ### The ranges (R187) -/

section Ranges

variable {p q : Params} {x y : Nat}

theorem checked_write {c : Bool} : (if c then some p else none) = some q ↔ c = true ∧ q = p := by
  rw [Option.ite_none_right_eq_some, Option.some.injEq, eq_comm (a := p)]

theorem valid_times : (EscalationTimes.mk x y).valid = true ↔ x ≤ 7200 ∧ y ≤ 7200 ∧ (x = 0 ∨ y = 0 ∨ x < y) := by
  simp [EscalationTimes.valid, and_assoc, or_assoc]

theorem write_escalation (i : Fin 4) : p.write (.escalation i) x y = some q ↔
    x ≤ 7200 ∧ y ≤ 7200 ∧ (x = 0 ∨ y = 0 ∨ x < y) ∧
      q = { p with escalation := p.escalation.set i.val { t1 := x, t2 := y } i.isLt } := by
  rw [← and_assoc, ← and_assoc, and_assoc (a := x ≤ 7200), ← valid_times]
  exact checked_write

theorem write_floodThresholds : p.write .floodThresholds x y = some q ↔
    256 ≤ x ∧ q = { p with floodOn := x, floodOff := if y < x then y else x / 2 } := by
  unfold Params.write floodOffStored
  rw [Option.ite_none_right_eq_some, Option.some.injEq, eq_comm (b := q)]

theorem write_windowPeriod : p.write .windowPeriod x y = some q ↔
    10 ≤ x ∧ x ≤ 100 ∧ x % 5 = 0 ∧ q = { p with window := x } := by
  refine checked_write.trans ?_
  simp [validWindow, and_assoc]

theorem write_lockedFraction : p.write .lockedFraction x y = some q ↔
    (x = 0 ∨ x = 25 ∨ x = 50) ∧ q = { p with lockedPercent := x } := by
  refine checked_write.trans ?_
  simp [validLocked, or_assoc]

theorem write_newFailLimit : p.write .failLimit x y = some q ↔ 4 ≤ x ∧ x ≤ 16 ∧ q = { p with failLimit := x } := by
  refine checked_write.trans ?_
  simp [validFailLimit, and_assoc]

theorem write_graceTime : p.write .graceTime x y = some q ↔ 30 ≤ x ∧ x ≤ 600 ∧ q = { p with graceTime := x } := by
  refine checked_write.trans ?_
  simp [validGrace, and_assoc]

theorem write_offerTime : p.write .offerTime x y = some q ↔ 60 ≤ x ∧ x ≤ 1800 ∧ q = { p with offerTime := x } := by
  refine checked_write.trans ?_
  simp [validOffer, and_assoc]

theorem write_reviewTime : p.write .reviewTime x y = some q ↔
    120 ≤ x ∧ x ≤ 3600 ∧ q = { p with reviewTime := x } := by
  refine checked_write.trans ?_
  simp [validReview, and_assoc]

theorem write_blankTime (g : Group) : p.write (.blankTime g) x y = some q ↔
    1 ≤ x ∧ x ≤ 600 ∧ q = { p with blankTime := p.blankTime.set g.val x g.isLt } := by
  refine checked_write.trans ?_
  simp [validBlank, and_assoc]

end Ranges

/-! ### The decision (R126, R187) -/

section Decision

variable {seq : Byte} {w : Acting} {x : Byte} {m n : Half} {c : Console} {o : Option Operator} {p : Parameter}
  {s : State} {a b : Nat} {new : Params}

theorem exec_paramWrite (hw : decodeEngineer w = some (c, o)) (hx : decodeParameter x = some p) :
    exec (.paramWrite seq w x m n) s =
      request 0x25 seq (some fun v => v.writeParam c o p m.toNat n.toNat) s := by
  show execParamWrite seq w x m n s = _
  unfold execParamWrite
  rw [hw, hx]
  rfl

theorem writeParam_refused (h : ¬s.mayEngineer c o (s.levelSomewhere · 4)) :
    s.writeParam c o p a b = .refuse .noAuthority :=
  check_fail [] _ (mt (engineer_congr s c o (supervisorSomewhere_iff s)).1 h)

theorem writeParam_allowed (h : s.mayEngineer c o (s.levelSomewhere · 4)) : s.writeParam c o p a b =
    (s.cfg.params.write p a b).elim (.refuse .badValue) fun q =>
      if q = s.cfg.params then .unchanged (q.data p) else .accept (s.takeParams p q).storeWrite (q.data p) := by
  refine (check_pass [] _ ((engineer_congr s c o (supervisorSomewhere_iff s)).2 h)).trans ?_
  cases s.cfg.params.write p a b <;> rfl

end Decision

/-! ### New escalation times (R84) -/

section Times

variable {s : State} {p : Params}

theorem priority_index (x : Priority) (i : Fin 4) : x.index = i ↔ priorityCode x = i.val + 1 := by
  rw [Fin.ext_iff]
  cases x <;> simp [Priority.index, priorityCode] <;> omega

theorem advance_eq (now : Nat) (r : Record) : p.advance now r =
    if escalationReached p now r then escalated r else if reminderReached p now r then reminded r else r := by
  unfold Params.advance
  rw [escalate_eq, remind_eq]
  exact if_congr (escalation_reached p now r) rfl (if_congr (reminder_reached p now r) rfl rfl)

theorem takeParams_escalation (i : Fin 4) (j : Slot) : (s.takeParams (.escalation i) p).live[j] =
    s.live[j].map fun r =>
      if priorityCode r.priority = i.val + 1 then
        if escalationReached p s.partTime r then escalated r
        else if reminderReached p s.partTime r then reminded r else r
      else r := by
  refine (mapRecords_at (s := s.setParams p) _ j).trans (congrArg (fun f => s.live[j].map f) (funext fun r => ?_))
  exact if_congr (priority_index r.priority i) (advance_eq s.partTime r) rfl

theorem setParams_changesOnly (s : State) (p : Params) : changesOnly s (s.setParams p) [.settings] := by
  intro x hx
  cases x <;> simp_all [State.same, sameAt, State.setParams]

theorem takeParams_escalation_changesOnly (s : State) (i : Fin 4) (p : Params) :
    changesOnly s (s.takeParams (.escalation i) p) [.settings, .table] :=
  changesOnly_trans (setParams_changesOnly s p) (mapRecords_changesOnly (s := s.setParams p) _)

theorem takeParams_other {x : Parameter} (h : ∀ i, x ≠ .escalation i) (hf : x ≠ .failLimit) :
    s.takeParams x p = s.setParams p := by
  cases x <;> simp_all [State.takeParams]

end Times

/-! ### A new fail limit (R136, R140, R141) -/

section FailLimit

variable {s t : State} {p : Params} {d : Desk} {limit grace : Nat}

theorem limitedDesk_kept (h : ¬(d.link.isUp = true ∧ limit ≤ min d.count (limit + 1))) :
    d.limited limit grace = { d with count := min d.count (limit + 1) } :=
  if_neg (by rw [Bool.and_eq_true, decide_eq_true_iff]; exact h)

theorem limitedDesk_lost {z : Window} (hl : d.link = .up z) (hn : limit ≤ min d.count (limit + 1)) :
    d.limited limit grace =
      Desk.detached (Desk.aborted { d with count := min d.count (limit + 1), link := .lost z } .linkLost) grace := by
  unfold Desk.limited Desk.lost
  dsimp only
  rw [if_pos (by rw [hl, decide_eq_true hn]; rfl), hl]

theorem abortedDesk_active (h : d.handover.phase.active = true) (x : HandoverOutcome) :
    (d.aborted x).handover = { phase := .none, lastOutcome := some x } := by
  unfold Desk.aborted
  cases hp : d.handover.phase with
  | none =>
    rw [hp] at h
    cases h
  | offered | review => rfl

theorem capCounts_changesOnly (s : State) : changesOnly s s.capCounts [.links, .changes] := by
  refine changesOnly_trans (l := [.links]) (m := [.changes]) (fun x hx => ?_) (changesOnly_markAll _ _)
  cases x <;> simp_all [State.same, sameAt, ConsoleRecord.capped]

theorem loseAll_changesOnly (l : List Console) (v : State) :
    changesOnly v (l.foldl State.loseLink v) [.links, .sessions, .handovers, .changes] := by
  induction l generalizing v with
  | nil => exact changesOnly_refl v _
  | cons d ds ih => exact changesOnly_mono (changesOnly_trans (loseLink_changesOnly v d) (ih _)) (by decide)

/-- The state as a new fail limit leaves it, before the routes are derived again. -/
def State.limitTaken (s : State) (p : Params) : State :=
  (s.setParams p).capCounts.failing.foldl State.loseLink (s.setParams p).capCounts

theorem limitTaken_changesOnly (s : State) (p : Params) :
    changesOnly s (s.limitTaken p) [.settings, .links, .sessions, .handovers, .changes] :=
  changesOnly_mono (changesOnly_trans (changesOnly_trans (setParams_changesOnly s p) (capCounts_changesOnly _))
    (loseAll_changesOnly _ _)) (by decide)

theorem takeParams_failLimit_none (h : (s.setParams p).capCounts.failing = []) :
    s.takeParams .failLimit p = s.limitTaken p := by
  show (s.setParams p).relimit = _
  unfold State.limitTaken
  rw [h]
  exact if_pos (List.isEmpty_iff.2 h)

theorem takeParams_failLimit_some (h : (s.setParams p).capCounts.failing ≠ []) :
    s.takeParams .failLimit p = (s.limitTaken p).rerouteStep := by
  show (s.setParams p).relimit = _
  exact if_neg (by rwa [List.isEmpty_iff])

theorem takeParams_failLimit_changesOnly (s : State) (p : Params) : changesOnly s (s.takeParams .failLimit p)
    [.settings, .links, .sessions, .handovers, .changes, .routes, .table] := by
  by_cases h : (s.setParams p).capCounts.failing = []
  · rw [takeParams_failLimit_none h]
    exact changesOnly_mono (limitTaken_changesOnly s p) (by decide)
  · rw [takeParams_failLimit_some h]
    exact changesOnly_mono (changesOnly_trans (limitTaken_changesOnly s p) (rerouteStep_changesOnly _)) (by decide)

theorem mem_failing {d : Console} : d ∈ (s.setParams p).capCounts.failing ↔
    s.linkUp d = true ∧ p.failLimit ≤ min s.consoles[d].count (p.failLimit + 1) := by
  have hc : (s.setParams p).capCounts.consoles[d] = s.consoles[d].capped p.failLimit := by
    simp [State.capCounts, State.setParams]
  unfold State.failing
  rw [mem_numbersWhere, Bool.and_eq_true, decide_eq_true_iff]
  unfold State.linkUp
  rw [hc, State.capCounts_cfg]
  rfl

variable (h : Concludes (s.takeParams .failLimit p).storeWrite t)

include h

theorem desk_limited (d : Console) : t.deskAt d =
    (s.deskAt d).limited p.failLimit (s.partTime + 10 * p.graceTime) := by
  rw [h.deskAt, deskAt_storeWrite, deskAt_takeParams, if_pos rfl]

/-- A console that the new limit does not take to LOST. -/
theorem limited_kept {d : Console}
    (hc : ¬(s.linkUp d = true ∧ p.failLimit ≤ min s.consoles[d].count (p.failLimit + 1))) :
    t.deskAt d = { s.deskAt d with count := min s.consoles[d].count (p.failLimit + 1) } :=
  (desk_limited h d).trans (limitedDesk_kept (d := s.deskAt d) hc)

/-- A console that the new limit takes to LOST. -/
theorem limited_lost {d : Console} {z : Window} (hz : s.consoles[d].link = .up z)
    (hc : p.failLimit ≤ min s.consoles[d].count (p.failLimit + 1)) :
    t.consoles[d].count = min s.consoles[d].count (p.failLimit + 1) ∧ t.consoles[d].link = .lost z ∧
      t.consoles[d].session = s.consoles[d].session.onGrace (s.partTime + 10 * p.graceTime) ∧
      t.consoles[d].lastEnd = s.consoles[d].lastEnd ∧
      (s.handovers[d].phase.active = true → t.handovers[d] = { phase := .none, lastOutcome := some .linkLost }) := by
  have hd := (desk_limited h d).trans (limitedDesk_lost (d := s.deskAt d) hz hc)
  rw [detachedDesk] at hd
  exact ⟨congrArg Desk.count hd, congrArg Desk.link hd, congrArg Desk.session hd, congrArg Desk.lastEnd hd,
    fun ha => (congrArg Desk.handover hd).trans (abortedDesk_active ha _)⟩

theorem link_kept_iff (d : Console) : t.consoles[d].link = s.consoles[d].link ↔ d ∉ (s.setParams p).capCounts.failing := by
  rw [mem_failing]
  by_cases hc : s.linkUp d = true ∧ p.failLimit ≤ min s.consoles[d].count (p.failLimit + 1)
  · obtain ⟨z, hz⟩ := linkUp_some hc.1
    rw [(limited_lost h hz hc.2).2.1, hz]
    exact ⟨nofun, fun hn => absurd hc hn⟩
  · exact ⟨fun _ => hc, fun _ => congrArg Desk.link (limited_kept h hc)⟩

theorem limit_rerouted (hd : ∃ d : Console, t.consoles[d].link ≠ s.consoles[d].link) : rerouted s t := by
  obtain ⟨d, hd⟩ := hd
  have hf : (s.setParams p).capCounts.failing ≠ [] :=
    List.ne_nil_of_mem (not_not.1 (mt (link_kept_iff h d).2 hd))
  rw [takeParams_failLimit_some hf] at h
  refine h.rerouted_step (sameRecords_of_only (limitTaken_changesOnly s p)) (storeWrite_sameRecords _) fun a => ?_
  rw [routeOf_storeWrite, routeOf_rerouteStep]

theorem limit_routesStand (hd : ∀ d : Console, t.consoles[d].link = s.consoles[d].link) : routesStand s t := by
  have hf : (s.setParams p).capCounts.failing = [] :=
    List.eq_nil_iff_forall_not_mem.2 fun d => (link_kept_iff h d).1 (hd d)
  rw [takeParams_failLimit_none hf] at h
  have hu := changesOnly_trans (limitTaken_changesOnly s p) (changesOnly_storeWrite _)
  exact ⟨h.same (by decide) (hu .routes (by decide)), h.same (by decide) (hu .table (by decide))⟩

/-- What a new fail limit leaves of a console (R136, R140, R141, R152, R176). -/
theorem limit_takenAt (hg : p.graceTime = s.cfg.params.graceTime) (d : Console)
    (hm : linkByte s.consoles[d].link ≠ linkByte t.consoles[d].link → marked t [.console d]) :
    t.consoles[d].count = min s.consoles[d].count (p.failLimit + 1) ∧
      (∀ z, s.consoles[d].link = .up z →
        t.consoles[d].link = if p.failLimit ≤ t.consoles[d].count then .lost z else .up z) ∧
      (s.linkUp d = false → t.consoles[d].link = s.consoles[d].link) ∧
      (t.consoles[d].link ≠ s.consoles[d].link → marked t [.console d] ∧
        (s.handovers[d].phase.active = true → t.handovers[d] = { phase := .none, lastOutcome := some .linkLost }) ∧
        ∀ q, s.consoles[d].session = .attached q →
          t.consoles[d].session = .detached q (s.partTime + 10 * s.cfg.params.graceTime)) ∧
      (t.consoles[d].link = s.consoles[d].link →
        t.consoles[d].session = s.consoles[d].session ∧ t.handovers[d] = s.handovers[d]) ∧
      t.consoles[d].lastEnd = s.consoles[d].lastEnd := by
  by_cases hc : s.linkUp d = true ∧ p.failLimit ≤ min s.consoles[d].count (p.failLimit + 1)
  · obtain ⟨w, hw⟩ := linkUp_some hc.1
    obtain ⟨hcount, hlink, hsession, hlast, hhand⟩ := limited_lost h hw hc.2
    refine ⟨hcount, fun z hz => ?_, fun hu => absurd (hu.symm.trans hc.1) Bool.false_ne_true,
      fun _ => ⟨hm ?_, hhand, fun q hq => ?_⟩, fun he => ?_, hlast⟩
    · cases hw.symm.trans hz
      rw [if_pos (hcount ▸ hc.2), hlink]
    · rw [hw, hlink]
      show (2 : Byte) ≠ 3
      decide
    · rw [hsession, hg, onGrace_attached hq]
    · rw [hlink, hw] at he
      cases he
  · have hd := limited_kept h hc
    have hcount : t.consoles[d].count = min s.consoles[d].count (p.failLimit + 1) := congrArg Desk.count hd
    have hlink : t.consoles[d].link = s.consoles[d].link := congrArg Desk.link hd
    refine ⟨hcount, fun z hz => ?_, fun _ => hlink, fun hne => absurd hlink hne,
      fun _ => ⟨congrArg Desk.session hd, congrArg Desk.handover hd⟩, congrArg Desk.lastEnd hd⟩
    rw [if_neg fun hn => hc ⟨(linkUp_iff s d).2 ⟨z, hz⟩, hcount ▸ hn⟩, hlink, hz]

end FailLimit

/-- A link that an event has taken to another state is marked at its end. -/
theorem settle_marks_link {s u : State} {x : Option Console} {d : Console}
    (h : linkByte s.consoles[d].link ≠ linkByte u.consoles[d].link) : marked (settle s u x) [.console d] := by
  refine settle_marked s u x fun hv => h ?_
  have hlink : u.rehorn.rerelay.consoles[d].link = u.consoles[d].link :=
    (congrArg ConsoleRecord.link (settling_console s u d) :)
  exact (congrArg ConsoleView.link hv).trans (congrArg linkByte hlink)

theorem answer_marks {v : State} {refs : List Ref} (h : marked v refs) (code seq : Byte) (reply : Reply) :
    marked (v.answer code seq reply) refs := marked_of_same rfl rfl h

theorem takeParams_changesOnly (s : State) (x : Parameter) (p : Params) : changesOnly s (s.takeParams x p)
    [.settings, .links, .sessions, .handovers, .changes, .routes, .table] := by
  by_cases hf : x = .failLimit
  · rw [hf]
    exact takeParams_failLimit_changesOnly s p
  · by_cases hi : ∃ i, x = .escalation i
    · obtain ⟨i, rfl⟩ := hi
      exact changesOnly_mono (takeParams_escalation_changesOnly s i p) (by decide)
    · rw [takeParams_other (fun i h => hi ⟨i, h⟩) hf]
      exact changesOnly_mono (setParams_changesOnly s p) (by decide)

/-- Settles O58. -/
theorem parameterWrites : Obligations.ParameterWrites := by
  refine ⟨fun p q x y => ⟨write_escalation, write_floodThresholds, write_windowPeriod, write_lockedFraction,
    write_newFailLimit, write_graceTime, write_offerTime, write_reviewTime, write_blankTime⟩,
    fun seq w x m n c o p s hl hw hx => ?_⟩
  have hexec := exec_paramWrite (seq := seq) (m := m) (n := n) (s := s) hw hx
  refine ⟨fun hm => request_refuses hexec hl (writeParam_refused (s := s.plantHunting) hm), fun hm hnone => ?_,
    fun new hm hnew => ⟨fun he => ?_, fun hne => ?_⟩⟩
  · refine request_refuses hexec hl ((writeParam_allowed (s := s.plantHunting) hm).trans ?_)
    rw [show s.plantHunting.cfg.params.write p m.toNat n.toNat = none from hnone]
    rfl
  all_goals
    have hv := writeParam_allowed (s := s.plantHunting) (p := p) (a := m.toNat) (b := n.toNat) hm
    rw [show s.plantHunting.cfg.params.write p m.toNat n.toNat = some new from hnew] at hv
  · exact request_unchanged hexec hl (hv.trans (if_pos he))
  · have hu := changesOnly_trans (takeParams_changesOnly s.plantHunting p new) (changesOnly_storeWrite _)
    obtain ⟨t, ht, hteq, hend, hacc⟩ := request_accepts (storeParts ++ [.table, .links, .sessions, .handovers, .routes])
      hexec hl (hv.trans (if_neg hne)) (changesOnly_mono hu (by decide)) (by decide)
    have honly (parts : List Part) (h : changesOnly s.plantHunting (s.plantHunting.takeParams p new) parts) :
        changesOnly s t (linkParts ++ derivedParts ++ (parts ++ [.store, .draws])) := by
      rw [hteq]
      exact (accepted_settled (data := new.data p) (hu .plantReceiver (by decide)) (changesOnly_mono
        (changesOnly_trans h (changesOnly_storeWrite _)) fun _ hp => List.mem_append_right _ hp)).2
    refine ⟨t, ht, hend.cfg.trans (takeParams_cfg s.plantHunting p new),
      hend.stored ((takeParams_changesOnly s.plantHunting p new) .store (by decide))
        ((takeParams_changesOnly s.plantHunting p new) .draws (by decide)), fun hi hf => ?_, fun i hi => ?_,
      fun hf d => ?_, fun hf => ?_, hacc⟩
    · refine changesOnly_mono (honly [.settings] ?_) (by decide)
      rw [takeParams_other hi hf]
      exact setParams_changesOnly _ _
    · subst hi
      refine ⟨fun j => ?_, changesOnly_mono
        (honly [.settings, .table] (takeParams_escalation_changesOnly _ i new)) (by decide)⟩
      rw [hend.live, State.storeWrite_live, takeParams_escalation]
      rfl
    · subst hf
      obtain ⟨-, -, hq⟩ := write_newFailLimit.1 hnew
      refine limit_takenAt (s := s.plantHunting) hend (by rw [hq]; rfl) d fun hb => ?_
      rw [hend.link] at hb
      rw [hteq]
      exact answer_marks (settle_marks_link hb) _ _ _
    · subst hf
      exact ⟨limit_rerouted (s := s.plantHunting) hend, limit_routesStand (s := s.plantHunting) hend⟩

end Sys2Proof.Machine
end
